-- ==== Sys2Proof/Word.lean ====
section
/-! DEFINITION. Words: the plain bit widths of the Beynyx F9 and their names (R4, R27, R57, R74). -/

namespace Sys2Proof

/-- A scalar register, a system register, a virtual address (R57, R74). -/
abbrev Word := BitVec 64

/-- One byte of memory, of scratchpad or of a code image (R4). -/
abbrev Byte := BitVec 8

/-- The data of a vector register (R27, R74). -/
abbrev VData := BitVec 4096

/-- A predicate register: one bit for each 4-bit lane (R74, R384). -/
abbrev PData := BitVec 1024

/-- One 64-byte line of a code image or of memory, byte 0 in bits 7:0 (R89). -/
abbrev Line := BitVec 512

/-- One instruction word (R94). -/
abbrev InstrWord := BitVec 96

end Sys2Proof
end

