-- ==== Sys2Proof/Syntax.lean ====
section
/-! DEFINITION. The syntax of the machine: one constructor of Instr for every row of the opcode table, that is every
instruction of R313 and every device operation or event of file 95 (spec/95_what_each_step_holds.md). -/

namespace Sys2Proof

/-- Scalar register number; s0 to s31 private, s32 to s63 shared (R74). -/
abbrev SReg := BitVec 6
/-- Vector register number (R74). -/
abbrev VReg := BitVec 5
/-- Predicate register number (R74). -/
abbrev QReg := BitVec 3
/-- Guard number (R74). -/
abbrev GReg := BitVec 4
/-- Scratchpad descriptor pair p, which names s(2p) and s(2p + 1) (R99, R142). -/
abbrev Pair := BitVec 5
/-- Token queue code, 1 to 12 (R70). -/
abbrev TokQ := BitVec 4

/-- The four sequencers, coded as the OWN field of R91. -/
inductive Seqr where
  | X | L | C | S
  deriving DecidableEq, Repr

/-- One context slot of one core (R65). -/
structure CtxId where
  core : Nat
  slot : Nat
  deriving DecidableEq, Repr

/-- One sequencer of one context slot. -/
structure SeqId where
  core : Nat
  slot : Nat
  seq  : Seqr
  deriving DecidableEq, Repr

/-- The fields that every instruction word carries beside its opcode and operands (R94). -/
structure Hdr where
  gai  : Bool
  ga   : GReg
  gbi  : Bool
  gb   : GReg
  wq   : BitVec 4
  pq   : BitVec 4
  hint : BitVec 2
  yld  : Bool
  deriving DecidableEq, Repr

/-- Scopes (R98, R215). -/
inductive Scope where
  | ctx | core | cluster | die | dev | pool | sys
  deriving DecidableEq, Repr

/-- Orderings of class M (R98). -/
inductive MOrd where
  | plain | acq | rel | ar
  deriving DecidableEq, Repr

/-- Orderings of FENCE (R319). -/
inductive FenceOrd where
  | acq | rel | ar | sc
  deriving DecidableEq, Repr

/-- Sizes of LD and ST (R353). -/
inductive Size where
  | b | h | w | d
  deriving DecidableEq, Repr

/-- Conditions of CMP (R347). -/
inductive Cond where
  | eq | ne | lt | le | gt | ge | ltu | leu | gtu | geu
  deriving DecidableEq, Repr

/-- Operations of ATOM and RED (R328). -/
inductive AtomOp where
  | add | and | or | xor | smin | smax | umin | umax | swap | cas | fadd
  deriving DecidableEq, Repr

/-- Format tags (R32). -/
inductive Fmt where
  | raw | fp32 | bf16 | e4m3 | e5m2 | i8 | i16 | i32 | i64 | z8 | z16 | z32 | z64 | i6 | i4 | pimg
  deriving DecidableEq, Repr

/-- Rounding modifiers (R36). -/
inductive Round where
  | dyn | rne | rtz | rup | rdn
  deriving DecidableEq, Repr

/-- Modes of MOVI (R364). -/
inductive MoviMode where
  | zx | sx | hi
  deriving DecidableEq, Repr

/-- Forms of LDK (R356). -/
inductive LdkForm where
  | w | sx | d
  deriving DecidableEq, Repr

/-- Kinds of PREF (R345). -/
inductive PrefKind where
  | l1 | l2
  deriving DecidableEq, Repr

/-- Kinds of CMNT (R346). -/
inductive CmntKind where
  | l1inv | wb | wbinv | l1all
  deriving DecidableEq, Repr

/-- Chunked layouts of a transfer (R391, R392). -/
inductive Chunk where
  | flat | c48 | c96
  deriving DecidableEq, Repr

/-- Activation formats of the matrix unit (R320). -/
inductive ActFmt where
  | e4m3 | e5m2 | bf16
  deriving DecidableEq, Repr

/-- Weight formats (R320, R419). -/
inductive WFmt where
  | w4g48 | w3g48 | e4m3 | bf16
  deriving DecidableEq, Repr

/-- Forms of a staged tile (R135, R320). -/
inductive MForm where
  | dense | s6 | s4 | s3
  deriving DecidableEq, Repr

/-- Conditions of VCMP (R406). -/
inductive VCond where
  | eq | ne | lt | le | gt | ge | un
  deriving DecidableEq, Repr

/-- Operators of VRED and VSCAN (R416). -/
inductive RedOp where
  | add | min | max | and | or | xor
  deriving DecidableEq, Repr

/-- Operators of VREDX (R415). -/
inductive RedxOp where
  | add | min | max | and | or | xor | fadd
  deriving DecidableEq, Repr

/-- Special functions (R417). -/
inductive Sfn where
  | rcp | rsqrt | sqrt | exp2 | log2 | exp | log | sin | cos | tanh | sigm | silu
  deriving DecidableEq, Repr

/-- The address, alias class, scope and ordering of a class M instruction (R96 to R98). -/
structure MemArg where
  base : SReg
  idx  : SReg
  off  : BitVec 24
  al   : BitVec 3
  sc   : Scope
  ord  : MOrd
  deriving DecidableEq, Repr

/-- The address of PREF and CMNT (R344). -/
structure LineArg where
  base : SReg
  idx  : SReg
  off  : BitVec 24
  deriving DecidableEq, Repr

/-- The operands of VLDX, VSTX and VREDX (R413); sync is .acq of VLDX, .rel of the others. -/
structure GatherArg where
  v    : VReg
  base : SReg
  ix   : VReg
  fmt  : Fmt
  sc   : Scope
  al   : BitVec 3
  sync : Bool
  deriving DecidableEq, Repr

/-- The operands of a block transfer (R391). -/
structure BlockArg where
  sp  : Pair
  b   : SReg
  p   : SReg
  g   : SReg
  sc  : Scope
  win : Bool
  pad : Bool
  ch  : Chunk
  deriving DecidableEq, Repr

/-- The operands of a row form or of TLD.adp (R391, R395). -/
structure RowArg where
  sp : Pair
  b  : SReg
  n  : SReg
  g  : SReg
  ch : Chunk
  deriving DecidableEq, Repr

/-- The modifiers of WLD (R419). -/
structure WldArg where
  sc   : Scope
  ws   : Bool
  wf   : WFmt
  form : MForm
  deriving DecidableEq, Repr

/-- The A operand of a matrix instruction (R141). -/
inductive AOp where
  | group (v : VReg)
  | scratch (p : Pair)
  deriving DecidableEq, Repr

/-- The operands of MMA and MMAS (R358). -/
structure MmaArg where
  acc  : Pair
  a    : AOp
  trec : BitVec 3
  ws   : Bool
  af   : ActFmt
  wf   : WFmt
  form : MForm
  kx   : BitVec 3
  re   : BitVec 3
  ce   : BitVec 4
  deriving DecidableEq, Repr

/-- The operands of MMAG (R362); nm1 is the rank minus 1. -/
structure MmagArg where
  acc  : Pair
  a    : AOp
  adp  : Pair
  trec : BitVec 3
  up   : Bool
  af   : ActFmt
  nm1  : BitVec 5
  as   : BitVec 6
  re   : BitVec 3
  ce   : BitVec 4
  deriving DecidableEq, Repr

/-- A vector source that may be a scalar (R384). -/
inductive VSrc where
  | v (r : VReg)
  | s (r : SReg)
  deriving DecidableEq, Repr

/-- The modifiers of the vector template (R318, R384). -/
structure VMod where
  fmt  : Fmt
  rm   : Round
  sat  : Bool
  pz   : Bool
  lane : Option QReg
  deriving DecidableEq, Repr

/-- The two forms of VPCNT (R403). -/
inductive PcntArg where
  | elems (m : VMod) (d a : VReg)
  | pred (f : Fmt) (d : SReg) (q : QReg)
  deriving DecidableEq, Repr

/-- The two forms of VBCAST (R404). -/
inductive BcastArg where
  | scalar (d : VReg) (a : SReg)
  | vector (d a : VReg) (i : SReg)
  deriving DecidableEq, Repr

/-- The six forms of VMOVS (R405). -/
inductive MovsArg where
  | move (f : Fmt) (pz : Bool) (lane : Option QReg) (d a : VReg)
  | ins (f : Fmt) (d : VReg) (a i : SReg)
  | ext (f : Fmt) (d : SReg) (a : VReg) (i : SReg)
  | fromq (d : VReg) (q : QReg)
  | toq (q : QReg) (a : VReg)
  | as (f : Fmt) (pz : Bool) (lane : Option QReg) (d a : VReg)
  deriving DecidableEq, Repr

/-- The system registers (R381). -/
inductive SysReg where
  | fpcr | workid | wfields | place | padrows | padcols | lhandle | cancel | bunting | wbase | ctxas
  | trec | taddr | fltaddr | assel | prsel | pdsel | fpsel
  | asroot | s2root | prctl
  | rnpool | qstat | sublog | parklog | parkinfo | fltq | fltres | pgmap | pgunmap | pgstat | sealld | sealst | tvec
  | pgcfg | pbudget | savebase | pdctl | pdcore0 | pdcore1 | pdcore2 | pdcomm | pdchan0 | pdchan1 | pdqos | pdkeys
  | weircfg | vaultcfg | sweep | scrub
  | cvadmit | cvstat | cvwd0 | cvwd1 | vload | vlstat | burgeedst | poolstat | fltq2 | pgfree | rtvec | preq | pstat
  | audcfg | audbuf | audlog | suspect | commons0 | commons1 | commons2 | keyctl | fpmap0 | fpmap1 | fpmap2 | fpmap3
  | fablog | mkey | mkeystat | fabid | froute
  deriving DecidableEq, Repr

/-- Where an uncorrectable error is consumed (R192, R270 to R274). -/
inductive ErrSite where
  /-- a line of HBM, or of a dirty L2 or RDC line, by its physical address -/
  | line (addr : Nat)
  /-- a register of a context, read by the given sequencer -/
  | core (q : SeqId)
  /-- a 16-byte line of a context's scratchpad -/
  | scratch (c : CtxId) (line : Nat)
  /-- the array, a staging slot or the tile of the given record, read by a matrix instruction -/
  | matrix (c : CtxId) (trec : BitVec 3)
  /-- data of one bunting row, in the neutral context -/
  | row (c : CtxId) (row : Nat)
  /-- a line of an L2 or RDC, by its physical address: dropped while it is clean -/
  | cached (addr : Nat)
  /-- a line of the L1 and constant cache of a core, which are never dirty -/
  | l1 (core addr : Nat)
  /-- an error that was corrected, whatever the array -/
  | corrected
  deriving DecidableEq, Repr

/-- A Felened header flit as R305 lays it out. -/
structure Packet where
  type  : BitVec 8
  ptag  : BitVec 8
  flits : Nat
  mc    : Bool
  dest  : BitVec 16
  src   : BitVec 16
  rtag  : Word
  addr  : Word
  size  : Nat
  op    : BitVec 8
  data  : List Byte
  deriving DecidableEq, Repr

/-- The kinds of back-invalidation snoop (R204). -/
inductive SnoopKind where
  | cur | data | inv
  deriving DecidableEq, Repr

/-- A back-invalidation snoop: its kind, the 64-byte lines that it names (one but for a block form), and what those lines
hold once another device that asked for them has written them (R204, R206). -/
structure Snoop where
  kind    : SnoopKind
  lines   : Nat
  written : List Line
  deriving DecidableEq, Repr

/-- Where a host's memory request goes: BAR0 or BAR2, and its offset there (R291 to R293). -/
structure BarPlace where
  bar0 : Bool
  off  : Nat
  deriving DecidableEq, Repr

/-- One instruction of the opcode map, or one device operation or event of the table. -/
inductive Instr where
  -- scalar integer (R325, R326, R334, R338, R347, R352, R356, R364, R378, R418)
  | add (h : Hdr) (d a b : SReg)
  | addi (h : Hdr) (d a : SReg) (imm : BitVec 32)
  | sub (h : Hdr) (d a b : SReg)
  | mul (h : Hdr) (d a b : SReg)
  | mulh (h : Hdr) (u : Bool) (d a b : SReg)
  | div (h : Hdr) (u : Bool) (d a b : SReg)
  | rem (h : Hdr) (u : Bool) (d a b : SReg)
  | and (h : Hdr) (d a b : SReg)
  | andImm (h : Hdr) (d a : SReg) (imm : BitVec 32)
  | or (h : Hdr) (d a b : SReg)
  | orImm (h : Hdr) (d a : SReg) (imm : BitVec 32)
  | xor (h : Hdr) (d a b : SReg)
  | xorImm (h : Hdr) (d a : SReg) (imm : BitVec 32)
  | andn (h : Hdr) (d a b : SReg)
  | shl (h : Hdr) (d a b : SReg)
  | shlImm (h : Hdr) (d a : SReg) (sh : BitVec 6)
  | shr (h : Hdr) (d a b : SReg)
  | shrImm (h : Hdr) (d a : SReg) (sh : BitVec 6)
  | sar (h : Hdr) (d a b : SReg)
  | sarImm (h : Hdr) (d a : SReg) (sh : BitVec 6)
  | min (h : Hdr) (u : Bool) (d a b : SReg)
  | max (h : Hdr) (u : Bool) (d a b : SReg)
  | clz (h : Hdr) (d a : SReg)
  | popc (h : Hdr) (d a : SReg)
  | brev (h : Hdr) (d a : SReg)
  | bfx (h : Hdr) (sx : Bool) (d a : SReg) (pos wm1 : BitVec 6)
  | bfi (h : Hdr) (d a b : SReg) (pos wm1 : BitVec 6)
  | sel (h : Hdr) (d a b : SReg) (g : GReg)
  | mov (h : Hdr) (d a : SReg)
  | movi (h : Hdr) (mode : MoviMode) (d a : SReg) (imm : BitVec 32)
  | ldk (h : Hdr) (form : LdkForm) (d i : SReg) (w : BitVec 3) (off : BitVec 17)
  | cmp (h : Hdr) (c : Cond) (g : GReg) (a b : SReg)
  | cmpImm (h : Hdr) (c : Cond) (g : GReg) (a : SReg) (imm : BitVec 32)
  | gand (h : Hdr) (na nb nd : Bool) (g ga gb : GReg)
  | gor (h : Hdr) (na nb nd : Bool) (g ga gb : GReg)
  | wfld (h : Hdr) (d : SReg) (j : BitVec 3)
  -- control and synchronisation
  | bra (h : Hdr) (off : BitVec 26) (slot : BitVec 3)
  | brx (h : Hdr) (a : SReg)
  | call (h : Hdr) (l : SReg) (off : BitVec 26) (slot : BitVec 3)
  | ret (h : Hdr) (a : SReg)
  | loop (h : Hdr) (c : SReg) (off : BitVec 26) (slot : BitVec 3)
  | bkt (h : Hdr) (d a : SReg) (w : BitVec 3) (off : BitVec 17)
  | endTask (h : Hdr)
  | yield (h : Hdr)
  | trap (h : Hdr) (imm : BitVec 32)
  | tret (h : Hdr)
  | nop (h : Hdr)
  | tkpost (h : Hdr) (sc : Scope) (q : TokQ)
  | tkwait (h : Hdr) (sc : Scope) (q : TokQ)
  | tkqry (h : Hdr) (d : SReg) (q : TokQ)
  | bar (h : Hdr) (sc : Scope)
  | cbar (h : Hdr) (sc : Scope)
  | fence (h : Hdr) (o : FenceOrd) (sc : Scope)
  -- scalar and vector memory
  | ld (h : Hdr) (size : Size) (sx : Bool) (m : MemArg) (d : SReg)
  | st (h : Hdr) (size : Size) (m : MemArg) (a : SReg)
  | atom (h : Hdr) (op : AtomOp) (w8 : Bool) (m : MemArg) (d : SReg)
  | red (h : Hdr) (op : AtomOp) (w8 : Bool) (m : MemArg) (a : SReg)
  | pref (h : Hdr) (k : PrefKind) (m : LineArg)
  | cmnt (h : Hdr) (k : CmntKind) (m : LineArg)
  | vld (h : Hdr) (f : Fmt) (m : MemArg) (v : VReg)
  | vldScratchpad (h : Hdr) (f : Fmt) (v : VReg) (p : Pair) (r : SReg)
  | vldAcc (h : Hdr) (trec : BitVec 3) (v : VReg) (p : Pair) (r : SReg)
  | vst (h : Hdr) (f : Fmt) (m : MemArg) (v : VReg)
  | vstScratchpad (h : Hdr) (f : Fmt) (p : Pair) (r : SReg) (v : VReg)
  | vldx (h : Hdr) (x : GatherArg)
  | vstx (h : Hdr) (x : GatherArg)
  | vredx (h : Hdr) (op : RedxOp) (x : GatherArg)
  -- tile and asynchronous transfer
  | tld (h : Hdr) (t : BlockArg)
  | tldRows (h : Hdr) (t : RowArg)
  | tldAdp (h : Hdr) (t : RowArg)
  | tst (h : Hdr) (t : BlockArg)
  | tscat (h : Hdr) (t : RowArg)
  | scopy (h : Hdr) (k : BitVec 5) (d a b l c : SReg)
  | rrot (h : Hdr) (dst src : Pair) (l : SReg)
  | wld (h : Hdr) (w : WldArg) (a : SReg)
  -- matrix
  | mma (h : Hdr) (m : MmaArg)
  | mmas (h : Hdr) (m : MmaArg)
  | mmag (h : Hdr) (m : MmagArg)
  | mzero (h : Hdr) (w32 : Bool) (trec : BitVec 3) (acc : Pair) (p : SReg)
  | mstat (h : Hdr) (trec : BitVec 3) (d : SReg)
  -- vector arithmetic
  | vadd (h : Hdr) (m : VMod) (d a : VReg) (b : VSrc)
  | vsub (h : Hdr) (m : VMod) (d a : VReg) (b : VSrc)
  | vmul (h : Hdr) (m : VMod) (d a : VReg) (b : VSrc)
  | vfma (h : Hdr) (m : VMod) (d a : VReg) (b c : VSrc)
  | vmin (h : Hdr) (m : VMod) (d a : VReg) (b : VSrc)
  | vmax (h : Hdr) (m : VMod) (d a : VReg) (b : VSrc)
  | vabs (h : Hdr) (m : VMod) (d a : VReg)
  | vneg (h : Hdr) (m : VMod) (d a : VReg)
  | vand (h : Hdr) (m : VMod) (d a : VReg) (b : VSrc)
  | vor (h : Hdr) (m : VMod) (d a : VReg) (b : VSrc)
  | vxor (h : Hdr) (m : VMod) (d a : VReg) (b : VSrc)
  | vshl (h : Hdr) (m : VMod) (d a : VReg) (b : VSrc)
  | vshr (h : Hdr) (m : VMod) (d a : VReg) (b : VSrc)
  | vcmp (h : Hdr) (c : VCond) (m : VMod) (q : QReg) (a : VReg) (b : VSrc)
  | vsel (h : Hdr) (m : VMod) (d a b : VReg) (q : QReg)
  | vpcnt (h : Hdr) (x : PcntArg)
  | vbtst (h : Hdr) (m : VMod) (q : QReg) (a : VReg) (b : VSrc)
  | vred (h : Hdr) (op : RedOp) (m : VMod) (d a : VReg)
  | vscan (h : Hdr) (op : RedOp) (m : VMod) (d a : VReg)
  -- vector convert, permute and special
  | vcvt (h : Hdr) (df : Fmt) (m : VMod) (d a : VReg)
  | vpack (h : Hdr) (od : Bool) (m : VMod) (d a b : VReg)
  | vunpk (h : Hdr) (hi : Bool) (m : VMod) (d a b : VReg)
  | vsfn (h : Hdr) (fn : Sfn) (m : VMod) (d a : VReg)
  | vperm (h : Hdr) (m : VMod) (d a x : VReg)
  | vbcast (h : Hdr) (m : VMod) (x : BcastArg)
  | vidx (h : Hdr) (m : VMod) (d : VReg) (a b : SReg)
  | vmovs (h : Hdr) (x : MovsArg)
  | vcprs (h : Hdr) (m : VMod) (d a : VReg)
  | vxpnd (h : Hdr) (m : VMod) (d a : VReg)
  | qand (h : Hdr) (na nb nd : Bool) (d a b : QReg)
  | qor (h : Hdr) (na nb nd : Bool) (d a b : QReg)
  | qnot (h : Hdr) (d a : QReg)
  -- task and system
  | tsub (h : Hdr) (d a c : SReg)
  | tcan (h : Hdr) (all : Bool) (d hd i : SReg)
  | dqpush (h : Hdr) (d a : SReg)
  | dqpop (h : Hdr) (d e : SReg)
  | dqstl (h : Hdr) (d e : SReg) (v : Option SReg)
  | watch (h : Hdr) (d a : SReg)
  | unwatch (h : Hdr) (d a : SReg)
  | resq (h : Hdr) (sum : Bool) (d a b : SReg)
  | carve (h : Hdr) (d a : SReg)
  | sysrd (h : Hdr) (d : SReg) (r : SysReg)
  | syswr (h : Hdr) (r : SysReg) (a : SReg)
  | tlbinv (h : Hdr) (s2 all : Bool) (a b c : SReg)
  | psdone (h : Hdr) (a : SReg) (imm : BitVec 32)
  | rdcnt (h : Hdr) (d : SReg) (n : BitVec 32)
  | rdtime (h : Hdr) (d : SReg)
  | notify (h : Hdr) (d a : SReg)
  -- operations of the sequencers and units
  | tokenPost (q : SeqId)
  | instructionComplete (q : SeqId) (k : Nat)
  | transferComplete (q : SeqId) (k : Nat)
  | wldFillComplete (c : CtxId) (ws : Bool)
  | matrixComplete (c : CtxId)
  | rrotComplete (c : CtxId)
  | watchdogTrap (c : CtxId)
  | tsubQueueEntry (c : CtxId)
  -- front end, weir and dispatcher
  | dependencesMet (p : BitVec 4) (seq : BitVec 48)
  | taskRoute (p : BitVec 4) (seq : BitVec 48) (ix : Nat)
  | weirTestCycle (die : BitVec 2)
  | buntingStart (die : BitVec 2)
  | taskDispatch (p : BitVec 4) (seq : BitVec 48) (ix : Nat)
  | gangDispatch (p : BitVec 4) (seq : BitVec 48) (gang : Nat)
  | contextRetire (c : CtxId)
  | launchCommit (p : BitVec 4) (seq : BitVec 48)
  | heldFireSubmit (k : Nat)
  -- translation faults and logs
  | faultQueueJoin (k : Nat)
  | sideLogReplay (core : Nat) (k : Nat)
  | fltresRetry (c : CtxId) (s2 : Bool) (token : BitVec 8)
  | fltresAbandon (c : CtxId) (s2 : Bool) (token : BitVec 8)
  | fltqRead (q : SeqId) (d : SReg)
  | fltq2Read (q : SeqId) (d : SReg)
  | sublogRead (q : SeqId) (d : SReg)
  | parklogRead (q : SeqId) (d : SReg)
  | audlogRead (q : SeqId) (d : SReg)
  | fablogRead (q : SeqId) (d : SReg)
  -- heat and pages
  | sweep (die : BitVec 2)
  | scrubPage (die : BitVec 2)
  | pgmap (p : BitVec 4) (v : Word)
  | pgmapPageTaken (p : BitVec 4)
  | pgunmap (p : BitVec 4) (v : Word)
  | pgfree (v : Word)
  -- vaults
  | cvadmit (c : CtxId) (v : Word)
  | codeVaultAdmissionEnd
  | cvwd1 (v : Word)
  | vload (v : Word)
  | shardTimeout (n : Nat)
  | burgeeSend
  | burgeedst (v : Word)
  | weircfgHeight (die : BitVec 2) (v : BitVec 9)
  | vaultcfgSize (die : BitVec 2) (v : BitVec 8)
  | rnpool (p : BitVec 4) (v : Word)
  -- pre-emption
  | preqSaveContext (c : CtxId)
  | preqSavePolder (p : BitVec 4)
  | preqPartitionSwap (p q : BitVec 4)
  | preqRestorePolder (p : BitVec 4)
  | forcedSave (c : CtxId)
  | contextRestore (c : CtxId)
  | swapExchange
  -- errors and the auditor
  | uncorrectableError (site : ErrSite)
  | dieLinkFailure (a b : Nat)
  | auditReplay (k core : Nat) (wrong : Word)
  | suspectClr (core : Nat)
  | suspectQuar (core : Nat) (on : Bool)
  -- the pool
  | leveeClosing (n : BitVec 14)
  | leveeCloseComplete (n : BitVec 14)
  | leveeOpen (n : BitVec 14)
  | regionDetach (n : BitVec 14)
  | poolLinkDown (port : BitVec 2)
  | poolCompletionTimeout (port : BitVec 2)
  | poolIdeLoss (port : BitVec 2)
  | viralIndication (port : BitVec 2)
  /-- the snoop, and the address of its first line in the memory that a port reaches -/
  | backInvalidationSnoop (k : Snoop) (addr : Nat)
  -- the fabric
  | readRequest (port : Nat) (p : Packet)
  | writeRequest (port : Nat) (p : Packet)
  | atomicRequest (port : Nat) (p : Packet)
  | readResponse (port : Nat) (p : Packet)
  | writeAcknowledgement (port : Nat) (p : Packet)
  | errorResponse (port : Nat) (p : Packet)
  | shard (port : Nat) (p : Packet)
  | shardRequest (port : Nat) (p : Packet)
  | burgee (port : Nat) (p : Packet)
  | fabricRequestTimeout (rtag : Word)
  | fabricAckTimeout (port : Nat)
  | fabricLinkDown (port : Nat)
  -- periods
  | commonsMeteringPeriod
  | qosWindow
  | atomicCredit
  -- polders, keys and host
  | pdctlConfigure (p : BitVec 4)
  | pdctlActivate (p : BitVec 4) (v : Word)
  | pdctlDestroy (p : BitVec 4)
  | polderDestroyComplete (p : BitVec 4)
  | commons (k : BitVec 2) (v : Word)
  | keyctlGenerate (k : BitVec 5)
  | keyctlErase (k : BitVec 5)
  | sealld (c : CtxId) (v : Word)
  | mkey (v : Word)
  | bootrec (v : Word)
  /-- a memory request at a function's BAR2, or at its BAR0, which has no row of its own (R292) -/
  | hostBar2Access (fn : BitVec 4) (off : BarPlace) (size : Nat) (data : Option (List Byte))
  | msixUnmask (fn : BitVec 4) (vec : Nat)
  | configurationRequest
  | getTdispVersion (fn : BitVec 4)
  | getTdispCapabilities (fn : BitVec 4)
  | lockInterfaceRequest (fn : BitVec 4)
  | getDeviceInterfaceReport (fn : BitVec 4)
  | getDeviceInterfaceState (fn : BitVec 4)
  | startInterfaceRequest (fn : BitVec 4)
  | stopInterfaceRequest (fn : BitVec 4)
  | negotiateAlgorithms (offered : List Bool)
  | getMeasurements (slot : Nat) (index : Nat) (signed : Bool)
  | ideKm (stream : Nat)
  | ideIntegrityFailure (stream : Nat)
  | moduleReset
  | powerLoss
  | thermalWarning (die : Nat)
  | thermalTrip (die : Nat)
  | firmwareUpdate (version : Nat) (image : List Byte) (signature : List Byte)
  | poolLinkActive (port : BitVec 2) (narrow slow : Bool)
  | sweepComplete (die : BitVec 2)
  | spdmSecuredSession (slot : Nat)
  | otherPacketType (port : Nat) (p : Packet)
  deriving DecidableEq, Repr

end Sys2Proof
end

