-- ==== Sys2Proof/Machine/Formats.lean ====
section
/-! DEFINITION. The codes of the enumerated fields and the shapes of the element formats (R32, R36, R98, R320, R328,
R347, R406, R413, R415 to R417). Each enumeration has its code and the reading of a code, which is none for a code the
spec leaves undefined. -/

namespace Sys2Proof.Machine

/-- A reading of an enumerated field: the first listed value with that code. -/
def readCode {α : Type} {n : Nat} (code : α → BitVec n) (all : List α) (b : BitVec n) : Option α :=
  all.find? fun x => code x == b

/-- OWN codes (R91). -/
def seqCode : Seqr → BitVec 2
  | .X => 0 | .L => 1 | .C => 2 | .S => 3

def allSeqs : List Seqr := [.X, .L, .C, .S]

/-- Scope codes (R98). -/
def scopeCode : Scope → BitVec 3
  | .ctx => 0 | .core => 1 | .cluster => 2 | .die => 3 | .dev => 4 | .pool => 5 | .sys => 6

def allScopes : List Scope := [.ctx, .core, .cluster, .die, .dev, .pool, .sys]

def scopeOf (b : BitVec 3) : Option Scope := readCode scopeCode allScopes b

/-- Ordering codes of class M (R98). -/
def ordCode : MOrd → BitVec 2
  | .plain => 0 | .acq => 1 | .rel => 2 | .ar => 3

def ordOf (b : BitVec 2) : Option MOrd := readCode ordCode [.plain, .acq, .rel, .ar] b

/-- Ordering codes of FENCE (R319). -/
def fenceCode : FenceOrd → BitVec 2
  | .acq => 0 | .rel => 1 | .ar => 2 | .sc => 3

def fenceOf (b : BitVec 2) : Option FenceOrd := readCode fenceCode [.acq, .rel, .ar, .sc] b

/-- Size codes (R353). -/
def sizeCode : Size → BitVec 2
  | .b => 0 | .h => 1 | .w => 2 | .d => 3

def sizeOf2 (b : BitVec 2) : Option Size := readCode sizeCode [.b, .h, .w, .d] b

/-- The access size in bytes (R353). -/
def sizeBytes : Size → Nat
  | .b => 1 | .h => 2 | .w => 4 | .d => 8

/-- Condition codes of CMP (R347). -/
def condCode : Cond → BitVec 4
  | .eq => 0 | .ne => 1 | .lt => 2 | .le => 3 | .gt => 4 | .ge => 5 | .ltu => 6 | .leu => 7 | .gtu => 8 | .geu => 9

def condOf (b : BitVec 4) : Option Cond :=
  readCode condCode [.eq, .ne, .lt, .le, .gt, .ge, .ltu, .leu, .gtu, .geu] b

/-- Operation codes of ATOM and RED (R328). -/
def atomCode : AtomOp → BitVec 5
  | .add => 0 | .and => 1 | .or => 2 | .xor => 3 | .smin => 4 | .smax => 5 | .umin => 6 | .umax => 7 | .swap => 8
  | .cas => 9 | .fadd => 10

def atomOf (b : BitVec 5) : Option AtomOp :=
  readCode atomCode [.add, .and, .or, .xor, .smin, .smax, .umin, .umax, .swap, .cas, .fadd] b

/-- Tag codes (R32). -/
def fmtCode : Fmt → BitVec 5
  | .raw => 0 | .fp32 => 1 | .bf16 => 2 | .e4m3 => 3 | .e5m2 => 4 | .i8 => 5 | .i16 => 6 | .i32 => 7 | .i64 => 8
  | .z8 => 9 | .z16 => 10 | .z32 => 11 | .z64 => 12 | .i6 => 13 | .i4 => 14 | .pimg => 15

def allFmts : List Fmt :=
  [.raw, .fp32, .bf16, .e4m3, .e5m2, .i8, .i16, .i32, .i64, .z8, .z16, .z32, .z64, .i6, .i4, .pimg]

/-- A tag code; codes 16 to 31 are reserved (R32). -/
def fmtOf (b : BitVec 5) : Option Fmt := readCode fmtCode allFmts b

/-- Rounding codes; 5 to 7 are undefined (R36). -/
def roundCode : Round → BitVec 3
  | .dyn => 0 | .rne => 1 | .rtz => 2 | .rup => 3 | .rdn => 4

def roundOf (b : BitVec 3) : Option Round := readCode roundCode [.dyn, .rne, .rtz, .rup, .rdn] b

/-- Mode codes of MOVI (R364). -/
def moviCode : MoviMode → BitVec 2
  | .zx => 0 | .sx => 1 | .hi => 2

def moviOf (b : BitVec 2) : Option MoviMode := readCode moviCode [.zx, .sx, .hi] b

/-- Form codes of LDK (R356). -/
def ldkCode : LdkForm → BitVec 2
  | .w => 0 | .sx => 1 | .d => 2

def ldkOf (b : BitVec 2) : Option LdkForm := readCode ldkCode [.w, .sx, .d] b

/-- Kind codes of PREF (R345) and CMNT (R346). -/
def prefCode : PrefKind → BitVec 5
  | .l1 => 0 | .l2 => 1

def prefOf (b : BitVec 5) : Option PrefKind := readCode prefCode [.l1, .l2] b

def cmntCode : CmntKind → BitVec 5
  | .l1inv => 0 | .wb => 1 | .wbinv => 2 | .l1all => 3

def cmntOf (b : BitVec 5) : Option CmntKind := readCode cmntCode [.l1inv, .wb, .wbinv, .l1all] b

/-- Layout codes of a transfer (R391). -/
def chunkCode : Chunk → BitVec 2
  | .flat => 0 | .c48 => 1 | .c96 => 2

def chunkOf (b : BitVec 2) : Option Chunk := readCode chunkCode [.flat, .c48, .c96] b

/-- Activation, weight and form codes (R320). -/
def actCode : ActFmt → BitVec 2
  | .e4m3 => 0 | .e5m2 => 1 | .bf16 => 2

def actOf (b : BitVec 2) : Option ActFmt := readCode actCode [.e4m3, .e5m2, .bf16] b

def wfmtCode : WFmt → BitVec 2
  | .w4g48 => 0 | .w3g48 => 1 | .e4m3 => 2 | .bf16 => 3

def wfmtOf (b : BitVec 2) : Option WFmt := readCode wfmtCode [.w4g48, .w3g48, .e4m3, .bf16] b

def formCode : MForm → BitVec 2
  | .dense => 0 | .s6 => 1 | .s4 => 2 | .s3 => 3

def formOf (b : BitVec 2) : Option MForm := readCode formCode [.dense, .s6, .s4, .s3] b

/-- Condition codes of VCMP (R406). -/
def vcondCode : VCond → BitVec 6
  | .eq => 0 | .ne => 1 | .lt => 2 | .le => 3 | .gt => 4 | .ge => 5 | .un => 6

def vcondOf (b : BitVec 6) : Option VCond := readCode vcondCode [.eq, .ne, .lt, .le, .gt, .ge, .un] b

/-- Operator codes of VRED and VSCAN (R416). -/
def redCode : RedOp → BitVec 6
  | .add => 0 | .min => 1 | .max => 2 | .and => 3 | .or => 4 | .xor => 5

def redOf (b : BitVec 6) : Option RedOp := readCode redCode [.add, .min, .max, .and, .or, .xor] b

/-- Operator codes of VREDX (R415). -/
def redxCode : RedxOp → BitVec 3
  | .add => 0 | .min => 1 | .max => 2 | .and => 3 | .or => 4 | .xor => 5 | .fadd => 6

def redxOf (b : BitVec 3) : Option RedxOp := readCode redxCode [.add, .min, .max, .and, .or, .xor, .fadd] b

/-- Function codes of VSFN (R417). -/
def sfnCode : Sfn → BitVec 6
  | .rcp => 0 | .rsqrt => 1 | .sqrt => 2 | .exp2 => 3 | .log2 => 4 | .exp => 5 | .log => 6 | .sin => 7 | .cos => 8
  | .tanh => 9 | .sigm => 10 | .silu => 11

def sfnOf (b : BitVec 6) : Option Sfn :=
  readCode sfnCode [.rcp, .rsqrt, .sqrt, .exp2, .log2, .exp, .log, .sin, .cos, .tanh, .sigm, .silu] b

/-- The register numbers of R381. -/
def sysCode : SysReg → BitVec 12
  | .fpcr => 0x000 | .workid => 0x001 | .wfields => 0x002 | .place => 0x003 | .padrows => 0x004 | .padcols => 0x005
  | .lhandle => 0x006 | .cancel => 0x007 | .bunting => 0x008 | .wbase => 0x009 | .ctxas => 0x00A
  | .trec => 0x010 | .taddr => 0x011 | .fltaddr => 0x012 | .assel => 0x013 | .prsel => 0x014 | .pdsel => 0x018
  | .fpsel => 0x019 | .asroot => 0x020 | .s2root => 0x021 | .prctl => 0x022
  | .rnpool => 0x100 | .qstat => 0x101 | .sublog => 0x102 | .parklog => 0x103 | .parkinfo => 0x104 | .fltq => 0x105
  | .fltres => 0x106 | .pgmap => 0x107 | .pgunmap => 0x108 | .pgstat => 0x109 | .sealld => 0x10A | .sealst => 0x10B
  | .tvec => 0x10C | .pgcfg => 0x110 | .pbudget => 0x111 | .savebase => 0x112 | .pdctl => 0x118 | .pdcore0 => 0x119
  | .pdcore1 => 0x11A | .pdcore2 => 0x11B | .pdcomm => 0x11C | .pdchan0 => 0x11D | .pdchan1 => 0x11E | .pdqos => 0x11F
  | .pdkeys => 0x120 | .weircfg => 0x200 | .vaultcfg => 0x201 | .sweep => 0x202 | .scrub => 0x203
  | .cvadmit => 0x300 | .cvstat => 0x301 | .cvwd0 => 0x302 | .cvwd1 => 0x303 | .vload => 0x304 | .vlstat => 0x305
  | .burgeedst => 0x306 | .poolstat => 0x307 | .fltq2 => 0x308 | .pgfree => 0x309 | .rtvec => 0x30A | .preq => 0x30B
  | .pstat => 0x30C | .audcfg => 0x30D | .audbuf => 0x30E | .audlog => 0x30F | .suspect => 0x310 | .commons0 => 0x311
  | .commons1 => 0x312 | .commons2 => 0x313 | .keyctl => 0x314 | .fpmap0 => 0x316 | .fpmap1 => 0x317 | .fpmap2 => 0x318
  | .fpmap3 => 0x319 | .fablog => 0x31A | .mkey => 0x31B | .mkeystat => 0x31C | .fabid => 0x31D | .froute => 0x31E

def allSysRegs : List SysReg :=
  [.fpcr, .workid, .wfields, .place, .padrows, .padcols, .lhandle, .cancel, .bunting, .wbase, .ctxas, .trec, .taddr,
   .fltaddr, .assel, .prsel, .pdsel, .fpsel, .asroot, .s2root, .prctl, .rnpool, .qstat, .sublog, .parklog, .parkinfo,
   .fltq, .fltres, .pgmap, .pgunmap, .pgstat, .sealld, .sealst, .tvec, .pgcfg, .pbudget, .savebase, .pdctl, .pdcore0,
   .pdcore1, .pdcore2, .pdcomm, .pdchan0, .pdchan1, .pdqos, .pdkeys] ++
  [.weircfg, .vaultcfg, .sweep, .scrub, .cvadmit, .cvstat, .cvwd0, .cvwd1, .vload, .vlstat, .burgeedst, .poolstat,
   .fltq2, .pgfree, .rtvec, .preq, .pstat, .audcfg, .audbuf, .audlog, .suspect, .commons0, .commons1, .commons2, .keyctl,
   .fpmap0, .fpmap1, .fpmap2, .fpmap3, .fablog, .mkey, .mkeystat, .fabid, .froute]

/-- A register number; every other number is unassigned (R381). -/
def sysOf (b : BitVec 12) : Option SysReg := readCode sysCode allSysRegs b

/-- The element width of a format; .raw is taken as 4 bits (R32, R384). -/
def fmtWidth : Fmt → Nat
  | .raw => 4 | .fp32 => 32 | .bf16 => 16 | .e4m3 => 8 | .e5m2 => 8 | .i8 => 8 | .i16 => 16 | .i32 => 32 | .i64 => 64
  | .z8 => 8 | .z16 => 16 | .z32 => 32 | .z64 => 64 | .i6 => 8 | .i4 => 4 | .pimg => 1

/-- Elements in one register (R32, R384). -/
def fmtElems (f : Fmt) : Nat := if f = .pimg then 1024 else 4096 / fmtWidth f

/-- FP32 or BF16. -/
def isFp : Fmt → Bool
  | .fp32 | .bf16 => true
  | _ => false

/-- I8 to I64 and Z8 to Z64. -/
def isInt : Fmt → Bool
  | .i8 | .i16 | .i32 | .i64 | .z8 | .z16 | .z32 | .z64 => true
  | _ => false

/-- The tags read as signed integers. -/
def isSigned : Fmt → Bool
  | .i8 | .i16 | .i32 | .i64 | .i6 | .i4 => true
  | _ => false

/-- The four floating-point formats (R26). -/
def isFloat : Fmt → Bool
  | .fp32 | .bf16 | .e4m3 | .e5m2 => true
  | _ => false

/-- The formats of VADD to VFMA, VMIN, VMAX, VABS, VNEG, VCMP, VRED and VSCAN (R401, R406, R416). -/
def isArith (f : Fmt) : Bool := isFp f || isInt f

/-- Tag codes 1 to 14. -/
def isData : Fmt → Bool
  | .raw | .pimg => false
  | _ => true

/-- The data formats of the gathers (R413). -/
def isGather (f : Fmt) : Bool := isFloat f || isInt f

/-- The element size in bytes of an activation format (R141). -/
def actBytes : ActFmt → Nat
  | .e4m3 | .e5m2 => 1
  | .bf16 => 2

/-- The tag that an activation format asks of a register (R141). -/
def actFmt : ActFmt → Fmt
  | .e4m3 => .e4m3 | .e5m2 => .e5m2 | .bf16 => .bf16

/-- Chunks of 48 of each form (R53, R135). -/
def formChunks : MForm → Nat
  | .dense => 2 | .s6 => 4 | .s4 => 6 | .s3 => 8

/-- Positions kept in each 12-element group (R31). -/
def formKept : MForm → Nat
  | .dense => 12 | .s6 => 6 | .s4 => 4 | .s3 => 3

end Sys2Proof.Machine
end

