-- ==== Sys2Proof/Machine/Check.lean ====
section
/-! DEFINITION. Check 1 of R95 on an instruction whose fields have been read: what an instruction's entry refuses
although every field by itself is defined (R322). An instruction that fails raises trap 0x01 whether its guards hold or
not. Device operations carry no word and pass. -/

namespace Sys2Proof.Machine

/-- WQ and PQ below 13 (R70, R95). -/
def hdrOk (h : Hdr) : Bool := h.wq < 13 && h.pq < 13

/-- A token queue named by a specifier (R99). -/
def queueOk (q : TokQ) : Bool := 1 ≤ q && q < 13

/-- A descriptor pair; p = 0 is illegal (R99). -/
def pairOk (p : Pair) : Bool := p != 0

/-- The first register of a group of n (R76). -/
def alignedTo (n : Nat) (v : VReg) : Bool := v.toNat % n == 0

/-- The first register of a register-group A operand (R141). -/
def aGroupOk (v : VReg) : Bool := v.toNat % 4 == 0 && v.toNat ≤ 20

def aopOk : AOp → Bool
  | .group v => aGroupOk v
  | .scratch p => pairOk p

/-- Orderings of LD, VLD and of ST, VST (R353, R410). -/
def loadOrd (m : MemArg) : Bool := m.ord == .plain || m.ord == .acq
def storeOrd (m : MemArg) : Bool := m.ord == .plain || m.ord == .rel

/-- RM is accepted only where a rounding takes place, SAT only on integers (R386, R401, R402). -/
def roundedOk (m : VMod) : Bool :=
  isArith m.fmt && (if isFp m.fmt then !m.sat else m.rm == .dyn)

/-- VMIN, VMAX, VABS and VNEG take no RM, and .sat on integers alone (R402). VMIN and VMAX take no .sat. -/
def signOk (m : VMod) : Bool := isArith m.fmt && m.rm == .dyn && (isInt m.fmt || !m.sat)

/-- RM and SAT both 0. -/
def plainMod (m : VMod) : Bool := m.rm == .dyn && !m.sat

/-- .raw takes no scalar source (R403). -/
def rawScalarOk (m : VMod) (b : VSrc) : Bool :=
  match b with
  | .v _ => true
  | .s _ => m.fmt != .raw

def bitOk (m : VMod) (b : VSrc) : Bool := plainMod m && (isInt m.fmt || m.fmt == .raw) && rawScalarOk m b

def shiftOk (m : VMod) : Bool := plainMod m && isInt m.fmt

/-- Index registers of VPERM and their alignment (R407). -/
def permGroup (f : Fmt) : Nat := if fmtWidth f == 8 then 2 else if fmtWidth f == 4 then 4 else 1

/-- Index registers of the gathers (R413). -/
def gatherGroup (f : Fmt) : Nat := Nat.max 1 (32 / fmtWidth f)

def gatherOk (x : GatherArg) : Bool := isGather x.fmt && alignedTo (gatherGroup x.fmt) x.ix

/-- Pairings of operation and format of VREDX (R415). -/
def redxOk (op : RedxOp) (f : Fmt) : Bool :=
  match op with
  | .fadd => isFp f
  | _ => f == .i32 || f == .z32 || f == .i64 || f == .z64

/-- Operators and modifiers of VRED and VSCAN (R416). -/
def redModOk (op : RedOp) (m : VMod) : Bool :=
  isArith m.fmt && !m.sat && (m.rm == .dyn || (isFp m.fmt && op == .add))

def redOpOk (op : RedOp) (f : Fmt) : Bool :=
  match op with
  | .add | .min | .max => true
  | _ => isInt f

/-- Registers of the larger group of a conversion, and which side it is on (R408). -/
def cvtRatio (sf df : Fmt) : Nat := Nat.max (fmtWidth sf) (fmtWidth df) / Nat.min (fmtWidth sf) (fmtWidth df)

def cvtOk (df : Fmt) (m : VMod) (d a : VReg) : Bool :=
  isData df && isData m.fmt && df != m.fmt && cvtRatio m.fmt df ≤ 4 &&
  (if fmtWidth m.fmt < fmtWidth df then alignedTo (cvtRatio m.fmt df) d
   else if fmtWidth df < fmtWidth m.fmt then alignedTo (cvtRatio m.fmt df) a else true)

/-- The forms of VMOVS and their formats (R405). -/
def movsOk : MovsArg → Bool
  | .move _ _ _ _ _ => true
  | .ins f _ _ _ => isData f
  | .ext f _ _ _ => isData f
  | .fromq _ _ => true
  | .toq _ _ => true
  | .as f _ _ _ _ => f != .raw && f != .i6

/-- Fields of MMA and MMAS (R320, R358): KX inside the form. -/
def mmaOk (m : MmaArg) : Bool :=
  pairOk m.acc && aopOk m.a && m.kx.toNat < formChunks m.form

/-- Fields of BFX and BFI: POS + WM1 + 1 at most 64 (R334). -/
def fieldOk (pos wm1 : BitVec 6) : Bool := pos.toNat + wm1.toNat + 1 ≤ 64

/-- Operations and sizes of ATOM and RED (R327, R328). -/
def atomOk (op : AtomOp) (w8 : Bool) (d : SReg) : Bool :=
  (op != .fadd || !w8) && (op != .cas || d.toNat % 2 == 0)

def redAtomOk (op : AtomOp) (w8 : Bool) : Bool :=
  op != .swap && op != .cas && (op != .fadd || !w8)

/-- Check 1 of R95, over every instruction. -/
def checkOne : Instr → Bool
  | .add h _ _ _ | .sub h _ _ _ | .mul h _ _ _ | .and h _ _ _ | .or h _ _ _ | .xor h _ _ _ | .andn h _ _ _
  | .shl h _ _ _ | .shr h _ _ _ | .sar h _ _ _ => hdrOk h
  | .mulh h _ _ _ _ | .div h _ _ _ _ | .rem h _ _ _ _ | .min h _ _ _ _ | .max h _ _ _ _ => hdrOk h
  | .addi h _ _ _ | .andImm h _ _ _ | .orImm h _ _ _ | .xorImm h _ _ _ => hdrOk h
  | .shlImm h _ _ _ | .shrImm h _ _ _ | .sarImm h _ _ _ => hdrOk h
  | .clz h _ _ | .popc h _ _ | .brev h _ _ | .mov h _ _ => hdrOk h
  | .bfx h _ _ _ pos wm1 | .bfi h _ _ _ pos wm1 => hdrOk h && fieldOk pos wm1
  | .sel h _ _ _ _ => hdrOk h
  | .movi h mode _ a _ => hdrOk h && (mode == .hi || a == 0)
  | .ldk h _ _ _ _ _ => hdrOk h
  | .cmp h _ _ _ _ | .cmpImm h _ _ _ _ => hdrOk h
  | .gand h _ _ _ _ _ _ | .gor h _ _ _ _ _ _ => hdrOk h
  | .wfld h _ _ => hdrOk h
  | .bra h _ _ | .brx h _ | .call h _ _ _ | .ret h _ => hdrOk h
  | .loop h c _ _ => hdrOk h && c != 0
  | .bkt h _ _ _ _ => hdrOk h
  | .endTask h | .yield h | .trap h _ | .nop h => hdrOk h
  | .tret h => hdrOk h && h.wq == 0 && h.pq == 0
  | .tkpost h _ q => hdrOk h && h.pq == 0 && queueOk q
  | .tkwait h _ q => hdrOk h && h.wq == 0 && queueOk q
  | .tkqry h _ q => hdrOk h && queueOk q
  | .bar h _ | .cbar h _ | .fence h _ _ => hdrOk h
  | .ld h size sx m _ => hdrOk h && loadOrd m && !(sx && size == .d)
  | .st h _ m _ => hdrOk h && storeOrd m
  | .atom h op w8 _ d => hdrOk h && atomOk op w8 d
  | .red h op w8 m _ => hdrOk h && storeOrd m && redAtomOk op w8
  | .pref h _ _ => hdrOk h
  | .cmnt h k m => hdrOk h && (k != .l1all || (m.base == 0 && m.idx == 0 && m.off == 0))
  | .vld h _ m _ => hdrOk h && loadOrd m
  | .vldScratchpad h _ _ p _ => hdrOk h && pairOk p
  | .vldAcc h _ _ p _ => hdrOk h && pairOk p
  | .vst h _ m _ => hdrOk h && storeOrd m
  | .vstScratchpad h _ p _ _ => hdrOk h && pairOk p
  | .vldx h x | .vstx h x => hdrOk h && gatherOk x
  | .vredx h op x => hdrOk h && gatherOk x && redxOk op x.fmt
  | .tld h t | .tst h t => hdrOk h && pairOk t.sp
  | .tldRows h t | .tldAdp h t | .tscat h t => hdrOk h && pairOk t.sp
  | .scopy h _ _ _ _ _ _ => hdrOk h
  | .rrot h dst src _ => hdrOk h && pairOk dst && pairOk src
  | .wld h _ _ => hdrOk h
  | .mma h m => hdrOk h && mmaOk m && m.form == .dense
  | .mmas h m => hdrOk h && mmaOk m && m.form != .dense
  | .mmag h m => hdrOk h && pairOk m.acc && aopOk m.a && pairOk m.adp && (m.up || m.ce == 0)
  | .mzero h _ _ acc _ => hdrOk h && pairOk acc
  | .mstat h _ _ => hdrOk h
  | .vadd h m _ _ _ | .vsub h m _ _ _ | .vmul h m _ _ _ => hdrOk h && roundedOk m
  | .vfma h m _ _ _ _ => hdrOk h && roundedOk m
  | .vmin h m _ _ _ | .vmax h m _ _ _ => hdrOk h && signOk m && !m.sat
  | .vabs h m _ _ | .vneg h m _ _ => hdrOk h && signOk m
  | .vand h m _ _ b | .vor h m _ _ b | .vxor h m _ _ b => hdrOk h && bitOk m b
  | .vshl h m _ _ _ | .vshr h m _ _ _ => hdrOk h && shiftOk m
  | .vcmp h c m _ _ _ => hdrOk h && plainMod m && isArith m.fmt && (c != .un || isFp m.fmt)
  | .vsel h m _ _ _ _ => hdrOk h && plainMod m
  | .vpcnt h (.elems m _ _) => hdrOk h && shiftOk m
  | .vpcnt h (.pred f _ _) => hdrOk h && isData f
  | .vbtst h m _ _ _ => hdrOk h && shiftOk m
  | .vred h op m _ _ => hdrOk h && redModOk op m && redOpOk op m.fmt && !m.pz
  | .vscan h op m _ _ => hdrOk h && redModOk op m && (op == .add || op == .min || op == .max)
  | .vcvt h df m d a => hdrOk h && cvtOk df m d a
  | .vpack h _ m _ _ _ | .vunpk h _ m _ _ _ => hdrOk h && plainMod m && isData m.fmt
  | .vsfn h _ m _ _ => hdrOk h && isFp m.fmt && !m.sat
  | .vperm h m _ _ x => hdrOk h && plainMod m && isData m.fmt && alignedTo (permGroup m.fmt) x
  | .vbcast h m _ => hdrOk h && plainMod m && isData m.fmt
  | .vidx h m _ _ _ => hdrOk h && m.rm == .dyn && isInt m.fmt
  | .vmovs h x => hdrOk h && movsOk x
  | .vcprs h m _ _ => hdrOk h && plainMod m && isData m.fmt && m.lane.isSome && !m.pz
  | .vxpnd h m _ _ => hdrOk h && plainMod m && isData m.fmt
  | .qand h _ _ _ _ _ _ | .qor h _ _ _ _ _ _ => hdrOk h
  | .qnot h _ _ => hdrOk h
  | .tsub h _ _ _ => hdrOk h
  | .tcan h all _ _ i => hdrOk h && (!all || i == 0)
  | .dqpush h _ _ | .dqpop h _ _ => hdrOk h
  | .dqstl h _ _ _ => hdrOk h
  | .watch h _ _ | .unwatch h _ _ => hdrOk h
  | .resq h sum _ a _ => hdrOk h && (!sum || a == 0)
  | .carve h _ _ => hdrOk h
  | .sysrd h _ _ | .syswr h _ _ => hdrOk h
  | .tlbinv h _ all _ b c => hdrOk h && (!all || (b == 0 && c == 0))
  | .psdone h _ _ | .rdcnt h _ _ => hdrOk h
  | .rdtime h _ => hdrOk h
  | .notify h _ _ => hdrOk h
  | _ => true

/-- The instructions of the opcode map, which a program can contain; every other constructor is an operation of the
device or an event (file 95). -/
def isProgram : Instr → Bool
  | .tokenPost _ | .instructionComplete _ _ | .transferComplete _ _ | .wldFillComplete _ _ | .matrixComplete _
  | .rrotComplete _ | .watchdogTrap _ | .tsubQueueEntry _ | .dependencesMet _ _ | .taskRoute _ _ _ | .weirTestCycle _
  | .buntingStart _ | .taskDispatch _ _ _ | .gangDispatch _ _ _ | .contextRetire _ | .launchCommit _ _
  | .heldFireSubmit _ | .faultQueueJoin _ | .sideLogReplay _ _ | .fltresRetry _ _ _ | .fltresAbandon _ _ _
  | .fltqRead _ _ | .fltq2Read _ _ | .sublogRead _ _ | .parklogRead _ _ | .audlogRead _ _ | .fablogRead _ _ => false
  | .sweep _ | .scrubPage _ | .pgmap _ _ | .pgmapPageTaken _ | .pgunmap _ _ | .pgfree _ | .cvadmit _ _
  | .codeVaultAdmissionEnd | .cvwd1 _ | .vload _ | .shardTimeout _ | .burgeeSend | .burgeedst _ | .weircfgHeight _ _
  | .vaultcfgSize _ _ | .rnpool _ _ | .preqSaveContext _ | .preqSavePolder _ | .preqPartitionSwap _ _
  | .preqRestorePolder _ | .forcedSave _ | .contextRestore _ | .swapExchange | .uncorrectableError _
  | .dieLinkFailure _ _ | .auditReplay _ _ _ | .suspectClr _ | .suspectQuar _ _ => false
  | .leveeClosing _ | .leveeCloseComplete _ | .leveeOpen _ | .regionDetach _ | .poolLinkDown _
  | .poolCompletionTimeout _ | .poolIdeLoss _ | .viralIndication _ | .backInvalidationSnoop _ _ | .readRequest _ _
  | .writeRequest _ _ | .atomicRequest _ _ | .readResponse _ _ | .writeAcknowledgement _ _ | .errorResponse _ _
  | .shard _ _ | .shardRequest _ _ | .burgee _ _ | .fabricRequestTimeout _ | .fabricAckTimeout _ | .fabricLinkDown _
  | .commonsMeteringPeriod | .qosWindow | .atomicCredit => false
  | .pdctlConfigure _ | .pdctlActivate _ _ | .pdctlDestroy _ | .polderDestroyComplete _ | .commons _ _
  | .keyctlGenerate _ | .keyctlErase _ | .sealld _ _ | .mkey _ | .bootrec _ | .hostBar2Access _ _ _ _ | .msixUnmask _ _
  | .configurationRequest | .getTdispVersion _ | .getTdispCapabilities _ | .lockInterfaceRequest _
  | .getDeviceInterfaceReport _ | .getDeviceInterfaceState _ | .startInterfaceRequest _ | .stopInterfaceRequest _
  | .negotiateAlgorithms _ | .getMeasurements _ _ _ | .ideKm _ | .ideIntegrityFailure _ | .moduleReset | .powerLoss
  | .thermalWarning _ | .thermalTrip _ | .firmwareUpdate _ _ _ | .poolLinkActive _ _ _ | .sweepComplete _
  | .spdmSecuredSession _ | .otherPacketType _ _ => false
  | _ => true

/-! Scalar registers (R81) -/

def pairRegs (p : Pair) : List SReg := [BitVec.ofNat 6 (2 * p.toNat), BitVec.ofNat 6 (2 * p.toNat + 1)]

def vsrcRegs : VSrc → List SReg
  | .v _ => []
  | .s r => [r]

def margRegs (m : MemArg) : List SReg := [m.base, m.idx]

/-- The scalar registers that an instruction of the L sequencer reads or writes: what a status that a SCOPY has still to
write can make not ready (R81). -/
def scalarRegs : Instr → List SReg
  | .add _ d a b | .sub _ d a b | .mul _ d a b | .and _ d a b | .or _ d a b | .xor _ d a b | .andn _ d a b
  | .shl _ d a b | .shr _ d a b | .sar _ d a b => [d, a, b]
  | .mulh _ _ d a b | .div _ _ d a b | .rem _ _ d a b | .min _ _ d a b | .max _ _ d a b => [d, a, b]
  | .addi _ d a _ | .andImm _ d a _ | .orImm _ d a _ | .xorImm _ d a _ => [d, a]
  | .shlImm _ d a _ | .shrImm _ d a _ | .sarImm _ d a _ => [d, a]
  | .clz _ d a | .popc _ d a | .brev _ d a | .mov _ d a => [d, a]
  | .bfx _ _ d a _ _ => [d, a]
  | .bfi _ d a b _ _ => [d, a, b]
  | .sel _ d a b _ => [d, a, b]
  | .movi _ _ d a _ => [d, a]
  | .ldk _ _ d i _ _ => [d, i]
  | .cmp _ _ _ a b => [a, b]
  | .cmpImm _ _ _ a _ => [a]
  | .wfld _ d _ => [d]
  | .brx _ a | .ret _ a => [a]
  | .call _ l _ _ => [l]
  | .loop _ c _ _ => [c]
  | .bkt _ d a _ _ => [d, a]
  | .tkqry _ d _ => [d]
  | .ld _ _ _ m d => d :: margRegs m
  | .st _ _ m a => a :: margRegs m
  | .atom _ op _ m d => (if op == .cas then [d, d + 1] else [d]) ++ margRegs m
  | .red _ _ _ m a => a :: margRegs m
  | .pref _ _ m | .cmnt _ _ m => [m.base, m.idx]
  | .vld _ _ m _ | .vst _ _ m _ => margRegs m
  | .vldScratchpad _ _ _ p r | .vldAcc _ _ _ p r | .vstScratchpad _ _ p r _ => r :: pairRegs p
  | .vldx _ x | .vstx _ x | .vredx _ _ x => [x.base]
  | .tld _ t | .tst _ t => pairRegs t.sp ++ [t.b, t.p, t.g]
  | .tldRows _ t | .tldAdp _ t | .tscat _ t => pairRegs t.sp ++ [t.b, t.n, t.g]
  | .scopy _ _ d a b l c => [d, a, b, l, c]
  | .rrot _ dst src l => pairRegs dst ++ pairRegs src ++ [l]
  | .wld _ _ a => [a]
  | .mstat _ _ d => [d]
  | .vadd _ _ _ _ b | .vsub _ _ _ _ b | .vmul _ _ _ _ b | .vmin _ _ _ _ b | .vmax _ _ _ _ b => vsrcRegs b
  | .vfma _ _ _ _ b c => vsrcRegs b ++ vsrcRegs c
  | .vand _ _ _ _ b | .vor _ _ _ _ b | .vxor _ _ _ _ b | .vshl _ _ _ _ b | .vshr _ _ _ _ b => vsrcRegs b
  | .vcmp _ _ _ _ _ b | .vbtst _ _ _ _ b => vsrcRegs b
  | .vpcnt _ (.pred _ d _) => [d]
  | .vbcast _ _ (.scalar _ a) => [a]
  | .vbcast _ _ (.vector _ _ i) => [i]
  | .vidx _ _ _ a b => [a, b]
  | .vmovs _ (.ins _ _ a i) => [a, i]
  | .vmovs _ (.ext _ d _ i) => [d, i]
  | .sysrd _ d _ => [d]
  | .syswr _ _ a => [a]
  | .psdone _ a _ => [a]
  | .rdcnt _ d _ | .rdtime _ d => [d]
  | _ => []

end Sys2Proof.Machine
end

