-- ==== Sys2Proof/WellFormed.lean ====
section
/-! DEFINITION. A well-formed instruction: one that passes check 1 of R95. The checks themselves stand in
Machine/Check.lean. -/

namespace Sys2Proof

/-- Check 1 of R95 holds of the instruction. -/
abbrev WellFormed (i : Instr) : Prop := Machine.checkOne i = true

end Sys2Proof
end

