-- ==== Sys2Proof/Decode.lean ====
section
/-! DEFINITION. Decoding and encoding of the 96-bit instruction word (R94 to R99, R313 to R322 and the encodings of the
entries). Decoding is total: a word is an instruction or is refused by name, and every refusal is check 1 of R95, that
is trap 0x01. -/

namespace Sys2Proof

/-- Why a word is no instruction; each of these is the illegal-instruction trap 0x01 (R95, R314, R322). -/
inductive DecodeErr where
  /-- bit 64 of the word is set (R94) -/
  | reservedBit
  /-- the opcode is in no row of R313 (R314) -/
  | unassigned
  /-- a specifier, modifier or unused field has a value its entry does not define (R99, R322, R323) -/
  | operands
  /-- the fields are defined, but the entry refuses their combination (WellFormed) -/
  | illFormed
  deriving DecidableEq, Repr

/-! ### Fields of the word -/

/-- The word cut as R94 cuts it. -/
structure Raw where
  opc  : BitVec 10
  h    : Hdr
  rsv  : Bool
  opnd : BitVec 64
  deriving DecidableEq, Repr

def bit {n : Nat} (x : BitVec n) (i : Nat) : Bool := x.getLsbD i

def Raw.ofWord (w : InstrWord) : Raw :=
  { opc := w.extractLsb' 86 10
    h := { gai := bit w 85, ga := w.extractLsb' 81 4, gbi := bit w 80, gb := w.extractLsb' 76 4,
           wq := w.extractLsb' 72 4, pq := w.extractLsb' 68 4, hint := w.extractLsb' 66 2, yld := bit w 65 }
    rsv := bit w 64
    opnd := w.extractLsb' 0 64 }

def Raw.toWord (r : Raw) : InstrWord :=
  (r.opc ++ BitVec.ofBool r.h.gai ++ r.h.ga ++ BitVec.ofBool r.h.gbi ++ r.h.gb ++ r.h.wq ++ r.h.pq ++ r.h.hint ++
    BitVec.ofBool r.h.yld ++ BitVec.ofBool r.rsv ++ r.opnd).cast (by decide)

/-- Class RS (R96). -/
structure RS where
  s1 : BitVec 8
  s2 : BitVec 8
  s3 : BitVec 8
  s4 : BitVec 8
  s5 : BitVec 8
  m  : BitVec 24
  deriving DecidableEq, Repr

def RS.of (o : BitVec 64) : RS :=
  { s1 := o.extractLsb' 56 8, s2 := o.extractLsb' 48 8, s3 := o.extractLsb' 40 8, s4 := o.extractLsb' 32 8,
    s5 := o.extractLsb' 24 8, m := o.extractLsb' 0 24 }

def RS.pack (r : RS) : BitVec 64 := (r.s1 ++ r.s2 ++ r.s3 ++ r.s4 ++ r.s5 ++ r.m).cast (by decide)

/-- Class RI (R96). -/
structure RI where
  d   : BitVec 8
  s   : BitVec 8
  imm : BitVec 32
  m   : BitVec 16
  deriving DecidableEq, Repr

def RI.of (o : BitVec 64) : RI :=
  { d := o.extractLsb' 56 8, s := o.extractLsb' 48 8, imm := o.extractLsb' 16 32, m := o.extractLsb' 0 16 }

def RI.pack (r : RI) : BitVec 64 := (r.d ++ r.s ++ r.imm ++ r.m).cast (by decide)

/-- Class RK (R96). -/
structure RK where
  d   : BitVec 8
  s1  : BitVec 8
  s2  : BitVec 8
  w   : BitVec 3
  off : BitVec 17
  m   : BitVec 20
  deriving DecidableEq, Repr

def RK.of (o : BitVec 64) : RK :=
  { d := o.extractLsb' 56 8, s1 := o.extractLsb' 48 8, s2 := o.extractLsb' 40 8, w := o.extractLsb' 37 3,
    off := o.extractLsb' 20 17, m := o.extractLsb' 0 20 }

def RK.pack (r : RK) : BitVec 64 := (r.d ++ r.s1 ++ r.s2 ++ r.w ++ r.off ++ r.m).cast (by decide)

/-- Class M (R96, R98). -/
structure RM where
  d   : BitVec 8
  b   : BitVec 8
  x   : BitVec 8
  off : BitVec 24
  al  : BitVec 3
  sc  : BitVec 3
  ord : BitVec 2
  m   : BitVec 8
  deriving DecidableEq, Repr

def RM.of (o : BitVec 64) : RM :=
  { d := o.extractLsb' 56 8, b := o.extractLsb' 48 8, x := o.extractLsb' 40 8, off := o.extractLsb' 16 24,
    al := o.extractLsb' 13 3, sc := o.extractLsb' 10 3, ord := o.extractLsb' 8 2, m := o.extractLsb' 0 8 }

def RM.pack (r : RM) : BitVec 64 :=
  (r.d ++ r.b ++ r.x ++ r.off ++ r.al ++ r.sc ++ r.ord ++ r.m).cast (by decide)

/-- Class B (R96). -/
structure RB where
  r    : BitVec 8
  off  : BitVec 26
  slot : BitVec 3
  m    : BitVec 27
  deriving DecidableEq, Repr

def RB.of (o : BitVec 64) : RB :=
  { r := o.extractLsb' 56 8, off := o.extractLsb' 30 26, slot := o.extractLsb' 27 3, m := o.extractLsb' 0 27 }

def RB.pack (r : RB) : BitVec 64 := (r.r ++ r.off ++ r.slot ++ r.m).cast (by decide)

/-! ### Operand specifiers (R99) -/

def sSpec (b : BitVec 8) : Option SReg := if b.extractLsb' 6 2 = 0 then some (b.extractLsb' 0 6) else none
def vSpec (b : BitVec 8) : Option VReg := if b.extractLsb' 5 3 = 0b010 then some (b.extractLsb' 0 5) else none
def qSpec (b : BitVec 8) : Option QReg := if b.extractLsb' 3 5 = 0b10000 then some (b.extractLsb' 0 3) else none
def gSpec (b : BitVec 8) : Option GReg := if b.extractLsb' 4 4 = 0b1001 then some (b.extractLsb' 0 4) else none
def tSpec (b : BitVec 8) : Option TokQ := if b.extractLsb' 4 4 = 0b1010 then some (b.extractLsb' 0 4) else none
def pSpec (b : BitVec 8) : Option Pair := if b.extractLsb' 5 3 = 0b110 then some (b.extractLsb' 0 5) else none

def sEnc (r : SReg) : BitVec 8 := 0b00#2 ++ r
def vEnc (r : VReg) : BitVec 8 := 0b010#3 ++ r
def qEnc (r : QReg) : BitVec 8 := 0b10000#5 ++ r
def gEnc (r : GReg) : BitVec 8 := 0b1001#4 ++ r
def tEnc (r : TokQ) : BitVec 8 := 0b1010#4 ++ r
def pEnc (r : Pair) : BitVec 8 := 0b110#3 ++ r

/-- A vector source that may be a scalar (R384). -/
def vsSpec (b : BitVec 8) : Option VSrc :=
  match vSpec b with
  | some v => some (.v v)
  | none => (sSpec b).map .s

def vsEnc : VSrc → BitVec 8
  | .v r => vEnc r
  | .s r => sEnc r

/-- An A operand (R141, R358). -/
def aSpec (b : BitVec 8) : Option AOp :=
  match vSpec b with
  | some v => some (.group v)
  | none => (pSpec b).map .scratch

def aEnc : AOp → BitVec 8
  | .group r => vEnc r
  | .scratch p => pEnc p

/-- The lane predicate of specifier 5 (R318). -/
def laneSpec (b : BitVec 8) : Option (Option QReg) :=
  if b = 0 then some none else (qSpec b).map some

def laneEnc : Option QReg → BitVec 8
  | none => 0
  | some q => qEnc q

/-- A field that must be 0 (R96, R322). -/
def zero {n : Nat} (b : BitVec n) : Option Unit := if b = 0 then some () else none

def need (b : Bool) : Option Unit := if b then some () else none

/-! ### Decoding, row by row of the opcode map -/

/-- Three scalar registers and no modifier (R325). -/
def decSSS (f : SReg → SReg → SReg → Instr) (r : RS) : Option Instr := do
  let d ← sSpec r.s1
  let a ← sSpec r.s2
  let b ← sSpec r.s3
  zero r.s4
  zero r.s5
  zero r.m
  pure (f d a b)

/-- Three scalar registers and modifier bit 0 (R325). -/
def decSSSU (f : Bool → SReg → SReg → SReg → Instr) (r : RS) : Option Instr := do
  let d ← sSpec r.s1
  let a ← sSpec r.s2
  let b ← sSpec r.s3
  zero r.s4
  zero r.s5
  zero (r.m.extractLsb' 1 23)
  pure (f (bit r.m 0) d a b)

/-- Two scalar registers (R338, R348, R364). -/
def decSS (f : SReg → SReg → Instr) (r : RS) : Option Instr := do
  let d ← sSpec r.s1
  let a ← sSpec r.s2
  zero r.s3
  zero r.s4
  zero r.s5
  zero r.m
  pure (f d a)

/-- One scalar register (R339, R371). -/
def decS (f : SReg → Instr) (r : RS) : Option Instr := do
  let a ← sSpec r.s1
  zero r.s2
  zero r.s3
  zero r.s4
  zero r.s5
  zero r.m
  pure (f a)

/-- No operand and no modifier (R350, R367, R397, R421). -/
def dec0 (i : Instr) (r : RS) : Option Instr := do
  zero r.s1
  zero r.s2
  zero r.s3
  zero r.s4
  zero r.s5
  zero r.m
  pure i

/-- A destination, a source and a 32-bit immediate (R325). -/
def decSSI (f : SReg → SReg → BitVec 32 → Instr) (r : RI) : Option Instr := do
  let d ← sSpec r.d
  let a ← sSpec r.s
  zero r.m
  pure (f d a r.imm)

/-- The shift immediates, 0 to 63 (R325). -/
def decShift (f : SReg → SReg → BitVec 6 → Instr) (r : RI) : Option Instr := do
  let d ← sSpec r.d
  let a ← sSpec r.s
  zero (r.imm.extractLsb' 6 26)
  zero r.m
  pure (f d a (r.imm.extractLsb' 0 6))

def decBfx (h : Hdr) (r : RS) : Option Instr := do
  let d ← sSpec r.s1
  let a ← sSpec r.s2
  zero r.s3
  zero r.s4
  zero r.s5
  zero (r.m.extractLsb' 1 11)
  pure (.bfx h (bit r.m 0) d a (r.m.extractLsb' 18 6) (r.m.extractLsb' 12 6))

def decBfi (h : Hdr) (r : RS) : Option Instr := do
  let d ← sSpec r.s1
  let a ← sSpec r.s2
  let b ← sSpec r.s3
  zero r.s4
  zero r.s5
  zero (r.m.extractLsb' 0 12)
  pure (.bfi h d a b (r.m.extractLsb' 18 6) (r.m.extractLsb' 12 6))

def decSel (h : Hdr) (r : RS) : Option Instr := do
  let d ← sSpec r.s1
  let a ← sSpec r.s2
  let b ← sSpec r.s3
  let g ← gSpec r.s4
  zero r.s5
  zero r.m
  pure (.sel h d a b g)

def decMovi (h : Hdr) (r : RI) : Option Instr := do
  let d ← sSpec r.d
  let a ← sSpec r.s
  zero (r.m.extractLsb' 2 14)
  let mode ← Machine.moviOf (r.m.extractLsb' 0 2)
  pure (.movi h mode d a r.imm)

def decLdk (h : Hdr) (r : RK) : Option Instr := do
  let d ← sSpec r.d
  let i ← sSpec r.s1
  zero r.s2
  zero (r.m.extractLsb' 2 18)
  let form ← Machine.ldkOf (r.m.extractLsb' 0 2)
  pure (.ldk h form d i r.w r.off)

def decCmp (h : Hdr) (r : RS) : Option Instr := do
  let g ← gSpec r.s1
  let a ← sSpec r.s2
  let b ← sSpec r.s3
  zero r.s4
  zero r.s5
  zero (r.m.extractLsb' 0 20)
  let c ← Machine.condOf (r.m.extractLsb' 20 4)
  pure (.cmp h c g a b)

def decCmpImm (h : Hdr) (r : RI) : Option Instr := do
  let g ← gSpec r.d
  let a ← sSpec r.s
  zero (r.m.extractLsb' 0 12)
  let c ← Machine.condOf (r.m.extractLsb' 12 4)
  pure (.cmpImm h c g a r.imm)

/-- GAND and GOR (R352). -/
def decGuard (f : Bool → Bool → Bool → GReg → GReg → GReg → Instr) (r : RS) : Option Instr := do
  let g ← gSpec r.s1
  let ga ← gSpec r.s2
  let gb ← gSpec r.s3
  zero r.s4
  zero r.s5
  zero (r.m.extractLsb' 0 21)
  pure (f (bit r.m 23) (bit r.m 22) (bit r.m 21) g ga gb)

def decWfld (h : Hdr) (r : RI) : Option Instr := do
  let d ← sSpec r.d
  zero r.s
  zero (r.imm.extractLsb' 3 29)
  zero r.m
  pure (.wfld h d (r.imm.extractLsb' 0 3))

/-- Row 000, scalar integer (R313). -/
def decodeRow0 (n : Nat) (h : Hdr) (o : BitVec 64) : Option (Option Instr) :=
  match n with
  | 0x001 => some (decSSI (.addi h) (.of o))
  | 0x002 => some (decSSS (.add h) (.of o))
  | 0x003 => some (decSSS (.sub h) (.of o))
  | 0x004 => some (decSSS (.mul h) (.of o))
  | 0x005 => some (decSSSU (.mulh h) (.of o))
  | 0x006 => some (decSSSU (.div h) (.of o))
  | 0x007 => some (decSSSU (.rem h) (.of o))
  | 0x008 => some (decSSS (.and h) (.of o))
  | 0x009 => some (decSSI (.andImm h) (.of o))
  | 0x00A => some (decSSS (.or h) (.of o))
  | 0x00B => some (decSSI (.orImm h) (.of o))
  | 0x00C => some (decSSS (.xor h) (.of o))
  | 0x00D => some (decSSI (.xorImm h) (.of o))
  | 0x00E => some (decSSS (.andn h) (.of o))
  | 0x00F => some (decSSS (.shl h) (.of o))
  | 0x010 => some (decShift (.shlImm h) (.of o))
  | 0x011 => some (decSSS (.shr h) (.of o))
  | 0x012 => some (decShift (.shrImm h) (.of o))
  | 0x013 => some (decSSS (.sar h) (.of o))
  | 0x014 => some (decShift (.sarImm h) (.of o))
  | 0x015 => some (decSSSU (.min h) (.of o))
  | 0x016 => some (decSSSU (.max h) (.of o))
  | 0x017 => some (decSS (.clz h) (.of o))
  | 0x018 => some (decSS (.popc h) (.of o))
  | 0x019 => some (decSS (.brev h) (.of o))
  | 0x01A => some (decBfx h (.of o))
  | 0x01B => some (decBfi h (.of o))
  | 0x01C => some (decSel h (.of o))
  | 0x01D => some (decSS (.mov h) (.of o))
  | 0x01E => some (decMovi h (.of o))
  | 0x01F => some (decLdk h (.of o))
  | 0x020 => some (decCmp h (.of o))
  | 0x021 => some (decCmpImm h (.of o))
  | 0x022 => some (decGuard (.gand h) (.of o))
  | 0x023 => some (decGuard (.gor h) (.of o))
  | 0x024 => some (decWfld h (.of o))
  | _ => none

def decBra (h : Hdr) (r : RB) : Option Instr := do
  zero r.r
  zero r.m
  pure (.bra h r.off r.slot)

/-- CALL and LOOP (R340, R357). -/
def decLink (f : SReg → BitVec 26 → BitVec 3 → Instr) (r : RB) : Option Instr := do
  let l ← sSpec r.r
  zero r.m
  pure (f l r.off r.slot)

def decBkt (h : Hdr) (r : RK) : Option Instr := do
  let d ← sSpec r.d
  let a ← sSpec r.s1
  zero r.s2
  zero r.m
  pure (.bkt h d a r.w r.off)

/-- TRAP: an immediate alone (R396). -/
def decTrap (h : Hdr) (r : RI) : Option Instr := do
  zero r.d
  zero r.s
  zero r.m
  pure (.trap h r.imm)

/-- TKPOST and TKWAIT (R389). -/
def decTok (f : Scope → TokQ → Instr) (r : RS) : Option Instr := do
  let q ← tSpec r.s1
  zero r.s2
  zero r.s3
  zero r.s4
  zero r.s5
  zero (r.m.extractLsb' 0 21)
  let sc ← Machine.scopeOf (r.m.extractLsb' 21 3)
  pure (f sc q)

def decTkqry (h : Hdr) (r : RS) : Option Instr := do
  let d ← sSpec r.s1
  let q ← tSpec r.s2
  zero r.s3
  zero r.s4
  zero r.s5
  zero r.m
  pure (.tkqry h d q)

/-- BAR and CBAR (R332, R343). -/
def decBar (f : Scope → Instr) (r : RS) : Option Instr := do
  zero r.s1
  zero r.s2
  zero r.s3
  zero r.s4
  zero r.s5
  zero (r.m.extractLsb' 0 21)
  let sc ← Machine.scopeOf (r.m.extractLsb' 21 3)
  pure (f sc)

def decFence (h : Hdr) (r : RS) : Option Instr := do
  zero r.s1
  zero r.s2
  zero r.s3
  zero r.s4
  zero r.s5
  zero (r.m.extractLsb' 0 19)
  let sc ← Machine.scopeOf (r.m.extractLsb' 21 3)
  let ord ← Machine.fenceOf (r.m.extractLsb' 19 2)
  pure (.fence h ord sc)

/-- Row 001, control and synchronisation (R313). -/
def decodeRow1 (n : Nat) (h : Hdr) (o : BitVec 64) : Option (Option Instr) :=
  match n with
  | 0x080 => some (decBra h (.of o))
  | 0x081 => some (decS (.brx h) (.of o))
  | 0x082 => some (decLink (.call h) (.of o))
  | 0x083 => some (decS (.ret h) (.of o))
  | 0x084 => some (decLink (.loop h) (.of o))
  | 0x085 => some (decBkt h (.of o))
  | 0x086 => some (dec0 (.endTask h) (.of o))
  | 0x087 => some (dec0 (.yield h) (.of o))
  | 0x088 => some (decTrap h (.of o))
  | 0x089 => some (dec0 (.tret h) (.of o))
  | 0x08A => some (dec0 (.nop h) (.of o))
  | 0x090 => some (decTok (.tkpost h) (.of o))
  | 0x091 => some (decTok (.tkwait h) (.of o))
  | 0x092 => some (decTkqry h (.of o))
  | 0x093 => some (decBar (.bar h) (.of o))
  | 0x094 => some (decBar (.cbar h) (.of o))
  | 0x095 => some (decFence h (.of o))
  | _ => none

/-- The address, alias, scope and ordering of a class M instruction (R96 to R98). -/
def memArg (r : RM) : Option MemArg := do
  let b ← sSpec r.b
  let x ← sSpec r.x
  let sc ← Machine.scopeOf r.sc
  let ord ← Machine.ordOf r.ord
  pure { base := b, idx := x, off := r.off, al := r.al, sc := sc, ord := ord }

def decLd (h : Hdr) (r : RM) : Option Instr := do
  let d ← sSpec r.d
  let m ← memArg r
  zero (r.m.extractLsb' 0 5)
  let size ← Machine.sizeOf2 (r.m.extractLsb' 6 2)
  pure (.ld h size (bit r.m 5) m d)

def decSt (h : Hdr) (r : RM) : Option Instr := do
  let d ← sSpec r.d
  let m ← memArg r
  zero (r.m.extractLsb' 0 6)
  let size ← Machine.sizeOf2 (r.m.extractLsb' 6 2)
  pure (.st h size m d)

/-- ATOM and RED: sizes 4 and 8 alone (R327). -/
def decAtom (f : AtomOp → Bool → MemArg → SReg → Instr) (r : RM) : Option Instr := do
  let d ← sSpec r.d
  let m ← memArg r
  need (bit r.m 7)
  need (!bit r.m 5)
  let op ← Machine.atomOf (r.m.extractLsb' 0 5)
  pure (f op (bit r.m 6) m d)

/-- The fields of PREF and CMNT beside the kind (R344). -/
def lineArg (r : RM) : Option LineArg := do
  zero r.d
  let b ← sSpec r.b
  let x ← sSpec r.x
  zero r.al
  zero r.sc
  zero r.ord
  zero (r.m.extractLsb' 5 3)
  pure { base := b, idx := x, off := r.off }

def decPref (h : Hdr) (r : RM) : Option Instr := do
  let m ← lineArg r
  let k ← Machine.prefOf (r.m.extractLsb' 0 5)
  pure (.pref h k m)

def decCmnt (h : Hdr) (r : RM) : Option Instr := do
  let m ← lineArg r
  let k ← Machine.cmntOf (r.m.extractLsb' 0 5)
  pure (.cmnt h k m)

/-- The memory forms of VLD and VST (R410). -/
def decVmem (f : Fmt → MemArg → VReg → Instr) (r : RM) : Option Instr := do
  let v ← vSpec r.d
  let m ← memArg r
  zero (r.m.extractLsb' 0 3)
  let fm ← Machine.fmtOf (r.m.extractLsb' 3 5)
  pure (f fm m v)

def decVldSp (h : Hdr) (r : RS) : Option Instr := do
  let v ← vSpec r.s1
  let p ← pSpec r.s2
  let x ← sSpec r.s3
  zero r.s4
  zero r.s5
  zero (r.m.extractLsb' 0 19)
  let f ← Machine.fmtOf (r.m.extractLsb' 19 5)
  pure (.vldScratchpad h f v p x)

def decVstSp (h : Hdr) (r : RS) : Option Instr := do
  let p ← pSpec r.s1
  let x ← sSpec r.s2
  let v ← vSpec r.s3
  zero r.s4
  zero r.s5
  zero (r.m.extractLsb' 0 19)
  let f ← Machine.fmtOf (r.m.extractLsb' 19 5)
  pure (.vstScratchpad h f p x v)

def decVldAcc (h : Hdr) (r : RS) : Option Instr := do
  let v ← vSpec r.s1
  let p ← pSpec r.s2
  let x ← sSpec r.s3
  zero r.s4
  zero r.s5
  zero (r.m.extractLsb' 0 21)
  pure (.vldAcc h (r.m.extractLsb' 21 3) v p x)

/-- The fields of the gathers beside OP (R413); ord is the one synchronising code the opcode defines. -/
def gatherArg (ord : BitVec 2) (r : RS) : Option GatherArg := do
  let v ← vSpec r.s1
  let b ← sSpec r.s2
  let x ← vSpec r.s3
  zero r.s4
  zero r.s5
  zero (r.m.extractLsb' 0 8)
  let f ← Machine.fmtOf (r.m.extractLsb' 19 5)
  let sc ← Machine.scopeOf (r.m.extractLsb' 16 3)
  need (r.m.extractLsb' 11 2 == 0 || r.m.extractLsb' 11 2 == ord)
  pure { v := v, base := b, ix := x, fmt := f, sc := sc, al := r.m.extractLsb' 13 3,
         sync := r.m.extractLsb' 11 2 != 0 }

/-- VLDX and VSTX: OP is 0 (R413). -/
def decGather (ord : BitVec 2) (f : GatherArg → Instr) (r : RS) : Option Instr := do
  let x ← gatherArg ord r
  zero (r.m.extractLsb' 8 3)
  pure (f x)

def decVredx (h : Hdr) (r : RS) : Option Instr := do
  let x ← gatherArg 2 r
  let op ← Machine.redxOf (r.m.extractLsb' 8 3)
  pure (.vredx h op x)

/-- Row 010, scalar and vector memory (R313). -/
def decodeRow2 (n : Nat) (h : Hdr) (o : BitVec 64) : Option (Option Instr) :=
  match n with
  | 0x100 => some (decLd h (.of o))
  | 0x101 => some (decSt h (.of o))
  | 0x102 => some (decAtom (.atom h) (.of o))
  | 0x103 => some (decAtom (.red h) (.of o))
  | 0x104 => some (decPref h (.of o))
  | 0x105 => some (decCmnt h (.of o))
  | 0x108 => some (decVmem (.vld h) (.of o))
  | 0x109 => some (decVldSp h (.of o))
  | 0x10A => some (decVldAcc h (.of o))
  | 0x10C => some (decVmem (.vst h) (.of o))
  | 0x10D => some (decVstSp h (.of o))
  | 0x110 => some (decGather 1 (.vldx h) (.of o))
  | 0x111 => some (decGather 2 (.vstx h) (.of o))
  | 0x112 => some (decVredx h (.of o))
  | _ => none

/-- The block forms (R391). -/
def decBlock (f : BlockArg → Instr) (r : RS) : Option Instr := do
  let p ← pSpec r.s1
  let b ← sSpec r.s2
  let q ← sSpec r.s3
  let g ← sSpec r.s4
  zero r.s5
  zero (r.m.extractLsb' 19 2)
  zero (r.m.extractLsb' 0 15)
  let sc ← Machine.scopeOf (r.m.extractLsb' 21 3)
  let ch ← Machine.chunkOf (r.m.extractLsb' 15 2)
  pure (f { sp := p, b := b, p := q, g := g, sc := sc, win := bit r.m 17, pad := bit r.m 18, ch := ch })

/-- The row forms and TLD.adp (R391, R395). -/
def decRows (f : RowArg → Instr) (r : RS) : Option Instr := do
  let p ← pSpec r.s1
  let b ← sSpec r.s2
  let q ← sSpec r.s3
  let g ← sSpec r.s4
  zero r.s5
  zero (r.m.extractLsb' 17 7)
  zero (r.m.extractLsb' 0 15)
  let ch ← Machine.chunkOf (r.m.extractLsb' 15 2)
  pure (f { sp := p, b := b, n := q, g := g, ch := ch })

def decScopy (h : Hdr) (r : RS) : Option Instr := do
  let d ← sSpec r.s1
  let a ← sSpec r.s2
  let b ← sSpec r.s3
  let l ← sSpec r.s4
  let c ← sSpec r.s5
  zero (r.m.extractLsb' 5 19)
  pure (.scopy h (r.m.extractLsb' 0 5) d a b l c)

def decRrot (h : Hdr) (r : RS) : Option Instr := do
  let d ← pSpec r.s1
  let s ← pSpec r.s2
  let l ← sSpec r.s3
  zero r.s4
  zero r.s5
  zero r.m
  pure (.rrot h d s l)

def decWld (h : Hdr) (r : RS) : Option Instr := do
  let a ← sSpec r.s1
  zero r.s2
  zero r.s3
  zero r.s4
  zero r.s5
  zero (r.m.extractLsb' 18 2)
  zero (r.m.extractLsb' 0 14)
  let sc ← Machine.scopeOf (r.m.extractLsb' 21 3)
  let wf ← Machine.wfmtOf (r.m.extractLsb' 16 2)
  let fo ← Machine.formOf (r.m.extractLsb' 14 2)
  pure (.wld h { sc := sc, ws := bit r.m 20, wf := wf, form := fo } a)

/-- Row 011, tile and asynchronous transfer (R313). -/
def decodeRow3 (n : Nat) (h : Hdr) (o : BitVec 64) : Option (Option Instr) :=
  match n with
  | 0x180 => some (decBlock (.tld h) (.of o))
  | 0x181 => some (decRows (.tldRows h) (.of o))
  | 0x182 => some (decBlock (.tst h) (.of o))
  | 0x183 => some (decRows (.tscat h) (.of o))
  | 0x184 => some (decScopy h (.of o))
  | 0x185 => some (decRrot h (.of o))
  | 0x186 => some (decWld h (.of o))
  | 0x187 => some (decRows (.tldAdp h) (.of o))
  | _ => none

def decMma (f : MmaArg → Instr) (r : RS) : Option Instr := do
  let acc ← pSpec r.s1
  let a ← aSpec r.s2
  zero r.s3
  zero r.s4
  zero r.s5
  zero (r.m.extractLsb' 0 4)
  let af ← Machine.actOf (r.m.extractLsb' 18 2)
  let wf ← Machine.wfmtOf (r.m.extractLsb' 16 2)
  let fo ← Machine.formOf (r.m.extractLsb' 14 2)
  pure (f { acc := acc, a := a, trec := r.m.extractLsb' 21 3, ws := bit r.m 20, af := af, wf := wf, form := fo,
            kx := r.m.extractLsb' 11 3, re := r.m.extractLsb' 8 3, ce := r.m.extractLsb' 4 4 })

def decMmag (h : Hdr) (r : RS) : Option Instr := do
  let acc ← pSpec r.s1
  let a ← aSpec r.s2
  let adp ← pSpec r.s3
  zero r.s4
  zero r.s5
  let af ← Machine.actOf (r.m.extractLsb' 18 2)
  pure (.mmag h { acc := acc, a := a, adp := adp, trec := r.m.extractLsb' 21 3, up := bit r.m 20, af := af,
                  nm1 := r.m.extractLsb' 13 5, as := r.m.extractLsb' 7 6, re := r.m.extractLsb' 4 3,
                  ce := r.m.extractLsb' 0 4 })

def decMzero (h : Hdr) (r : RS) : Option Instr := do
  let acc ← pSpec r.s1
  let p ← sSpec r.s2
  zero r.s3
  zero r.s4
  zero r.s5
  zero (r.m.extractLsb' 0 20)
  pure (.mzero h (bit r.m 20) (r.m.extractLsb' 21 3) acc p)

def decMstat (h : Hdr) (r : RS) : Option Instr := do
  let d ← sSpec r.s1
  zero r.s2
  zero r.s3
  zero r.s4
  zero r.s5
  zero (r.m.extractLsb' 0 21)
  pure (.mstat h (r.m.extractLsb' 21 3) d)

/-- Row 100, matrix (R313). -/
def decodeRow4 (n : Nat) (h : Hdr) (o : BitVec 64) : Option (Option Instr) :=
  match n with
  | 0x200 => some (decMma (.mma h) (.of o))
  | 0x201 => some (decMma (.mmas h) (.of o))
  | 0x202 => some (decMmag h (.of o))
  | 0x203 => some (decMzero h (.of o))
  | 0x204 => some (decMstat h (.of o))
  | _ => none

/-- The modifier field of rows 101 and 110 (R318). -/
structure VField where
  m  : VMod
  op : BitVec 6
  df : BitVec 5
  deriving DecidableEq, Repr

def vField (r : RS) : Option VField := do
  zero (r.m.extractLsb' 0 3)
  let f ← Machine.fmtOf (r.m.extractLsb' 19 5)
  let rm ← Machine.roundOf (r.m.extractLsb' 16 3)
  let lane ← laneSpec r.s5
  pure { m := { fmt := f, rm := rm, sat := bit r.m 15, pz := bit r.m 14, lane := lane },
         op := r.m.extractLsb' 8 6, df := r.m.extractLsb' 3 5 }

/-- d, a, b with b a vector or a scalar; OP and DFMT 0 (R401, R403). -/
def decV3 (f : VMod → VReg → VReg → VSrc → Instr) (r : RS) : Option Instr := do
  let v ← vField r
  zero v.op
  zero v.df
  let d ← vSpec r.s1
  let a ← vSpec r.s2
  let b ← vsSpec r.s3
  zero r.s4
  pure (f v.m d a b)

def decVfma (h : Hdr) (r : RS) : Option Instr := do
  let v ← vField r
  zero v.op
  zero v.df
  let d ← vSpec r.s1
  let a ← vSpec r.s2
  let b ← vsSpec r.s3
  let c ← vsSpec r.s4
  pure (.vfma h v.m d a b c)

/-- d, a (R401, R407). -/
def decV2 (f : VMod → VReg → VReg → Instr) (r : RS) : Option Instr := do
  let v ← vField r
  zero v.op
  zero v.df
  let d ← vSpec r.s1
  let a ← vSpec r.s2
  zero r.s3
  zero r.s4
  pure (f v.m d a)

def decVcmp (h : Hdr) (r : RS) : Option Instr := do
  let v ← vField r
  zero v.df
  let c ← Machine.vcondOf v.op
  let q ← qSpec r.s1
  let a ← vSpec r.s2
  let b ← vsSpec r.s3
  zero r.s4
  pure (.vcmp h c v.m q a b)

def decVsel (h : Hdr) (r : RS) : Option Instr := do
  let v ← vField r
  zero v.op
  zero v.df
  let d ← vSpec r.s1
  let a ← vSpec r.s2
  let b ← vSpec r.s3
  let q ← qSpec r.s4
  pure (.vsel h v.m d a b q)

def decVpcnt (h : Hdr) (r : RS) : Option Instr := do
  let v ← vField r
  zero v.df
  zero r.s3
  zero r.s4
  if v.op = 0 then do
    let d ← vSpec r.s1
    let a ← vSpec r.s2
    pure (.vpcnt h (.elems v.m d a))
  else do
    need (v.op == 1)
    need (v.m.rm == .dyn && !v.m.sat && !v.m.pz && v.m.lane.isNone)
    let d ← sSpec r.s1
    let q ← qSpec r.s2
    pure (.vpcnt h (.pred v.m.fmt d q))

def decVbtst (h : Hdr) (r : RS) : Option Instr := do
  let v ← vField r
  zero v.op
  zero v.df
  let q ← qSpec r.s1
  let a ← vSpec r.s2
  let b ← vsSpec r.s3
  zero r.s4
  pure (.vbtst h v.m q a b)

/-- VRED and VSCAN: OP is the operator (R416). -/
def decRed (f : RedOp → VMod → VReg → VReg → Instr) (r : RS) : Option Instr := do
  let v ← vField r
  zero v.df
  let op ← Machine.redOf v.op
  let d ← vSpec r.s1
  let a ← vSpec r.s2
  zero r.s3
  zero r.s4
  pure (f op v.m d a)

/-- Row 101, vector arithmetic (R313). -/
def decodeRow5 (n : Nat) (h : Hdr) (o : BitVec 64) : Option (Option Instr) :=
  match n with
  | 0x280 => some (decV3 (.vadd h) (.of o))
  | 0x281 => some (decV3 (.vsub h) (.of o))
  | 0x282 => some (decV3 (.vmul h) (.of o))
  | 0x283 => some (decVfma h (.of o))
  | 0x284 => some (decV3 (.vmin h) (.of o))
  | 0x285 => some (decV3 (.vmax h) (.of o))
  | 0x286 => some (decV2 (.vabs h) (.of o))
  | 0x287 => some (decV2 (.vneg h) (.of o))
  | 0x288 => some (decV3 (.vand h) (.of o))
  | 0x289 => some (decV3 (.vor h) (.of o))
  | 0x28A => some (decV3 (.vxor h) (.of o))
  | 0x28B => some (decV3 (.vshl h) (.of o))
  | 0x28C => some (decV3 (.vshr h) (.of o))
  | 0x28D => some (decVcmp h (.of o))
  | 0x28E => some (decVsel h (.of o))
  | 0x28F => some (decVpcnt h (.of o))
  | 0x290 => some (decVbtst h (.of o))
  | 0x291 => some (decRed (.vred h) (.of o))
  | 0x292 => some (decRed (.vscan h) (.of o))
  | _ => none

def decVcvt (h : Hdr) (r : RS) : Option Instr := do
  let v ← vField r
  zero v.op
  let df ← Machine.fmtOf v.df
  let d ← vSpec r.s1
  let a ← vSpec r.s2
  zero r.s3
  zero r.s4
  pure (.vcvt h df v.m d a)

/-- VPACK and VUNPK: OP is one bit (R407). -/
def decPack (f : Bool → VMod → VReg → VReg → VReg → Instr) (r : RS) : Option Instr := do
  let v ← vField r
  zero (v.op.extractLsb' 1 5)
  zero v.df
  let d ← vSpec r.s1
  let a ← vSpec r.s2
  let b ← vSpec r.s3
  zero r.s4
  pure (f (bit v.op 0) v.m d a b)

def decVsfn (h : Hdr) (r : RS) : Option Instr := do
  let v ← vField r
  zero v.df
  let fn ← Machine.sfnOf v.op
  let d ← vSpec r.s1
  let a ← vSpec r.s2
  zero r.s3
  zero r.s4
  pure (.vsfn h fn v.m d a)

def decVperm (h : Hdr) (r : RS) : Option Instr := do
  let v ← vField r
  zero v.op
  zero v.df
  let d ← vSpec r.s1
  let a ← vSpec r.s2
  let x ← vSpec r.s3
  zero r.s4
  pure (.vperm h v.m d a x)

def decVbcast (h : Hdr) (r : RS) : Option Instr := do
  let v ← vField r
  zero v.op
  zero v.df
  let d ← vSpec r.s1
  zero r.s4
  match vSpec r.s2 with
  | some a => do
    let i ← sSpec r.s3
    pure (.vbcast h v.m (.vector d a i))
  | none => do
    let a ← sSpec r.s2
    zero r.s3
    pure (.vbcast h v.m (.scalar d a))

def decVidx (h : Hdr) (r : RS) : Option Instr := do
  let v ← vField r
  zero v.op
  zero v.df
  let d ← vSpec r.s1
  let a ← sSpec r.s2
  let b ← sSpec r.s3
  zero r.s4
  pure (.vidx h v.m d a b)

/-- VMOVS: OP selects the form (R405). -/
def decVmovs (h : Hdr) (r : RS) : Option Instr := do
  let v ← vField r
  zero v.df
  zero r.s4
  need (v.m.rm == .dyn && !v.m.sat)
  match v.op.toNat with
  | 0 => do
    let d ← vSpec r.s1
    let a ← vSpec r.s2
    zero r.s3
    pure (.vmovs h (.move v.m.fmt v.m.pz v.m.lane d a))
  | 1 => do
    need (!v.m.pz && v.m.lane.isNone)
    let d ← vSpec r.s1
    let a ← sSpec r.s2
    let i ← sSpec r.s3
    pure (.vmovs h (.ins v.m.fmt d a i))
  | 2 => do
    need (!v.m.pz && v.m.lane.isNone)
    let d ← sSpec r.s1
    let a ← vSpec r.s2
    let i ← sSpec r.s3
    pure (.vmovs h (.ext v.m.fmt d a i))
  | 3 => do
    need (!v.m.pz && v.m.lane.isNone && v.m.fmt == .pimg)
    let d ← vSpec r.s1
    let q ← qSpec r.s2
    zero r.s3
    pure (.vmovs h (.fromq d q))
  | 4 => do
    need (!v.m.pz && v.m.lane.isNone && v.m.fmt == .pimg)
    let q ← qSpec r.s1
    let a ← vSpec r.s2
    zero r.s3
    pure (.vmovs h (.toq q a))
  | 5 => do
    let d ← vSpec r.s1
    let a ← vSpec r.s2
    zero r.s3
    pure (.vmovs h (.as v.m.fmt v.m.pz v.m.lane d a))
  | _ => none

/-- The modifiers of QAND, QOR and QNOT: NA, NB and ND in OP bits 8 to 10, the rest 0 (R370). -/
def decQ3 (f : Bool → Bool → Bool → QReg → QReg → QReg → Instr) (r : RS) : Option Instr := do
  let d ← qSpec r.s1
  let a ← qSpec r.s2
  let b ← qSpec r.s3
  zero r.s4
  zero r.s5
  zero (r.m.extractLsb' 11 13)
  zero (r.m.extractLsb' 0 8)
  pure (f (bit r.m 8) (bit r.m 9) (bit r.m 10) d a b)

def decQnot (h : Hdr) (r : RS) : Option Instr := do
  let d ← qSpec r.s1
  let a ← qSpec r.s2
  zero r.s3
  zero r.s4
  zero r.s5
  zero r.m
  pure (.qnot h d a)

/-- Row 110, vector convert, permute and special (R313). -/
def decodeRow6 (n : Nat) (h : Hdr) (o : BitVec 64) : Option (Option Instr) :=
  match n with
  | 0x300 => some (decVcvt h (.of o))
  | 0x301 => some (decPack (.vpack h) (.of o))
  | 0x302 => some (decPack (.vunpk h) (.of o))
  | 0x303 => some (decVsfn h (.of o))
  | 0x304 => some (decVperm h (.of o))
  | 0x305 => some (decVbcast h (.of o))
  | 0x306 => some (decVidx h (.of o))
  | 0x307 => some (decVmovs h (.of o))
  | 0x308 => some (decV2 (.vcprs h) (.of o))
  | 0x309 => some (decV2 (.vxpnd h) (.of o))
  | 0x30A => some (decQ3 (.qand h) (.of o))
  | 0x30B => some (decQ3 (.qor h) (.of o))
  | 0x30C => some (decQnot h (.of o))
  | _ => none

/-- Two scalars and a third that may be any other value the entry gives (R388, R390): bit 0 of the modifiers is ALL. -/
def decTcan (h : Hdr) (r : RS) : Option Instr := do
  let d ← sSpec r.s1
  let a ← sSpec r.s2
  let i ← sSpec r.s3
  zero r.s4
  zero r.s5
  zero (r.m.extractLsb' 1 23)
  pure (.tcan h (bit r.m 0) d a i)

/-- DQSTL: specifier 3 is a scalar or 0xF0 (R348). -/
def decDqstl (h : Hdr) (r : RS) : Option Instr := do
  let d ← sSpec r.s1
  let e ← sSpec r.s2
  zero r.s4
  zero r.s5
  zero r.m
  if r.s3 = 0xF0 then pure (.dqstl h d e none)
  else do
    let v ← sSpec r.s3
    pure (.dqstl h d e (some v))

def decResq (h : Hdr) (r : RS) : Option Instr := do
  let d ← sSpec r.s1
  let a ← sSpec r.s2
  let b ← sSpec r.s3
  zero r.s4
  zero r.s5
  zero (r.m.extractLsb' 1 23)
  pure (.resq h (bit r.m 0) d a b)

/-- SYSRD (R379). -/
def decSysrd (h : Hdr) (r : RI) : Option Instr := do
  let d ← sSpec r.d
  zero r.s
  zero r.imm
  zero (r.m.extractLsb' 12 4)
  let n ← Machine.sysOf (r.m.extractLsb' 0 12)
  pure (.sysrd h d n)

/-- SYSWR (R379). -/
def decSyswr (h : Hdr) (r : RI) : Option Instr := do
  zero r.d
  let a ← sSpec r.s
  zero r.imm
  zero (r.m.extractLsb' 12 4)
  let n ← Machine.sysOf (r.m.extractLsb' 0 12)
  pure (.syswr h n a)

def decTlbinv (h : Hdr) (r : RS) : Option Instr := do
  let a ← sSpec r.s1
  let b ← sSpec r.s2
  let c ← sSpec r.s3
  zero r.s4
  zero r.s5
  zero (r.m.extractLsb' 2 22)
  pure (.tlbinv h (bit r.m 1) (bit r.m 0) a b c)

def decPsdone (h : Hdr) (r : RI) : Option Instr := do
  zero r.d
  let a ← sSpec r.s
  zero r.m
  pure (.psdone h a r.imm)

def decRdcnt (h : Hdr) (r : RI) : Option Instr := do
  let d ← sSpec r.d
  zero r.s
  zero r.m
  pure (.rdcnt h d r.imm)

/-- Row 111, task and system (R313). -/
def decodeRow7 (n : Nat) (h : Hdr) (o : BitVec 64) : Option (Option Instr) :=
  match n with
  | 0x380 => some (decSSS (.tsub h) (.of o))
  | 0x381 => some (decTcan h (.of o))
  | 0x382 => some (decSS (.dqpush h) (.of o))
  | 0x383 => some (decSS (.dqpop h) (.of o))
  | 0x384 => some (decDqstl h (.of o))
  | 0x385 => some (decSS (.watch h) (.of o))
  | 0x386 => some (decSS (.unwatch h) (.of o))
  | 0x387 => some (decResq h (.of o))
  | 0x388 => some (decSS (.carve h) (.of o))
  | 0x389 => some (decSysrd h (.of o))
  | 0x38A => some (decSyswr h (.of o))
  | 0x38B => some (decTlbinv h (.of o))
  | 0x38C => some (decPsdone h (.of o))
  | 0x38D => some (decRdcnt h (.of o))
  | 0x38E => some (decS (.rdtime h) (.of o))
  | 0x38F => some (decSS (.notify h) (.of o))
  | _ => none

/-- The row of R313 is given by the top three bits of OPC. -/
def decodeOp (opc : BitVec 10) (h : Hdr) (o : BitVec 64) : Option (Option Instr) :=
  match (opc.extractLsb' 7 3).toNat with
  | 0 => decodeRow0 opc.toNat h o
  | 1 => decodeRow1 opc.toNat h o
  | 2 => decodeRow2 opc.toNat h o
  | 3 => decodeRow3 opc.toNat h o
  | 4 => decodeRow4 opc.toNat h o
  | 5 => decodeRow5 opc.toNat h o
  | 6 => decodeRow6 opc.toNat h o
  | _ => decodeRow7 opc.toNat h o

/-- Decoding of a cut word; check 1 of R95 in full. -/
def decodeRaw (r : Raw) : Except DecodeErr Instr :=
  if r.rsv then .error .reservedBit
  else
    match decodeOp r.opc r.h r.opnd with
    | none => .error .unassigned
    | some none => .error .operands
    | some (some i) => if Machine.checkOne i then .ok i else .error .illFormed

/-- Decoding of the word in a slot (R94, R95 check 1). -/
def decode (w : InstrWord) : Except DecodeErr Instr := decodeRaw (Raw.ofWord w)

/-! ### Encoding -/

def rsWord (opc : BitVec 10) (h : Hdr) (r : RS) : Raw := { opc := opc, h := h, rsv := false, opnd := r.pack }
def riWord (opc : BitVec 10) (h : Hdr) (r : RI) : Raw := { opc := opc, h := h, rsv := false, opnd := r.pack }
def rkWord (opc : BitVec 10) (h : Hdr) (r : RK) : Raw := { opc := opc, h := h, rsv := false, opnd := r.pack }
def rmWord (opc : BitVec 10) (h : Hdr) (r : RM) : Raw := { opc := opc, h := h, rsv := false, opnd := r.pack }
def rbWord (opc : BitVec 10) (h : Hdr) (r : RB) : Raw := { opc := opc, h := h, rsv := false, opnd := r.pack }

def encSSS (opc : BitVec 10) (h : Hdr) (d a b : SReg) (m : BitVec 24) : Raw :=
  rsWord opc h { s1 := sEnc d, s2 := sEnc a, s3 := sEnc b, s4 := 0, s5 := 0, m := m }

def encSS (opc : BitVec 10) (h : Hdr) (d a : SReg) : Raw :=
  rsWord opc h { s1 := sEnc d, s2 := sEnc a, s3 := 0, s4 := 0, s5 := 0, m := 0 }

def encS (opc : BitVec 10) (h : Hdr) (d : SReg) : Raw :=
  rsWord opc h { s1 := sEnc d, s2 := 0, s3 := 0, s4 := 0, s5 := 0, m := 0 }

def enc0 (opc : BitVec 10) (h : Hdr) : Raw :=
  rsWord opc h { s1 := 0, s2 := 0, s3 := 0, s4 := 0, s5 := 0, m := 0 }

def encSSI (opc : BitVec 10) (h : Hdr) (d a : SReg) (imm : BitVec 32) : Raw :=
  riWord opc h { d := sEnc d, s := sEnc a, imm := imm, m := 0 }

def encShift (opc : BitVec 10) (h : Hdr) (d a : SReg) (sh : BitVec 6) : Raw :=
  riWord opc h { d := sEnc d, s := sEnc a, imm := 0#26 ++ sh, m := 0 }

def uBit (u : Bool) : BitVec 24 := 0#23 ++ BitVec.ofBool u

def encGuard (opc : BitVec 10) (h : Hdr) (na nb nd : Bool) (g ga gb : GReg) : Raw :=
  rsWord opc h { s1 := gEnc g, s2 := gEnc ga, s3 := gEnc gb, s4 := 0, s5 := 0,
                 m := BitVec.ofBool na ++ BitVec.ofBool nb ++ BitVec.ofBool nd ++ 0#21 }

def encLink (opc : BitVec 10) (h : Hdr) (l : BitVec 8) (off : BitVec 26) (slot : BitVec 3) : Raw :=
  rbWord opc h { r := l, off := off, slot := slot, m := 0 }

def scopeMod (sc : Scope) : BitVec 24 := Machine.scopeCode sc ++ 0#21

def encTok (opc : BitVec 10) (h : Hdr) (sc : Scope) (q : BitVec 8) : Raw :=
  rsWord opc h { s1 := q, s2 := 0, s3 := 0, s4 := 0, s5 := 0, m := scopeMod sc }

def encMem (opc : BitVec 10) (h : Hdr) (d : BitVec 8) (m : MemArg) (mods : BitVec 8) : Raw :=
  rmWord opc h { d := d, b := sEnc m.base, x := sEnc m.idx, off := m.off, al := m.al, sc := Machine.scopeCode m.sc,
                 ord := Machine.ordCode m.ord, m := mods }

def encLine (opc : BitVec 10) (h : Hdr) (k : BitVec 5) (m : LineArg) : Raw :=
  rmWord opc h { d := 0, b := sEnc m.base, x := sEnc m.idx, off := m.off, al := 0, sc := 0, ord := 0, m := 0#3 ++ k }

def encGather (opc : BitVec 10) (h : Hdr) (ord : BitVec 2) (op : BitVec 3) (x : GatherArg) : Raw :=
  rsWord opc h { s1 := vEnc x.v, s2 := sEnc x.base, s3 := vEnc x.ix, s4 := 0, s5 := 0,
                 m := Machine.fmtCode x.fmt ++ Machine.scopeCode x.sc ++ x.al ++ (if x.sync then ord else 0#2) ++ op ++
                      0#8 }

def encBlock (opc : BitVec 10) (h : Hdr) (t : BlockArg) : Raw :=
  rsWord opc h { s1 := pEnc t.sp, s2 := sEnc t.b, s3 := sEnc t.p, s4 := sEnc t.g, s5 := 0,
                 m := Machine.scopeCode t.sc ++ 0#2 ++ BitVec.ofBool t.pad ++ BitVec.ofBool t.win ++
                      Machine.chunkCode t.ch ++ 0#15 }

def encRows (opc : BitVec 10) (h : Hdr) (t : RowArg) : Raw :=
  rsWord opc h { s1 := pEnc t.sp, s2 := sEnc t.b, s3 := sEnc t.n, s4 := sEnc t.g, s5 := 0,
                 m := 0#7 ++ Machine.chunkCode t.ch ++ 0#15 }

def encMma (opc : BitVec 10) (h : Hdr) (m : MmaArg) : Raw :=
  rsWord opc h { s1 := pEnc m.acc, s2 := aEnc m.a, s3 := 0, s4 := 0, s5 := 0,
                 m := m.trec ++ BitVec.ofBool m.ws ++ Machine.actCode m.af ++ Machine.wfmtCode m.wf ++
                      Machine.formCode m.form ++ m.kx ++ m.re ++ m.ce ++ 0#4 }

/-- The modifier field of the vector template (R318). -/
def vMods (m : VMod) (op : BitVec 6) (df : BitVec 5) : BitVec 24 :=
  Machine.fmtCode m.fmt ++ Machine.roundCode m.rm ++ BitVec.ofBool m.sat ++ BitVec.ofBool m.pz ++ op ++ df ++ 0#3

def encV (opc : BitVec 10) (h : Hdr) (m : VMod) (op : BitVec 6) (df : BitVec 5) (s1 s2 s3 s4 : BitVec 8) : Raw :=
  rsWord opc h { s1 := s1, s2 := s2, s3 := s3, s4 := s4, s5 := laneEnc m.lane, m := vMods m op df }

/-- The modifiers of a form that has a format alone. -/
def fmtOnly (f : Fmt) : VMod := { fmt := f, rm := .dyn, sat := false, pz := false, lane := none }

def encQ (opc : BitVec 10) (h : Hdr) (na nb nd : Bool) (s1 s2 s3 : BitVec 8) : Raw :=
  rsWord opc h { s1 := s1, s2 := s2, s3 := s3, s4 := 0, s5 := 0,
                 m := 0#13 ++ BitVec.ofBool nd ++ BitVec.ofBool nb ++ BitVec.ofBool na ++ 0#8 }

/-- The fields of the word of an instruction; a device operation has none. -/
def encodeRaw : Instr → Option Raw
  | .add h d a b => some (encSSS 0x002 h d a b 0)
  | .addi h d a imm => some (encSSI 0x001 h d a imm)
  | .sub h d a b => some (encSSS 0x003 h d a b 0)
  | .mul h d a b => some (encSSS 0x004 h d a b 0)
  | .mulh h u d a b => some (encSSS 0x005 h d a b (uBit u))
  | .div h u d a b => some (encSSS 0x006 h d a b (uBit u))
  | .rem h u d a b => some (encSSS 0x007 h d a b (uBit u))
  | .and h d a b => some (encSSS 0x008 h d a b 0)
  | .andImm h d a imm => some (encSSI 0x009 h d a imm)
  | .or h d a b => some (encSSS 0x00A h d a b 0)
  | .orImm h d a imm => some (encSSI 0x00B h d a imm)
  | .xor h d a b => some (encSSS 0x00C h d a b 0)
  | .xorImm h d a imm => some (encSSI 0x00D h d a imm)
  | .andn h d a b => some (encSSS 0x00E h d a b 0)
  | .shl h d a b => some (encSSS 0x00F h d a b 0)
  | .shlImm h d a sh => some (encShift 0x010 h d a sh)
  | .shr h d a b => some (encSSS 0x011 h d a b 0)
  | .shrImm h d a sh => some (encShift 0x012 h d a sh)
  | .sar h d a b => some (encSSS 0x013 h d a b 0)
  | .sarImm h d a sh => some (encShift 0x014 h d a sh)
  | .min h u d a b => some (encSSS 0x015 h d a b (uBit u))
  | .max h u d a b => some (encSSS 0x016 h d a b (uBit u))
  | .clz h d a => some (encSS 0x017 h d a)
  | .popc h d a => some (encSS 0x018 h d a)
  | .brev h d a => some (encSS 0x019 h d a)
  | .bfx h sx d a pos wm1 => some (rsWord 0x01A h { s1 := sEnc d, s2 := sEnc a, s3 := 0, s4 := 0, s5 := 0, m := pos ++ wm1 ++ 0#11 ++ BitVec.ofBool sx })
  | .bfi h d a b pos wm1 => some (rsWord 0x01B h { s1 := sEnc d, s2 := sEnc a, s3 := sEnc b, s4 := 0, s5 := 0, m := pos ++ wm1 ++ 0#12 })
  | .sel h d a b g => some (rsWord 0x01C h { s1 := sEnc d, s2 := sEnc a, s3 := sEnc b, s4 := gEnc g, s5 := 0, m := 0 })
  | .mov h d a => some (encSS 0x01D h d a)
  | .movi h mode d a imm => some (riWord 0x01E h { d := sEnc d, s := sEnc a, imm := imm, m := 0#14 ++ Machine.moviCode mode })
  | .ldk h form d i w off => some (rkWord 0x01F h { d := sEnc d, s1 := sEnc i, s2 := 0, w := w, off := off, m := 0#18 ++ Machine.ldkCode form })
  | .cmp h c g a b => some (rsWord 0x020 h { s1 := gEnc g, s2 := sEnc a, s3 := sEnc b, s4 := 0, s5 := 0, m := Machine.condCode c ++ 0#20 })
  | .cmpImm h c g a imm => some (riWord 0x021 h { d := gEnc g, s := sEnc a, imm := imm, m := Machine.condCode c ++ 0#12 })
  | .gand h na nb nd g ga gb => some (encGuard 0x022 h na nb nd g ga gb)
  | .gor h na nb nd g ga gb => some (encGuard 0x023 h na nb nd g ga gb)
  | .wfld h d j => some (riWord 0x024 h { d := sEnc d, s := 0, imm := 0#29 ++ j, m := 0 })
  | .bra h off slot => some (encLink 0x080 h 0 off slot)
  | .brx h a => some (encS 0x081 h a)
  | .call h l off slot => some (encLink 0x082 h (sEnc l) off slot)
  | .ret h a => some (encS 0x083 h a)
  | .loop h c off slot => some (encLink 0x084 h (sEnc c) off slot)
  | .bkt h d a w off => some (rkWord 0x085 h { d := sEnc d, s1 := sEnc a, s2 := 0, w := w, off := off, m := 0 })
  | .endTask h => some (enc0 0x086 h)
  | .yield h => some (enc0 0x087 h)
  | .trap h imm => some (riWord 0x088 h { d := 0, s := 0, imm := imm, m := 0 })
  | .tret h => some (enc0 0x089 h)
  | .nop h => some (enc0 0x08A h)
  | .tkpost h sc q => some (encTok 0x090 h sc (tEnc q))
  | .tkwait h sc q => some (encTok 0x091 h sc (tEnc q))
  | .tkqry h d q => some (rsWord 0x092 h { s1 := sEnc d, s2 := tEnc q, s3 := 0, s4 := 0, s5 := 0, m := 0 })
  | .bar h sc => some (encTok 0x093 h sc 0)
  | .cbar h sc => some (encTok 0x094 h sc 0)
  | .fence h o sc => some (rsWord 0x095 h { s1 := 0, s2 := 0, s3 := 0, s4 := 0, s5 := 0, m := Machine.scopeCode sc ++ Machine.fenceCode o ++ 0#19 })
  | .ld h size sx m d => some (encMem 0x100 h (sEnc d) m (Machine.sizeCode size ++ BitVec.ofBool sx ++ 0#5))
  | .st h size m a => some (encMem 0x101 h (sEnc a) m (Machine.sizeCode size ++ 0#6))
  | .atom h op w8 m d => some (encMem 0x102 h (sEnc d) m (1#1 ++ BitVec.ofBool w8 ++ 0#1 ++ Machine.atomCode op))
  | .red h op w8 m a => some (encMem 0x103 h (sEnc a) m (1#1 ++ BitVec.ofBool w8 ++ 0#1 ++ Machine.atomCode op))
  | .pref h k m => some (encLine 0x104 h (Machine.prefCode k) m)
  | .cmnt h k m => some (encLine 0x105 h (Machine.cmntCode k) m)
  | .vld h f m v => some (encMem 0x108 h (vEnc v) m (Machine.fmtCode f ++ 0#3))
  | .vldScratchpad h f v p r => some (rsWord 0x109 h { s1 := vEnc v, s2 := pEnc p, s3 := sEnc r, s4 := 0, s5 := 0, m := Machine.fmtCode f ++ 0#19 })
  | .vldAcc h rc v p r => some (rsWord 0x10A h { s1 := vEnc v, s2 := pEnc p, s3 := sEnc r, s4 := 0, s5 := 0, m := rc ++ 0#21 })
  | .vst h f m v => some (encMem 0x10C h (vEnc v) m (Machine.fmtCode f ++ 0#3))
  | .vstScratchpad h f p r v => some (rsWord 0x10D h { s1 := pEnc p, s2 := sEnc r, s3 := vEnc v, s4 := 0, s5 := 0, m := Machine.fmtCode f ++ 0#19 })
  | .vldx h x => some (encGather 0x110 h 1 0 x)
  | .vstx h x => some (encGather 0x111 h 2 0 x)
  | .vredx h op x => some (encGather 0x112 h 2 (Machine.redxCode op) x)
  | .tld h t => some (encBlock 0x180 h t)
  | .tldRows h t => some (encRows 0x181 h t)
  | .tldAdp h t => some (encRows 0x187 h t)
  | .tst h t => some (encBlock 0x182 h t)
  | .tscat h t => some (encRows 0x183 h t)
  | .scopy h k d a b l c => some (rsWord 0x184 h { s1 := sEnc d, s2 := sEnc a, s3 := sEnc b, s4 := sEnc l, s5 := sEnc c, m := 0#19 ++ k })
  | .rrot h dst src l => some (rsWord 0x185 h { s1 := pEnc dst, s2 := pEnc src, s3 := sEnc l, s4 := 0, s5 := 0, m := 0 })
  | .wld h w a => some (rsWord 0x186 h { s1 := sEnc a, s2 := 0, s3 := 0, s4 := 0, s5 := 0, m := Machine.scopeCode w.sc ++ BitVec.ofBool w.ws ++ 0#2 ++ Machine.wfmtCode w.wf ++ Machine.formCode w.form ++ 0#14 })
  | .mma h m => some (encMma 0x200 h m)
  | .mmas h m => some (encMma 0x201 h m)
  | .mmag h m => some (rsWord 0x202 h { s1 := pEnc m.acc, s2 := aEnc m.a, s3 := pEnc m.adp, s4 := 0, s5 := 0, m := m.trec ++ BitVec.ofBool m.up ++ Machine.actCode m.af ++ m.nm1 ++ m.as ++ m.re ++ m.ce })
  | .mzero h w32 rc acc p => some (rsWord 0x203 h { s1 := pEnc acc, s2 := sEnc p, s3 := 0, s4 := 0, s5 := 0, m := rc ++ BitVec.ofBool w32 ++ 0#20 })
  | .mstat h rc d => some (rsWord 0x204 h { s1 := sEnc d, s2 := 0, s3 := 0, s4 := 0, s5 := 0, m := rc ++ 0#21 })
  | .vadd h m d a b => some (encV 0x280 h m 0 0 (vEnc d) (vEnc a) (vsEnc b) 0)
  | .vsub h m d a b => some (encV 0x281 h m 0 0 (vEnc d) (vEnc a) (vsEnc b) 0)
  | .vmul h m d a b => some (encV 0x282 h m 0 0 (vEnc d) (vEnc a) (vsEnc b) 0)
  | .vfma h m d a b c => some (encV 0x283 h m 0 0 (vEnc d) (vEnc a) (vsEnc b) (vsEnc c))
  | .vmin h m d a b => some (encV 0x284 h m 0 0 (vEnc d) (vEnc a) (vsEnc b) 0)
  | .vmax h m d a b => some (encV 0x285 h m 0 0 (vEnc d) (vEnc a) (vsEnc b) 0)
  | .vabs h m d a => some (encV 0x286 h m 0 0 (vEnc d) (vEnc a) 0 0)
  | .vneg h m d a => some (encV 0x287 h m 0 0 (vEnc d) (vEnc a) 0 0)
  | .vand h m d a b => some (encV 0x288 h m 0 0 (vEnc d) (vEnc a) (vsEnc b) 0)
  | .vor h m d a b => some (encV 0x289 h m 0 0 (vEnc d) (vEnc a) (vsEnc b) 0)
  | .vxor h m d a b => some (encV 0x28A h m 0 0 (vEnc d) (vEnc a) (vsEnc b) 0)
  | .vshl h m d a b => some (encV 0x28B h m 0 0 (vEnc d) (vEnc a) (vsEnc b) 0)
  | .vshr h m d a b => some (encV 0x28C h m 0 0 (vEnc d) (vEnc a) (vsEnc b) 0)
  | .vcmp h c m q a b => some (encV 0x28D h m (Machine.vcondCode c) 0 (qEnc q) (vEnc a) (vsEnc b) 0)
  | .vsel h m d a b q => some (encV 0x28E h m 0 0 (vEnc d) (vEnc a) (vEnc b) (qEnc q))
  | .vpcnt h (.elems m d a) => some (encV 0x28F h m 0 0 (vEnc d) (vEnc a) 0 0)
  | .vpcnt h (.pred f d q) => some (encV 0x28F h (fmtOnly f) 1 0 (sEnc d) (qEnc q) 0 0)
  | .vbtst h m q a b => some (encV 0x290 h m 0 0 (qEnc q) (vEnc a) (vsEnc b) 0)
  | .vred h op m d a => some (encV 0x291 h m (Machine.redCode op) 0 (vEnc d) (vEnc a) 0 0)
  | .vscan h op m d a => some (encV 0x292 h m (Machine.redCode op) 0 (vEnc d) (vEnc a) 0 0)
  | .vcvt h df m d a => some (encV 0x300 h m 0 (Machine.fmtCode df) (vEnc d) (vEnc a) 0 0)
  | .vpack h od m d a b => some (encV 0x301 h m (0#5 ++ BitVec.ofBool od) 0 (vEnc d) (vEnc a) (vEnc b) 0)
  | .vunpk h hi m d a b => some (encV 0x302 h m (0#5 ++ BitVec.ofBool hi) 0 (vEnc d) (vEnc a) (vEnc b) 0)
  | .vsfn h fn m d a => some (encV 0x303 h m (Machine.sfnCode fn) 0 (vEnc d) (vEnc a) 0 0)
  | .vperm h m d a x => some (encV 0x304 h m 0 0 (vEnc d) (vEnc a) (vEnc x) 0)
  | .vbcast h m (.scalar d a) => some (encV 0x305 h m 0 0 (vEnc d) (sEnc a) 0 0)
  | .vbcast h m (.vector d a i) => some (encV 0x305 h m 0 0 (vEnc d) (vEnc a) (sEnc i) 0)
  | .vidx h m d a b => some (encV 0x306 h m 0 0 (vEnc d) (sEnc a) (sEnc b) 0)
  | .vmovs h (.move f pz lane d a) => some (encV 0x307 h { fmtOnly f with pz := pz, lane := lane } 0 0 (vEnc d) (vEnc a) 0 0)
  | .vmovs h (.ins f d a i) => some (encV 0x307 h (fmtOnly f) 1 0 (vEnc d) (sEnc a) (sEnc i) 0)
  | .vmovs h (.ext f d a i) => some (encV 0x307 h (fmtOnly f) 2 0 (sEnc d) (vEnc a) (sEnc i) 0)
  | .vmovs h (.fromq d q) => some (encV 0x307 h (fmtOnly .pimg) 3 0 (vEnc d) (qEnc q) 0 0)
  | .vmovs h (.toq q a) => some (encV 0x307 h (fmtOnly .pimg) 4 0 (qEnc q) (vEnc a) 0 0)
  | .vmovs h (.as f pz lane d a) => some (encV 0x307 h { fmtOnly f with pz := pz, lane := lane } 5 0 (vEnc d) (vEnc a) 0 0)
  | .vcprs h m d a => some (encV 0x308 h m 0 0 (vEnc d) (vEnc a) 0 0)
  | .vxpnd h m d a => some (encV 0x309 h m 0 0 (vEnc d) (vEnc a) 0 0)
  | .qand h na nb nd d a b => some (encQ 0x30A h na nb nd (qEnc d) (qEnc a) (qEnc b))
  | .qor h na nb nd d a b => some (encQ 0x30B h na nb nd (qEnc d) (qEnc a) (qEnc b))
  | .qnot h d a => some (encQ 0x30C h false false false (qEnc d) (qEnc a) 0)
  | .tsub h d a c => some (encSSS 0x380 h d a c 0)
  | .tcan h all d hd i => some (encSSS 0x381 h d hd i (uBit all))
  | .dqpush h d a => some (encSS 0x382 h d a)
  | .dqpop h d e => some (encSS 0x383 h d e)
  | .dqstl h d e (some v) => some (encSSS 0x384 h d e v 0)
  | .dqstl h d e none => some (rsWord 0x384 h { s1 := sEnc d, s2 := sEnc e, s3 := 0xF0, s4 := 0, s5 := 0, m := 0 })
  | .watch h d a => some (encSS 0x385 h d a)
  | .unwatch h d a => some (encSS 0x386 h d a)
  | .resq h sum d a b => some (encSSS 0x387 h d a b (uBit sum))
  | .carve h d a => some (encSS 0x388 h d a)
  | .sysrd h d r => some (riWord 0x389 h { d := sEnc d, s := 0, imm := 0, m := 0#4 ++ Machine.sysCode r })
  | .syswr h r a => some (riWord 0x38A h { d := 0, s := sEnc a, imm := 0, m := 0#4 ++ Machine.sysCode r })
  | .tlbinv h s2 all a b c => some (encSSS 0x38B h a b c (0#22 ++ BitVec.ofBool s2 ++ BitVec.ofBool all))
  | .psdone h a imm => some (riWord 0x38C h { d := 0, s := sEnc a, imm := imm, m := 0 })
  | .rdcnt h d n => some (riWord 0x38D h { d := sEnc d, s := 0, imm := n, m := 0 })
  | .rdtime h d => some (encS 0x38E h d)
  | .notify h d a => some (encSS 0x38F h d a)
  | _ => none

/-- The word of an instruction of the opcode map. -/
def encode (i : Instr) : Option InstrWord := (encodeRaw i).map Raw.toWord

/-- The instruction read from bits numbered as the opcode table numbers them. A word of the F9 is 96 bits, stored
little-endian (R4, R94), so bit 0 of w is bit 0 of the word. -/
def decodeTableWord (_nbits w : Nat) : Option Instr :=
  match decode (BitVec.ofNat 96 w) with
  | .ok i => some i
  | .error _ => none

end Sys2Proof
end

