-- ==== Sys2Proof/Machine/Flags.lean ====
section
/-! DEFINITION. The flags and NaN causes of arithmetic, and SYS.FPCR (R39 to R48). -/

namespace Sys2Proof.Machine

/-- The four rounding modes, as SYS.FPCR.RM codes them (R36, R41). -/
inductive RMode where
  | rne | rtz | rup | rdn
  deriving DecidableEq, Repr

/-- The exceptions that an instruction raises (R39) and the set of NaN causes it involves (R45, R48); bit c of causes
stands for cause c. -/
structure Exc where
  nv : Bool
  dz : Bool
  ov : Bool
  uf : Bool
  nx : Bool
  causes : BitVec 8
  deriving DecidableEq, Repr

def Exc.none : Exc := { nv := false, dz := false, ov := false, uf := false, nx := false, causes := 0 }

def Exc.or (a b : Exc) : Exc :=
  { nv := a.nv || b.nv, dz := a.dz || b.dz, ov := a.ov || b.ov, uf := a.uf || b.uf, nx := a.nx || b.nx
    causes := a.causes ||| b.causes }

/-- The set that holds one cause. -/
def causeSet (c : Nat) : BitVec 8 := 1#8 <<< c

/-- A recorded cause without an exception. -/
def Exc.cause (c : Nat) : Exc := { Exc.none with causes := causeSet c }

/-- A NaN generated with a cause; causes 3 to 6 raise NV (R39). -/
def Exc.gen (c : Nat) : Exc := { Exc.none with nv := 3 ≤ c, causes := causeSet c }

/-- The first cause present in the order of nanCause (R45); 0 when there is none. -/
def firstCause (s : BitVec 8) : Nat :=
  ([1, 2, 4, 3, 5, 6].find? fun c => s.getLsbD c).getD 0

/-- The exceptions as SYS.FPCR lists them: NX, UF, OF, DZ, NV from bit 4 to bit 0 (R41). -/
def Exc.bits (e : Exc) : BitVec 5 :=
  BitVec.ofBool e.nx ++ BitVec.ofBool e.uf ++ BitVec.ofBool e.ov ++ BitVec.ofBool e.dz ++ BitVec.ofBool e.nv

/-- SYS.FPCR.RM (R41). -/
def fpcrMode (f : Word) : RMode :=
  if f.getLsbD 1 then (if f.getLsbD 0 then .rdn else .rup) else (if f.getLsbD 0 then .rtz else .rne)

/-- SYS.FPCR.FTZ (R38, R41). -/
def fpcrFtz (f : Word) : Bool := f.getLsbD 2

/-- NXE to NVE (R41), in the order of Exc.bits. -/
def fpcrEnables (f : Word) : BitVec 5 := f.extractLsb' 3 5

/-- The sticky flags NX to NV. -/
def fpcrFlags (f : Word) : BitVec 5 := f.extractLsb' 8 5

/-- NANCAUSE (R41, R48). -/
def fpcrNan (f : Word) : BitVec 3 := f.extractLsb' 13 3

/-- SYS.FPCR from its parts: NANCAUSE, flags, enables, FTZ and RM; bits 63:16 are 0. -/
def fpcrMk (nan : BitVec 3) (flags enables : BitVec 5) (low : BitVec 3) : Word :=
  (0#48 ++ nan ++ flags ++ enables ++ low).cast (by decide)

/-- What a completing instruction does to SYS.FPCR: the flags accumulate, and the first cause that it involves is
recorded (R43, R48). -/
def fpcrComplete (f : Word) (bits : BitVec 5) (causes : BitVec 8) : Word :=
  let c := firstCause causes
  fpcrMk (if c = 0 then fpcrNan f else BitVec.ofNat 3 c) (fpcrFlags f ||| bits) (fpcrEnables f) (f.extractLsb' 0 3)

/-- What a SYSWR does to SYS.FPCR: NANCAUSE, the enables, FTZ and RM are written, a 1 clears a flag (R41, R383). -/
def fpcrWrite (f v : Word) : Word :=
  fpcrMk (v.extractLsb' 13 3) (fpcrFlags f &&& ~~~ fpcrFlags v) (fpcrEnables v) (v.extractLsb' 0 3)

/-- The exceptions that were enabled when the instruction issued (R44). -/
def enabledExc (enables : BitVec 5) (e : Exc) : BitVec 5 := enables &&& e.bits

end Sys2Proof.Machine
end

