-- ==== Sys2Proof/Config.lean ====
section
/-! DEFINITION. What the spec leaves open (free values, without a body) and the fixed sizes of the device (R2, R3,
R189). A free value is applied to a counter of the state, so each use has a value of its own. -/

namespace Sys2Proof.Config

/-- The byte at a physical address of a line read under a key other than the one it was written under: writer's key,
reader's key, the line's address and contents as written, the byte's offset (R298). -/
opaque wrongKeyByte : Nat → Nat → Nat → Line → Nat → Byte

/-- What a shared performance counter (R309) counts in a cycle: the counter, its core or die, the cycle. -/
opaque sharedStep : Nat → Nat → Nat → Nat

/-- Whether the Ed448 signature of a message verifies under a public key (R185, R311, R312). -/
opaque ed448Verifies : List Byte → List Byte → List Byte → Bool

/-- The Tolurik public key that the root of trust holds (R23, R311). -/
opaque tolurikKey : List Byte

/-- Whether a released unit is sampled by the auditor at a use, given the sampling exponent (R276). -/
opaque auditSampled : Nat → Nat → Bool

/-- The fabric endpoint from which a load asks for shards while none has come: the spec does not say how a receiving device
knows its source (R185). -/
opaque shardSource : Nat → BitVec 16

/-- A byte of the audit buffer, whose layout the spec does not give (R276): a counter and the byte's offset. -/
opaque auditByte : Nat → Nat → Byte

/-- Whether a 16-byte piece of a transfer had moved when a pool region breached (R209, R434). -/
opaque pieceMoved : Nat → Nat → Bool

/-- A byte of a scratchpad unit that a cooperative save discarded, after the restore (R263), or of a tile that a replay
discarded (R272): a counter and the byte's offset. -/
opaque discardedByte : Nat → Nat → Byte

/-- Whether a compute die fails its verification or its HBM training at start-up (R24): a use and the die. -/
opaque dieFails : Nat → Nat → Bool

/-- A measurement (R297): its index and the firmware that runs. -/
opaque measurement : Nat → List Byte → BitVec 512

/-- The Ed448 identity key of the die of a certificate slot, and the certificates above it in the slot's chain (R296). -/
opaque identityKey : Nat → List Byte
opaque certIssuers : Nat → List (List Byte)

/-- The reading of a sensor of R310 in a cycle: the sensors in the rule's order. -/
opaque sensor : Nat → Nat → Nat

/-- The signature of a message by the identity key of a certificate slot (R296, R297). -/
opaque slotSignature : Nat → List (BitVec 64) → List (BitVec 64)

/-- Whether the completer of a host AtomicOp answers with Unsupported Request, at a use (R203). -/
opaque hostAtomRefused : Nat → Bool

/-- Which line leaves a full constant cache, or which entry a full TLB: R241 gives no order of replacement (R100, R191). -/
opaque victim : Nat → Nat

/-- The set of a line in a cache, whose sets the spec does not give (R197): the cache (0 an L1, 1 an L2, 2 an RDC) and the
line. -/
opaque cacheSet : Nat → Nat → Nat

/-- Whether a TLB or walk-cache entry is still held after a cycle: any entry may be dropped at any time (R241). A cycle and
the entry's place. -/
opaque entryKept : Nat → Nat → Bool

/-- A byte of a context's save area while a context is saved there, and until it is next written: the layout is not
architectural (R265). A save and the byte's offset. -/
opaque savedByte : Nat → Nat → Byte

/-- Compute dies and cores (R3, R10). -/
def dies : Nat := 4
def cores : Nat := 160
def coresPerDie : Nat := 40
def slotsPerCore : Nat := 4

/-- Lines of an L2 slice (4 MiB), of an RDC (16 MiB) and of a constant cache (64 KiB); entries of the TLBs and of a walk
cache (R10, R13, R241). -/
def sliceLines : Nat := 65536
def rdcLines : Nat := 262144
def constLines : Nat := 1024
def tlbEntries : Nat := 384
def tlb2Entries : Nat := 8192
def walkEntries : Nat := 256

/-- Bytes of a context slot's save area (R265). -/
def saveBytes : Nat := 3 * 2 ^ 20

/-- Populated bytes of HBM of each die (R189). -/
def hbmBytes : Nat := 96000000000

/-- The window bases of the physical map (R189). -/
def poolBase : Nat := 0x100000000000
def hostBase : Nat := 0x1000000000000
def fabricBase : Nat := 0x4000000000000
def physEnd : Nat := 0x6000000000000

/-- Cycles after which the watchdog fires (R83). -/
def watchdogCycles : Nat := 2 ^ 24

end Sys2Proof.Config
end

