-- ==== Sys2Proof/Machine/State.lean ====
section
/-! DEFINITION. The state of the device as plain data, the reasons a step can stop, and the state after module reset.
INVENTORY.md lists each field with the rule that names it. -/

namespace Sys2Proof.Machine

/-- Privilege levels (R6, R112). -/
inductive Priv where
  | task | steward | reeve
  deriving DecidableEq, Repr

/-- The exceptions and NaN causes that an instruction raised (R39, R48), as it carries them to its completion. -/
structure ExcRec where
  bits   : BitVec 5
  causes : BitVec 8
  deriving DecidableEq, Repr

/-- A line index and a slot; bad marks a value that names no line (R92, R324). -/
structure CodePoint where
  line : Int
  slot : Nat
  bad  : Bool
  deriving DecidableEq, Repr

/-- A trap that is to be taken (R252 to R257). For a trap of a handed-over kind, viaReeve sends it to the reeve's vector
(a stage-2 translation trap, R247). point is the resume point. -/
structure TrapReq where
  seq      : Seqr
  cause    : BitVec 8
  detail   : BitVec 8
  addr     : Word
  imprec   : Bool
  aband    : Bool
  viaReeve : Bool
  /-- handlers around the instruction that raised it -/
  depth    : Nat
  /-- its instruction's place in the order of issue of the context (R260) -/
  age      : Nat
  /-- taken in the first cycle in which its sequencer has no instruction issuing (R434) -/
  prompt   : Bool
  /-- none: the point at which the sequencer stands when the trap is taken -/
  point    : Option CodePoint
  deriving DecidableEq, Repr

/-- A vector register with its tag and pennant (R27, R32, R74). -/
structure VecReg where
  data : VData
  tag  : Fmt
  pen  : BitVec 12
  deriving DecidableEq, Repr

/-- A descriptor pair as an instruction read it (R142). -/
structure SpDesc where
  base   : Nat
  tpitch : Nat
  rpitch : Nat
  rot    : Nat
  deriving DecidableEq, Repr

/-- An A operand captured at issue (R141). -/
inductive AVal where
  | regs (first : Nat) (data : List VData)
  | scratch (d : SpDesc)
  deriving DecidableEq, Repr

/-- The fault that holds an access: the name of its entry, none while it waits for room; the faulting address; the kind
(R244 to R246). sub: a TSUB, which a save withdraws (R399). -/
structure FaultRef where
  entry : Option Nat
  va    : Word
  kind  : BitVec 3
  sub   : Bool := false
  deriving DecidableEq, Repr

/-- What a matrix instruction does when it completes: the operands it captured at issue (R88, R149, R154, R358). -/
inductive MatKind where
  /-- MMA and MMAS: staging slot, formats and chunk count -/
  | mma (ws : Bool) (af : ActFmt) (wf : WFmt) (form : MForm) (chunks : Nat)
  /-- MMAG: the adapter pair, the direction, the rank and the own slot -/
  | mmag (adp : SpDesc) (up : Bool) (af : ActFmt) (rank : Nat) (own : Nat)
  /-- MZERO: width 32, and the pass index -/
  | mzero (w32 : Bool) (pass : Nat)
  deriving DecidableEq, Repr

structure MatCmd where
  kind    : MatKind
  trec    : BitVec 3
  acc     : SpDesc
  a       : AVal
  padRows : Nat
  padCols : Nat
  re      : Nat
  ce      : Nat
  deriving DecidableEq, Repr

/-- A WLD as a command window names it (R156, R419). -/
structure WldCmd where
  addr : Word
  ws   : Bool
  wf   : WFmt
  form : MForm
  deriving DecidableEq, Repr


/-- The contents of a staging slot: format, form, and per column its elements, IDX4 positions and BF16 scales, as the
bytes of the tile in memory (R138, R420). -/
structure StageData where
  wf   : WFmt
  form : MForm
  tile : List Byte
  deriving DecidableEq, Repr

/-- A command of a window with the CRC-64 of the bytes it read (R156, R272). A matrix instruction keeps the parked rows that
it met, and its slot's contents where the WLD that filled the slot is older than the window. -/
inductive WinCmd where
  | mat (c : MatCmd) (crc : BitVec 64) (parked : BitVec 32) (pre : Option StageData)
  | wld (id : Nat) (c : WldCmd) (crc : BitVec 64)
  deriving DecidableEq, Repr

/-- A tile record (R146, R156). -/
structure TileRec where
  opened  : Bool
  wide    : Bool
  pass    : BitVec 3
  pens    : List (BitVec 12)
  vacant  : BitVec 32
  parked  : BitVec 32
  nanset  : BitVec 6
  win     : List WinCmd
  wovf    : Bool
  /-- WLDs of the context with this number or a higher one were issued after the MZERO that opened the record -/
  since   : Nat
  deriving DecidableEq, Repr

/-- A staging slot (R137). A fill in progress leaves the old contents readable only until it completes (R140). -/
structure StageSlot where
  data    : Option StageData
  /-- the WLD that filled it: its number, itself and the CRC of its bytes (R156, R272) -/
  src     : Option (Nat × WldCmd × BitVec 64)
  /-- the 4 KiB granules that the fill read (R179) -/
  grans   : List Nat
  filling : Bool
  deriving DecidableEq, Repr

/-- A rename buffer that an access waits for: its launch and granule (R117). -/
structure FillRef where
  polder  : BitVec 4
  seq     : BitVec 48
  granule : Nat
  deriving DecidableEq, Repr

/-- The task that a context runs: its launch and index. -/
structure TaskRef where
  polder : BitVec 4
  seq    : BitVec 48
  index  : Nat
  deriving DecidableEq, Repr

/-- The instruction behind a write: its task, sequencer, the handlers around it and its place in the order of issue (R209,
R252). -/
structure Writer where
  task  : TaskRef
  seq   : Seqr
  depth : Nat
  age   : Nat
  va    : Word
  /-- the write of a transfer, whose lost lines raise nothing once it has moved them (R434) -/
  moves : Bool
  deriving DecidableEq, Repr

/-- On whose behalf an access is made (R112, R215, R234). launch names the launch whose renaming applies (R117); core is
the core whose first-level TLB and L1 serve it, who the instruction that writes. -/
structure Agent where
  asid   : BitVec 9
  polder : BitVec 4
  /-- at task level: TASK is needed in the stage-1 leaf (R239) -/
  task   : Bool
  launch : Option (BitVec 4 × BitVec 48)
  die    : Nat
  core   : Option Nat
  who    : Option Writer
  /-- HINT of the instruction (R94, R197) -/
  hint   : BitVec 2 := 0
  deriving DecidableEq, Repr

/-- A leaf that a translation went through: its physical address, the key it is read under, its OA (R242). -/
structure LeafRef where
  pa  : Nat
  key : Nat
  oa  : Nat
  deriving DecidableEq, Repr

/-- A TLB entry: one page of the smaller size of its two leaves, tagged by identifier, with its combined permissions, key
slot and physical page, the guest-physical page it came through, and which heat it has counted (R241, R242, R247). -/
structure TlbEntry where
  asid   : BitVec 9
  polder : BitVec 4
  va     : Nat
  size   : Nat
  gpa    : Nat
  pa     : Nat
  key    : Nat
  /-- a stage 2 was walked, so KEY is of its leaf -/
  keyed  : Bool
  rd     : Bool
  w      : Bool
  x      : Bool
  task   : Bool
  /-- installed through a leaf with MIGR: no write permission is installed (R247) -/
  migr   : Bool
  leaf1  : Option LeafRef
  leaf2  : Option LeafRef
  rdDone : Bool
  wrDone : Bool
  deriving DecidableEq, Repr

/-- A walk-cache entry: where a table entry of a level leads, for the inputs that select it. space is the identifier of a
stage-1 table or the polder of a stage-2 table, table the next table's guest-physical or physical address (R241). -/
structure WalkEntry where
  stage2 : Bool
  space  : Nat
  level  : Nat
  input  : Nat
  table  : Nat
  /-- whose walk read it -/
  polder : BitVec 4 := 0
  deriving DecidableEq, Repr

/-- A translated piece of an access within one 4 KiB granule. ren names the granule when it is renamed (R117); tlb is the
translation as a TLB holds it, walks what its walk read of the tables. -/
structure Seg where
  va   : Nat
  pa   : Nat
  len  : Nat
  key  : Nat
  leaf1 : Option LeafRef
  leaf2 : Option LeafRef
  ren  : Option Nat
  ok   : Bool
  tlb  : Option TlbEntry
  walks : List WalkEntry
  deriving DecidableEq, Repr

/-- A line of an L1 or an L2: the physical line, the polder and granule on whose behalf it was filled, in an L2 whether it
is dirty, and whether it is marked keep (R178, R179, R191, R197). -/
structure CacheLine where
  line   : Nat
  polder : BitVec 4
  gran   : Option Nat
  dirty  : Bool
  keep   : Bool := false
  deriving DecidableEq, Repr

/-- The captured operands of a transfer (R212, R375, R391 to R395, R419). -/
inductive XferKind where
  /-- TLD and TST: load, memory base, pitch, rows, bytes in a row, masked trailing rows -/
  | block (load : Bool) (base : Word) (pitch rows bytes pad : Nat) (sp : SpDesc) (ch : Chunk)
  /-- a block TLD of a neutral context, from a weight-vault offset -/
  | vault (base : Word) (pitch rows bytes pad : Nat) (sp : SpDesc) (ch : Chunk)
  /-- .win block forms -/
  | window (load : Bool) (base : Word) (pitch rows bytes pad : Nat) (sp : SpDesc) (ch : Chunk)
  /-- TLD.rows and TSCAT -/
  | rows (gather : Bool) (b0 n off bytes : Nat) (sp : SpDesc) (ch : Chunk)
  /-- TLD.adp -/
  | adp (m pitch off rows bytes : Nat) (sp : SpDesc) (ch : Chunk)
  /-- SCOPY: status register, destination, source, length, IV counter, key slot; from when it was accepted the sealing key
  and salt and the pieces of destination and source, whose pages it holds (R301); and the status already decided -/
  | scopy (d : SReg) (dst src : Word) (len : Nat) (ctr : Word) (slot : Nat) (key : Option (BitVec 256 × BitVec 32))
      (spans : List Seg × List Seg) (status : Option Nat)
  /-- WLD -/
  | wld (c : WldCmd)
  deriving DecidableEq, Repr

/-- A transfer in flight (R212, R213). progress counts the pages already passed; fault is what holds it. -/
structure Transfer where
  id       : Nat
  seq      : Seqr
  point    : CodePoint
  scope    : Scope
  agent    : Agent
  kind     : XferKind
  progress : Nat
  fault    : Option FaultRef
  /-- regions in CLOSING when it started: it meets them as a new access (R208, R209) -/
  closing  : List Nat
  /-- the cycle of its issue (R301) -/
  since    : Nat
  /-- as the sequencer's own fields of these names (R304) -/
  fab      : List Host.Cell
  rtags    : List Word
  deriving DecidableEq, Repr

/-- One operation of a reduction at its translated piece (R307, R415). -/
structure RedElem where
  op  : AtomOp
  fmt : Fmt
  seg : Seg
  v   : Nat
  deriving DecidableEq, Repr

/-- What must happen before an issued instruction counts as complete (R72). -/
inductive OpKind where
  /-- INSTRUCTION_COMPLETE completes it -/
  | plain
  | transfer (id : Nat)
  | wld (ws : Bool) (id : Nat)
  | matrix
  | rrot
  /-- a store or reduction in the side log (R248) -/
  | side (id : Nat)
  /-- writes of the fabric that wait for an acknowledgement (R304), and whether they are made at sys scope (R227) -/
  | fabric (rtags : List Word) (sys : Bool)
  /-- elements of a reduction that wait for the next atomic credit, the tags of those sent over the fabric (R307), and
  whether it is made at sys scope (R227) -/
  | credit (g : Agent) (rest : List RedElem) (rtags : List Word) (sys : Bool)
  /-- BAR or CARVE, completed at its departure, which acquires at the scope given (R333, R342) -/
  | bar (n : Nat) (sc : Scope)
  | cbar (n : Nat) (sc : Scope)
  /-- TKPOST, and a FENCE with release effect, which lets nothing later issue: at pool scope they write dirty pool lines
  back (R228, R230) -/
  | release (sc : Scope)
  | fence (sc : Scope)
  deriving DecidableEq, Repr

/-- An issued instruction that has not yet left its sequencer's order (R71, R72). ena holds the trap enables captured at
issue (R42), trap a trap raised after completion (R44, R396), ends the reaching of the stream end, point the point of the
instruction after it. -/
structure Op where
  post : BitVec 4
  kind : OpKind
  exc  : ExcRec
  ena  : BitVec 5
  trap : Option TrapReq
  ends : Bool
  /-- handlers of the context when it issued -/
  depth : Nat
  /-- its place in the order of issue of the context, and the scope at which its post releases (R220, R228) -/
  age  : Nat
  scope : Scope
  done : Bool
  deriving DecidableEq, Repr

/-- What stops a sequencer until something outside it happens. -/
inductive Hold where
  /-- a load, ATOM, fetch, TSUB, CMNT, WATCH or LDK held on a fault entry (R245) -/
  | fault (r : FaultRef)
  /-- a fill of a rename buffer (R117) -/
  | fill (r : FillRef)
  /-- a TSUB on a full queue, with its checked launch (R399): entry number among the held submissions -/
  | queue
  /-- a fabric read or ATOM (R304) -/
  | fabric
  deriving DecidableEq, Repr

/-- What a sequencer is doing. -/
inductive SeqRun where
  | running
  /-- at its stream end (R67) -/
  | streamEnd
  /-- X after END (R66) -/
  | ended
  /-- stopped at BAR, CBAR or CARVE, in the given instance of its barrier (R79, R333, R343) -/
  | bar (n : Nat)
  | cbar (n : Nat)
  | carve (d : SReg) (units : Word) (n : Nat)
  /-- after PSDONE (R263) -/
  | psdone (k : Nat)
  deriving DecidableEq, Repr

/-- The copies of s24 to s31 and g12 to g15 that a handler set aside (R256). -/
structure Bank where
  sreg : List Word
  g    : BitVec 4
  deriving DecidableEq, Repr

structure Seq where
  /-- s0 to s31 -/
  sreg   : Vector Word 32
  /-- g0 to g15; bit 0 is never read -/
  guards : BitVec 16
  banks  : List Bank
  pc     : CodePoint
  /-- the line that was fetched for pc -/
  line   : Option Line
  /-- the instruction at pc is passed over (R258, ACTION 01) -/
  skip   : Bool
  /-- the scope of a release that waits at pc (R228, R230) -/
  relWait : Option Scope
  /-- the wait of the instruction at pc has been taken, on this queue (R73) -/
  waited : Option (BitVec 4)
  /-- the last valid slot of a line with the end-of-stream bit has issued (R67) -/
  atEnd  : Bool
  run    : SeqRun
  /-- arrivals at context barriers (R333) -/
  bars   : Nat
  hold   : Option Hold
  /-- the place in the order of issue of the held instruction (R260) -/
  age    : Nat
  ops    : List Op
  /-- bytes that fabric responses brought for the instruction at pc, by physical address, and whether the old value of
  its ATOM arrived (R304) -/
  fab    : List Host.Cell
  rtags  : List Word
  retired : Nat
  deriving DecidableEq, Repr

/-- Where a sequencer stood when a handler was entered, and goes back to (R255, R258, R262). -/
structure SeqSave where
  seq    : Seqr
  point  : CodePoint
  skip   : Bool
  waited : Option (BitVec 4)
  atEnd  : Bool
  run    : SeqRun
  hold   : Option Hold
  age    : Nat
  fab    : List Host.Cell
  rtags  : List Word
  deriving DecidableEq, Repr

/-- A handler that runs in a context (R255, R259, R262). A pre-emption handler runs on all four sequencers. -/
structure Frame where
  seq     : Seqr
  reeve   : Bool
  preempt : Bool
  image   : Word
  lines   : Nat
  asid    : BitVec 9
  /-- the sequencers that entered the handler and have not left it -/
  saves   : List SeqSave
  /-- the record of the handler around this one -/
  trec    : Word
  taddr   : Word
  deriving DecidableEq, Repr

/-- A pre-emption request at a context (R261 to R264). -/
structure PreemptReq where
  used   : Nat
  shadow : Bool
  deriving DecidableEq, Repr

inductive Life where
  | running | ending
  /-- retired or ended, its slot kept for its gang (R64) -/
  | retired
  deriving DecidableEq, Repr

/-- A constant window: base and words (R100, R101). -/
structure Window where
  base  : Nat
  words : Nat
  deriving DecidableEq, Repr

/-- A gang of a launch (R62). -/
structure GangRef where
  polder : BitVec 4
  seq    : BitVec 48
  gang   : Nat
  pos    : Nat
  deriving DecidableEq, Repr

/-- What a sequencer waited for when the watchdog fired: a queue, what holds it, and where it stands (R83). -/
structure Stall where
  wait : BitVec 4
  hold : Option Hold
  run  : SeqRun
  deriving DecidableEq, Repr

/-- A context in a slot, or saved (R65, R74, R77). -/
structure Ctx where
  id      : CtxId
  polder  : BitVec 4
  asid    : BitVec 9
  priv    : Priv
  /-- the bunting that a neutral context runs (R168) -/
  neutral : Option Nat
  gang    : Option GangRef
  task    : Option TaskRef
  life    : Life
  /-- ended without END (R259) -/
  cut     : Bool
  x       : Seq
  l       : Seq
  c       : Seq
  s       : Seq
  /-- s32 to s63 -/
  shared  : Vector Word 32
  vreg    : Vector VecReg 32
  preg    : Vector PData 8
  /-- counts of queues 1 to 12 (R70, R71) -/
  tokens  : Vector (BitVec 6) 12
  image   : Word
  lines   : Nat
  /-- entry lines X, L, C, S of the image header -/
  entries : List Nat
  /-- the code-vault image of a neutral context -/
  vault   : Option Nat
  /-- the image header has not passed its check (R90) -/
  headerBad : Bool
  windows : List Window
  units   : Nat
  scratch : List Host.Cell
  /-- 16-byte lines that hold data of a block TLD, with the granule it came from and the bytes that are still of it (R179) -/
  origin  : List (Nat × Nat × BitVec 16)
  /-- poisoned 16-byte lines of the scratchpad (R274) -/
  spoison : List Nat
  fpcr    : Word
  workid  : Word
  wfields : BitVec 39
  handle  : BitVec 52
  cancel  : Bool
  padrows : BitVec 16
  padcols : BitVec 16
  trec    : Word
  taddr   : Word
  fltaddr : Word
  asselP  : BitVec 4
  asselA  : BitVec 9
  prsel   : BitVec 14
  pdsel   : BitVec 4
  fpsel   : BitVec 4
  frames  : List Frame
  pending : List TrapReq
  preempt : Option PreemptReq
  slots   : List StageSlot
  tiles   : List TileRec
  matrix  : List MatCmd
  xfers   : List Transfer
  nextXfer : Nat
  /-- the record whose command window is replayed (R271) -/
  replay  : Option (BitVec 3)
  /-- bytes of the fabric that the replay's WLDs asked for again, by physical address, and the requests without a response
  (R271, R304) -/
  refab   : List Host.Cell := []
  retags  : List Word := []
  /-- the last RROT: source, destination, length, and whether it waits for the gang (R214) -/
  rrot    : Option (Nat × Nat × Nat)
  rrotWait : Bool
  /-- arrivals at gang barriers (R343) -/
  cbars   : Nat
  watchdog : Nat
  /-- the sequencers X, L, C, S at its last watchdog trap (R83) -/
  stalls   : List Stall
  resident : Nat
  /-- instructions issued (R260) -/
  issued  : Nat
  matDone : Nat
  moved   : Nat
  dqLost  : Bool
  deriving DecidableEq, Repr

/-- An entry of a core's store side log (R248). -/
structure SideEntry where
  id   : Nat
  slot : Nat
  seq  : Seqr
  /-- log entries that it takes (R248) -/
  size : Nat
  scope : Scope
  aclass : BitVec 3
  rel  : Bool
  /-- the bytes of a store, by virtual address, in the order of writing -/
  stores : List (Word × List Byte)
  /-- the operations of a reduction: code, 8-byte width, address, operand; for VREDX also a floating-point format -/
  reds : List (AtomOp × Fmt × Word × Word)
  agent : Agent
  fault : Option FaultRef
  deriving DecidableEq, Repr

/-- A saved context (R265). -/
structure Saved where
  ctx    : Ctx
  deque  : Option (List Word)
  side   : List SideEntry
  /-- its scratchpad is in shadow storage (R268) -/
  shadow : Bool
  forced : Bool
  /-- a MODE 11 request waits for its slot (R266) -/
  wanted : Bool
  deriving DecidableEq, Repr

/-- A log that a register reads entry by entry (R133, R174, R279, R303). -/
structure RegLog where
  entries : List (Word × Word)
  ovf     : Bool
  deriving DecidableEq, Repr

/-- An entry of a residency table: its index and word, most recently updated first in its table (R178, R179). -/
abbrev ResTable := List (Nat × Word)

structure CoreState where
  owner   : Option Nat
  /-- first-level TLB (R241) -/
  tlb     : List TlbEntry
  /-- lines of the L1, and of the constant cache (R13, R191) -/
  l1      : List CacheLine
  consts  : List Nat
  deque   : List Word
  side    : List SideEntry
  nextSide : Nat
  resid   : ResTable
  /-- rotation orders of the ports X, L, C, S, by slot (R80) -/
  ports   : List (List Nat)
  /-- the polder whose state is in the core's shadow storage (R268) -/
  shadow  : Option (BitVec 4)
  score   : BitVec 8
  recomm  : Bool
  quar    : Bool
  deriving DecidableEq, Repr

/-- A match key (R161). -/
structure MatchKey where
  hash    : BitVec 128
  model   : BitVec 96
  tensor  : BitVec 16
  version : BitVec 16
  shape   : BitVec 8
  deriving DecidableEq, Repr

/-- A member of a bucket or bunting (R167). -/
structure Member where
  task     : TaskRef
  asid     : BitVec 9
  deadline : Nat
  rowOff   : Nat
  rows     : Nat
  inRow0   : Word
  inStride : BitVec 32
  outRow0  : Word
  outStride : BitVec 32
  adapter  : BitVec 6
  adpBase  : Word
  aslot    : Nat
  enables  : BitVec 5
  parked   : Option (BitVec 8)
  firstRow : Nat
  written  : BitVec 32
  deriving DecidableEq, Repr

/-- An open bucket of a die's weir (R162, R164). -/
structure Bucket where
  slot    : Nat
  key     : MatchKey
  members : List Member
  deriving DecidableEq, Repr

/-- A released or running bunting (R164, R166, R167). -/
structure Bunting where
  id       : Nat
  die      : Nat
  slot     : Nat
  released : Nat
  key      : MatchKey
  members  : List Member
  image    : Nat
  running  : Option CtxId
  /-- index in the audit buffer, the bytes that its row gathers brought, and the bytes of scattered rows, by bunting row
  (R276, R277) -/
  sample   : Option Nat
  gathered : List (Nat × List Byte)
  scattered : List (Nat × List Byte)
  /-- the sample that it replays, whose logged bytes gathered still holds (R277) -/
  replay   : Option Nat := none
  deriving DecidableEq, Repr

/-- One pool line held exclusive and dirty in an RDC (R205), with the instructions whose writes the memory device has not
acknowledged (R209). -/
structure RdcLine where
  addr : Nat
  data : Line
  writers : List Writer
  deriving DecidableEq, Repr

structure DieState where
  present : Bool
  height  : Nat
  buckets : List Bucket
  summary : ResTable
  rdc     : List RdcLine
  /-- pool lines held shared or exclusive and clean (R205) -/
  rdcClean : List Nat
  /-- copies of HBM lines homed on other dies (R199) -/
  rdcRemote : List Nat
  /-- lines of the RDC, most recently used first, and whether each is marked keep (R197) -/
  rdcOrder : List (Nat × Bool)
  /-- lines of the L2 (R191, R198) -/
  l2      : List CacheLine
  /-- second-level TLB and walk cache (R241) -/
  tlb2    : List TlbEntry
  walks   : List WalkEntry
  vaultSize : Nat
  /-- allocated vault pages: offset in pages and count (R201) -/
  vaultUse : List (Nat × Nat)
  sweepEn  : Bool
  sweepLate : Bool
  sweepBusy : Bool
  sweepPeriod : Nat
  /-- a successor is due while a sweep runs (R243) -/
  sweepOwed : Bool
  scrub    : List Nat
  clean    : List Nat
  /-- atomic credit units by slice and polder (R307) -/
  credits  : List (Nat × Nat × Nat)
  /-- the cycles of bunting releases (R309, counter 37) -/
  releases : List Nat
  deriving DecidableEq, Repr

/-- The task states that a launch keeps (R66). -/
inductive TaskState where
  | queued | routed (die : Nat) | held (die : Nat) | released | running | ending | saved | retired | done | cancelled
  | rejected
  deriving DecidableEq, Repr

/-- A launch record as it was read (R101, R102). -/
structure LaunchRec where
  image   : Word
  base    : Word
  fields  : BitVec 39
  count   : Nat
  gang    : Bool
  prio    : Nat
  priv    : BitVec 2
  carve   : Nat
  target  : Option (BitVec 4 × BitVec 9)
  windows : List Window
  coal    : Bool
  key     : MatchKey
  rows    : Nat
  adapter : BitVec 6
  patience : Nat
  inBase  : Word
  inStride : BitVec 32
  outBase : Word
  outStride : BitVec 32
  tileBase : Word
  reads   : List (Nat × Nat)
  writes  : List (Nat × Nat)
  adpBase : Word
  deriving DecidableEq, Repr

/-- The state of a rename buffer's fill (R117). -/
inductive Fill where
  | unfilled | faulted (r : FaultRef) | filled
  deriving DecidableEq, Repr

/-- A rename buffer: the granule's virtual number, the buffer's guest-physical address, the lines written (R117). -/
structure Rename where
  granule : Nat
  buf     : Nat
  written : BitVec 64
  fill    : Fill
  deriving DecidableEq, Repr

/-- A launch in its polder's queue (R109). -/
structure Launch where
  polder   : BitVec 4
  seq      : BitVec 48
  asid     : BitVec 9
  /-- the address space of the completion word, and the word (R112, R121) -/
  complAsid : BitVec 9
  compl    : Word
  priv     : Priv
  enables  : BitVec 5
  rcd      : LaunchRec
  image    : Option Nat
  tasks    : List TaskState
  /-- the cycle in which it became eligible (R113) -/
  eligible : Option Nat
  started  : Bool
  renames  : List Rename
  abnormal : Bool
  rejectLogged : Bool
  committed : Bool
  /-- the entry its commit copy waits for (R120) -/
  commitFault : Option FaultRef
  tokenHeld : Bool
  deriving DecidableEq, Repr

/-- An armed watchpoint (R128 to R132). regs names its registers as die and index. -/
structure Watch where
  /-- the model's own number of it, never used again -/
  serial  : Nat
  polder  : BitVec 4
  asid    : BitVec 9
  regs    : List (Nat × Nat)
  /-- physical pieces of the range: address, length, virtual address -/
  pieces  : List (Nat × Nat × Nat)
  rearm   : Bool
  mask    : Word
  value   : Word
  rcd     : Word
  compl   : Word
  heldFire : Bool
  counted : Nat
  deriving DecidableEq, Repr

/-- A watchpoint that has fired and whose record is not yet read (R130, R131). -/
structure Fire where
  polder : BitVec 4
  asid   : BitVec 9
  wpid   : Nat
  /-- the watchpoint's own number -/
  serial : Nat
  /-- what the writer's sys release still waits for: side-log entries by core and name, and fabric writes (R223, R228) -/
  side   : List (Nat × Nat)
  acks   : List Word
  /-- and its reductions that still wait for credits, by core, slot, sequencer and place in the order of issue (R307) -/
  reds   : List (CtxId × Seqr × Nat)
  rcd    : Word
  compl  : Word
  rearm  : Bool
  deriving DecidableEq, Repr

/-- A fire that waits for a queue entry (R132). -/
structure HeldFire where
  polder : BitVec 4
  wpid   : Nat
  serial : Nat
  launch : Launch
  counted : Nat
  rearm  : Bool
  /-- the cycle of its arrival (R110) -/
  since  : Nat
  deriving DecidableEq, Repr

/-- A TSUB held on a full queue (R109, R399). -/
structure HeldSub where
  ctx    : CtxId
  dest   : SReg
  launch : Launch
  /-- the cycle of its arrival (R110) -/
  since  : Nat
  deriving DecidableEq, Repr

/-- What waits for a fault entry (R245 to R247). -/
inductive Waiter where
  | seq (c : CtxId) (q : Seqr)
  | xfer (c : CtxId) (id : Nat)
  | side (core id : Nat)
  | fill (p : BitVec 4) (seq : BitVec 48) (granule : Nat)
  | commit (p : BitVec 4) (seq : BitVec 48)
  | host
  deriving DecidableEq, Repr

/-- A fault that found its queue full, or the facts of an entry (R246). -/
structure FaultInfo where
  stage2 : Bool
  polder : BitVec 4
  asid   : BitVec 9
  page   : Nat
  /-- the address of the access -/
  va     : Nat
  kind   : BitVec 3
  acc    : BitVec 3
  level  : BitVec 2
  deriving DecidableEq, Repr

/-- An outstanding fault entry (R246). id is the model's name of it; queued: no read has removed it yet. -/
structure FaultEntry where
  id      : Nat
  info    : FaultInfo
  token   : BitVec 8
  waiting : Bool
  queued  : Bool
  waiters : List Waiter
  deriving DecidableEq, Repr

/-- A polder's controls, registers, queue and logs (R283 to R290 and the rules INVENTORY.md names). -/
structure Polder where
  state   : BitVec 2
  tslice  : Bool
  cvperm  : Bool
  tclass  : BitVec 2
  ptag    : BitVec 8
  vf      : BitVec 4
  tdi     : BitVec 2
  err     : BitVec 4
  qdepth  : BitVec 16
  cores   : BitVec 160
  chans   : BitVec 128
  atomc   : Nat
  floor   : Nat
  keys    : BitVec 32
  bal     : Int
  share   : Nat
  s2en    : Bool
  s2root  : BitVec 36
  tvec    : BitVec 48
  rnBase  : BitVec 36
  rnSize  : BitVec 16
  rnNext  : Option Word
  pgKey   : BitVec 5
  pgQuota : BitVec 32
  pgPend  : Option (Nat × Nat)
  pgLast  : BitVec 3
  /-- guest-physical pages mapped by PGMAP and not unmapped (R251) -/
  pgPages : List Nat
  pbudget : Nat
  saveBase : BitVec 36
  sealst  : BitVec 8
  sublog  : RegLog
  parklog : RegLog
  parkinfo : Word
  nextSeq : BitVec 48
  queue   : List Launch
  swapped : Bool
  /-- the function that waits for the answer of a STOP_INTERFACE_REQUEST (R294) -/
  stopping : Bool
  deriving DecidableEq, Repr

/-- An address-space identifier (R235). -/
structure AsEntry where
  valid  : Bool
  polder : BitVec 4
  root   : BitVec 36
  deriving DecidableEq, Repr

/-- LEVEE codes (R207). -/
inductive Levee where
  | opened | closing | breached
  deriving DecidableEq, Repr

structure Region where
  valid   : Bool
  levee   : Levee
  port    : BitVec 2
  owner   : BitVec 4
  cause   : BitVec 3
  hpa     : BitVec 22
  dropped : Nat
  deriving DecidableEq, Repr

/-- A key slot (R298 to R301). gen names the XTS key; 0 means none. -/
structure KeySlot where
  gen     : Nat
  sealKey : Option (BitVec 256 × BitVec 32)
  lastctr : Word
  deriving DecidableEq, Repr

/-- How an HBM line was last written: zero-filled by the scrubber, or under a key (R250, R298). -/
inductive LineMark where
  | zeroFilled
  | key (slot gen : Nat)
  deriving DecidableEq, Repr

/-- An image of the code vault (R158, R160). lines holds lines 0 to LEN - 1. -/
structure VaultImage where
  id      : Nat
  hash    : BitVec 128
  bytes   : List Byte
  windows : List (List Byte)
  carve   : Nat
  /-- on each die: the first vault page of its copy, and the pages -/
  places  : List (Nat × Nat)
  withdrawn : Bool
  deriving DecidableEq, Repr

/-- States of a tensor version (R183). -/
inductive VerState where
  | loading | current | retiring | unavailable
  deriving DecidableEq, Repr

structure Version where
  model   : BitVec 96
  tensor  : BitVec 16
  version : BitVec 16
  state   : VerState
  home    : Nat
  page    : Nat
  pages   : Nat
  bytes   : Nat
  pin     : Bool
  deriving DecidableEq, Repr

/-- The last load (R185). got marks the shards that passed, tries counts the failures of each; origin is the endpoint that
sent its last shard. -/
structure Load where
  model   : BitVec 96
  tensor  : BitVec 16
  version : BitVec 16
  source  : Nat
  origin  : BitVec 16
  group   : Nat
  shards  : Nat
  size    : Nat
  digests : List (List Byte)
  got     : List Bool
  tries   : List Nat
  /-- cycles of TIMEOUT, and the cycle from which each shard is waited for -/
  timeout : Nat
  asked   : List Nat
  /-- shards are still awaited -/
  active  : Bool
  deriving DecidableEq, Repr

/-- One MSI-X table entry (R291). -/
structure MsixEntry where
  addr : Word
  data : BitVec 32
  mask : Bool
  pend : Bool
  deriving DecidableEq, Repr

/-- A PCIe function (R291, R292). -/
structure HostFn where
  enable : Bool
  fmask  : Bool
  table  : List (Nat × MsixEntry)
  deriving DecidableEq, Repr

/-- A fabric access that waits for a response (R304). -/
structure FabReq where
  rtag  : Word
  ctx   : CtxId
  seq   : Seqr
  xfer  : Option Nat
  port  : Nat
  addr  : Nat
  va    : Nat
  size  : Nat
  isRead : Bool
  since : Nat
  deriving DecidableEq, Repr

/-- What the device sends out: the model's own record of its outputs. -/
inductive OutMsg where
  | msi (fn : Nat) (addr : Word) (data : BitVec 32)
  | packet (port : Nat) (p : Packet)
  | burgee (port : Nat) (header : List Byte) (entries : List (List Byte))
  | hostData (fn : Nat) (ok : Bool) (data : List Byte)
  /-- a memory request to the host by a function: address, length and kind of access (R203, R293) -/
  | hostAccess (fn : Nat) (addr len : Nat) (acc : BitVec 3)
  | biResponse (addr : Nat) (shared : Bool) (data : Option Line)
  | config (retry : Bool)
  | tdisp (fn : Nat) (code : Nat) (body : List Word)
  | spdm (code : Nat) (body : List Word)
  | reeve (code : Nat) (arg : Nat)
  deriving DecidableEq, Repr

/-- An entry of the Optis log (R310): an event and its argument. -/
structure OptisEvent where
  code : Nat
  arg  : Nat
  deriving DecidableEq, Repr

/-- A unit that the auditor holds: what the audit buffer logged of it (R276), and the signature of its original run. -/
structure AuditSample where
  index : Nat
  core  : Nat
  die   : Nat
  signature : Word
  gathered : List (Nat × List Byte)
  members : List Member
  hash  : BitVec 128
  version : Option (BitVec 96 × BitVec 16 × BitVec 16)
  /-- what a replay needs besides: the image and key of the unit, and the rows that its scatters wrote (R277) -/
  image : Nat
  key   : MatchKey
  scattered : List (Nat × List Byte)
  /-- the first replay's core and signature, once it differed; and the replay that has ended and is to be compared, without
  a signature where it was pre-empted or faulted (R277, R278) -/
  second : Option (Nat × Word)
  ended : Option (Nat × Option Word)
  deriving DecidableEq, Repr

/-- A pre-emption request in progress (R261). -/
structure PreqState where
  mode   : BitVec 2
  polder : BitVec 4
  swapIn : BitVec 4
  /-- the contexts still to be saved -/
  left   : List CtxId
  saved  : Nat
  forced : Nat
  deriving DecidableEq, Repr

structure State where
  -- contexts and cores
  ctxs     : List Ctx
  saved    : List Saved
  cores    : List CoreState
  dies     : List DieState
  polders  : List Polder
  buntings : List Bunting
  nextBunting : Nat
  -- memory
  mem      : List Host.Cell
  pool     : List Host.Cell
  marks    : List (Nat × LineMark)
  poison   : List Nat
  /-- save areas whose contents are not architectural: base and the save that wrote them (R265) -/
  areas    : List (Nat × Nat)
  keys     : List KeySlot
  nextGen  : Nat
  asids    : List AsEntry
  regions  : List (Nat × Region)
  breaches : BitVec 16
  ports    : List (BitVec 4)
  -- faults
  faults   : List FaultEntry
  nextFault : Nat
  roomWait : List (FaultInfo × Waiter)
  -- submission
  /-- tokens that no address space took when their polder was destroyed: polder, address space, word (R122, R288) -/
  lateTokens : List (BitVec 4 × BitVec 9 × Word)
  heldSubs : List HeldSub
  heldFires : List HeldFire
  fires    : List Fire
  watches  : List Watch
  nextWatch : Nat
  /-- the polder that the dispatcher served last (R114) -/
  lastServed : Nat
  -- vaults
  images   : List VaultImage
  nextImage : Nat
  cvBusy   : Option (Word × CtxId × BitVec 9)
  cvStatus : BitVec 8
  cvwd0    : Word
  versions : List Version
  load     : Option Load
  vlStatus : BitVec 2
  vlFailed : BitVec 16
  mkeys    : List (Nat × List Byte)
  mkeyStatus : BitVec 8
  -- device registers
  burgeeDst : Word
  burgeeSeq : Word
  burgeeDue : Nat
  rtvec    : Word
  preq     : Option PreqState
  pstatStatus : BitVec 3
  pstatSaved : BitVec 16
  pstatForced : BitVec 16
  commons  : BitVec 160
  audEn    : Bool
  audRate  : BitVec 5
  audThresh : BitVec 8
  audbuf   : Word
  audlog   : RegLog
  audits   : List AuditSample
  nextAudit : Nat
  suspectSel : Nat
  -- fabric
  fabid    : Word
  froute   : List (Nat × BitVec 12)
  fpmap    : List (BitVec 256)
  fablog   : RegLog
  fabDown  : List Nat
  fabReqs  : List FabReq
  nextRtag : Nat
  linksDown : List (Nat × Nat)
  -- host
  fns      : List HostFn
  bootstat : BitVec 16
  ide      : List Bool
  spdmReady : Bool
  spdm     : List Nat
  -- start-up, power, Optis
  startup  : Nat
  powered  : Bool
  halted   : Bool
  optis    : List OptisEvent
  /-- corrected errors (R192, R310) -/
  corrected : Nat
  /-- the security version in the fuses -/
  fwVersion : Nat
  /-- the firmware that runs, and an accepted image that waits for the next module reset (R23, R311) -/
  firmware : List Byte
  fwPending : Option (Nat × List Byte)
  -- time, and the model's own fields
  cycle    : Nat
  qosStart : Nat
  cur      : SeqId
  agenda   : List Instr
  freeCtr  : Nat
  outbox   : List OutMsg
  /-- accesses from outside that wait for a page that a SCOPY holds, or for atomic credits (R301, R307) -/
  stalled  : List Instr
  deriving DecidableEq, Repr

/-- Why the machine stops with a fault. -/
inductive Fault where
  /-- Raised by every step after a thermal trip has stopped every clock, until power is cycled (R25). Safe. -/
  | halted
  /-- Raised by every step without the 54 V input (R23). Safe. -/
  | noPower
  deriving DecidableEq, Repr

/-- Why a step has no meaning. -/
inductive Refusal where
  /-- Answered by exec for an instruction that has no meaning yet. Safe. -/
  | notModelled (mnemonic : String)
  deriving DecidableEq, Repr

/-- What every step and meaning answers. -/
abbrev Answer := Host.Outcome State Fault Refusal

def RegLog.empty : RegLog := { entries := [], ovf := false }

def CoreState.reset : CoreState :=
  { owner := none, tlb := [], l1 := [], consts := [], deque := [], side := [], nextSide := 0, resid := [], ports := [[], [], [], []], shadow := none
    score := 0, recomm := false, quar := false }

/-- A die after reset. Its slices hold the credits of cycle 0, a multiple of 1,024 (R307). -/
def DieState.reset : DieState :=
  { present := true, height := 32, buckets := [], summary := [], rdc := [], rdcClean := [], rdcRemote := [], rdcOrder := [], l2 := []
    tlb2 := [], walks := [], vaultSize := 0, vaultUse := []
    sweepEn := false, sweepLate := false, sweepBusy := false, sweepPeriod := 0, sweepOwed := false, scrub := [], clean := []
    credits := (List.range 16).map fun i => (i, 0, 512)
    releases := [] }

/-- A polder's controls at their reset values (R284 to R289 and the registers' own tables). -/
def Polder.reset : Polder :=
  { state := 0, tslice := false, cvperm := false, tclass := 0, ptag := 0, vf := 0, tdi := 0, err := 0, qdepth := 0
    cores := 0, chans := 0, atomc := 0, floor := 0, keys := 0, bal := 0, share := 0, s2en := false, s2root := 0, tvec := 0
    rnBase := 0, rnSize := 0, rnNext := none, pgKey := 0, pgQuota := 0, pgPend := none, pgLast := 0, pgPages := []
    pbudget := 4096, saveBase := 0, sealst := 0, sublog := .empty, parklog := .empty, parkinfo := 0, nextSeq := 1
    queue := [], swapped := false, stopping := false }

/-- Polder 0 after module reset (R290). -/
def Polder.zero : Polder :=
  { Polder.reset with
    state := 2, cvperm := true, qdepth := 256, cores := BitVec.allOnes 160, chans := BitVec.allOnes 128, atomc := 512
    keys := 1 }

def AsEntry.reset : AsEntry := { valid := false, polder := 0, root := 0 }

/-- A pool region that nothing has written (R207). -/
def Region.reset : Region :=
  { valid := false, levee := .breached, port := 0, owner := 0, cause := 0, hpa := 0, dropped := 0 }

def KeySlot.reset : KeySlot := { gen := 0, sealKey := none, lastctr := 0 }

/-- Key slot 0 holds a key that the root of trust generates at reset (R290). -/
def KeySlot.zero : KeySlot := { KeySlot.reset with gen := 1 }

/-- An MSI-X entry after a function reset (R291). -/
def MsixEntry.reset : MsixEntry := { addr := 0, data := 0, mask := true, pend := false }

def HostFn.reset : HostFn := { enable := false, fmask := false, table := [] }

/-- The machine right after module reset (R24, R290, and the Reset column of every register). -/
def State.reset : State :=
  { ctxs := [], saved := [], cores := List.replicate 160 CoreState.reset, dies := List.replicate 4 DieState.reset
    polders := Polder.zero :: List.replicate 15 Polder.reset, buntings := [], nextBunting := 0
    mem := [], pool := [], marks := [], poison := [], areas := [], keys := KeySlot.zero :: List.replicate 31 KeySlot.reset
    nextGen := 2, asids := List.replicate 512 AsEntry.reset, regions := [], breaches := 0, ports := [0, 0, 0, 0]
    faults := [], nextFault := 0, roomWait := [], lateTokens := [], heldSubs := [], heldFires := [], fires := [], watches := [], nextWatch := 0, lastServed := 15
    images := [], nextImage := 0, cvBusy := none, cvStatus := 0, cvwd0 := 0, versions := [], load := none, vlStatus := 0
    vlFailed := 0, mkeys := [], mkeyStatus := 0, burgeeDst := 0, burgeeSeq := 0, burgeeDue := 0, rtvec := 0, preq := none
    pstatStatus := 0, pstatSaved := 0, pstatForced := 0, commons := 0, audEn := false, audRate := 10, audThresh := 4
    audbuf := 0, audlog := .empty, audits := [], nextAudit := 0, suspectSel := 0, fabid := 0, froute := []
    fpmap := List.replicate 12 0, fablog := .empty, fabDown := [], fabReqs := [], nextRtag := 0, linksDown := []
    fns := List.replicate 16 HostFn.reset, bootstat := 0, ide := List.replicate 17 false, spdmReady := false, spdm := []
    startup := 0, powered := true, halted := false, optis := [], corrected := 0, fwVersion := 0, firmware := [], fwPending := none
    cycle := 0, qosStart := 0, cur := { core := 0, slot := 0, seq := .X }, agenda := [], freeCtr := 0, outbox := [], stalled := [] }

end Sys2Proof.Machine
end

