-- ==== Sys2Proof/Machine/Memory.lean ====
section
/-! DEFINITION. Memory: byte cells in one canonical form, the physical map, and lines of HBM with their keys, zero-fill
marks and poison (R4, R189 to R192, R198, R200 to R202, R205, R250, R265, R274, R298). -/

namespace Sys2Proof.Machine

/-- The byte at an address; an unlisted address reads 0 (DESIGN CHOICE, log entry 1). -/
def cellGet : List Host.Cell → Nat → Byte
  | [], _ => 0
  | (k, b) :: l, a => if k = a then b else cellGet l a

/-- A list without the entries of an address. -/
def cellsWithout (l : List Host.Cell) (a : Nat) : List Host.Cell := l.filter fun e => e.1 != a

/-- The byte at an address written; a sorted list stays sorted and lists no 0. -/
def cellSet : List Host.Cell → Nat → Byte → List Host.Cell
  | [], a, b => if b = 0 then [] else [(a, b)]
  | (k, c) :: l, a, b =>
    if a < k then (if b = 0 then (k, c) :: cellsWithout l a else (a, b) :: (k, c) :: l)
    else if a = k then (if b = 0 then cellsWithout l a else (a, b) :: l)
    else (k, c) :: cellSet l a b

/-- Every key of the list is above a, the keys rise, and no entry is 0. -/
def cellsAbove : Option Nat → List Host.Cell → Bool
  | _, [] => true
  | lo, (k, b) :: l => (match lo with | none => true | some a => a < k) && b != 0 && cellsAbove (some k) l

/-- The canonical form of a memory: addresses strictly rising, no entry equal to what an unlisted address reads as. -/
def Memory.wf (m : List Host.Cell) : Bool := cellsAbove none m

/-- n bytes from an address up. -/
def cellsRead (m : List Host.Cell) (a : Nat) : Nat → List Byte
  | 0 => []
  | n + 1 => cellGet m a :: cellsRead m (a + 1) n

/-- Bytes written from an address up. -/
def cellsWrite (m : List Host.Cell) (a : Nat) : List Byte → List Host.Cell
  | [] => m
  | b :: l => cellsWrite (cellSet m a b) (a + 1) l

/-- A little-endian number (R4). -/
def leNat : List Byte → Nat
  | [] => 0
  | b :: l => b.toNat + 256 * leNat l

/-- The n low bytes of a number, least significant first (R4). -/
def leBytes (x : Nat) : Nat → List Byte
  | 0 => []
  | n + 1 => BitVec.ofNat 8 x :: leBytes (x / 256) n

/-- A part of a list of bytes. -/
def bytesAt (l : List Byte) (off n : Nat) : List Byte := (l.drop off).take n

def natAt (l : List Byte) (off n : Nat) : Nat := leNat (bytesAt l off n)

/-- What a physical address names (R189). -/
inductive PhysKind where
  | hbm (die : Nat)
  | pool (region : Nat)
  | host
  | fabric
  | none
  deriving DecidableEq, Repr

def physKind (a : Nat) : PhysKind :=
  if a < 4 * 2 ^ 37 then (if a % 2 ^ 37 < Config.hbmBytes then .hbm (a / 2 ^ 37) else .none)
  else if a < Config.poolBase then .none
  else if a < 2 * Config.poolBase then .pool ((a - Config.poolBase) / 2 ^ 30)
  else if a < Config.hostBase then .none
  else if a < 2 * Config.hostBase then .host
  else if a < Config.fabricBase then .none
  else if a < Config.physEnd then .fabric
  else .none

/-- The core's compute die (R3). -/
def dieOf (core : Nat) : Nat := core / Config.coresPerDie

/-- The cluster of a core and its position (R3). -/
def clusterOf (core : Nat) : Nat := core / 8
def posOf (core : Nat) : Nat := core % 8

/-- The L2 slice that serves an HBM address (R200). -/
def sliceOf (a : Nat) : Nat :=
  let g := a % 2 ^ 37 / 256
  (Nat.xor (Nat.xor (g % 32) (g / 32 % 32)) (g / 1024 % 32)) / 2

def DieState.default : DieState := { DieState.reset with present := false }

def getDie (s : State) (d : Nat) : DieState := s.dies.getD d .default
def getPolder (s : State) (p : BitVec 4) : Polder := s.polders.getD p.toNat .reset
def getCore (s : State) (c : Nat) : CoreState := s.cores.getD c .reset
def getKey (s : State) (k : Nat) : KeySlot := s.keys.getD k .reset
def getAsid (s : State) (a : BitVec 9) : AsEntry := s.asids.getD a.toNat .reset

/-- The entry of an association list. -/
def alGet {α : Type} (l : List (Nat × α)) (k : Nat) : Option α := (l.find? fun e => e.1 == k).map Prod.snd

/-- An entry set in an association list. -/
def alSet {α : Type} : List (Nat × α) → Nat → α → List (Nat × α)
  | [], k, v => [(k, v)]
  | (j, w) :: l, k, v => if j = k then (k, v) :: l else (j, w) :: alSet l k v

def getRegion (s : State) (n : Nat) : Region := (alGet s.regions n).getD .reset

/-- The first byte of a die's vault and the byte after its last (R201). -/
def vaultTop (d : Nat) : Nat := d * 2 ^ 37 + 0x1640000000
def vaultBase (s : State) (d : Nat) : Nat := vaultTop d - (getDie s d).vaultSize * 2 ^ 29

/-- The address lies in a die's vault (R201). -/
def inVault (s : State) (a : Nat) : Bool :=
  match physKind a with
  | .hbm d => vaultBase s d ≤ a && a < vaultTop d
  | _ => false

/-- Present HBM of a die that started (R24). -/
def populated (s : State) (a : Nat) : Bool :=
  match physKind a with
  | .hbm d => (getDie s d).present
  | .none => false
  | _ => true

/-- The line number of an address. -/
def lineOf (a : Nat) : Nat := a / 64

/-- The contents of a line as it was last written. -/
def rawLine (m : List Host.Cell) (ln : Nat) : Line := BitVec.ofNat 512 (leNat (cellsRead m (64 * ln) 64))

/-- A byte of a line that nothing has written since a context was saved over it (R265), or of any other unmarked line; a
vault, which only loads write (R201), is no save area. -/
def unmarkedByte (s : State) (a : Nat) : Byte :=
  match s.areas.find? fun e => e.1 ≤ a && a < e.1 + Config.saveBytes && !inVault s a with
  | some e => Config.savedByte e.2 (a - e.1)
  | none => cellGet s.mem a

/-- A byte of HBM as a read under key slot k returns it (R250, R265, R298). -/
def hbmByte (s : State) (k a : Nat) : Byte :=
  match alGet s.marks (lineOf a) with
  | some (.key j g) =>
    if g = (getKey s k).gen ∧ (g ≠ 0 ∨ j = k) then cellGet s.mem a
    else Config.wrongKeyByte g (getKey s k).gen (lineOf a) (rawLine s.mem (lineOf a)) (a % 64)
  | some .zeroFilled => cellGet s.mem a
  | none => unmarkedByte s a

/-- n bytes of HBM under a key slot. -/
def hbmRead (s : State) (k a : Nat) : Nat → List Byte
  | 0 => []
  | n + 1 => hbmByte s k a :: hbmRead s k (a + 1) n

/-- The line under the writer's key, ready for a partial write: what a read would have returned is stored, and the line
is marked with the writer's key (R250, R298). Vault lines carry no key (R202). -/
def claimLine (s : State) (k ln : Nat) : State :=
  if inVault s (64 * ln) then s
  else
    { s with
      mem := cellsWrite s.mem (64 * ln) (hbmRead s k (64 * ln) 64)
      marks := alSet s.marks ln (.key k (getKey s k).gen) }

/-- One line's bytes written under a key: from offset off of line ln. A write of the whole line clears its poison, a
partial one leaves it (R274). -/
def hbmWriteLine (s : State) (k ln off : Nat) (bs : List Byte) : State :=
  let s1 := claimLine s k ln
  { s1 with
    mem := cellsWrite s1.mem (64 * ln + off) bs
    poison := if bs.length = 64 then s1.poison.filter (· != ln) else s1.poison }

/-- Bytes cut at line boundaries: line, offset and bytes of each piece. -/
def linePieces : Nat → Nat → List Byte → List (Nat × Nat × List Byte)
  | 0, _, _ => []
  | f + 1, a, bs =>
    if bs = [] then []
    else
      let n := 64 - a % 64
      (lineOf a, a % 64, bs.take n) :: linePieces f (a + n) (bs.drop n)

def hbmWrite (s : State) (k a : Nat) (bs : List Byte) : State :=
  (linePieces (bs.length / 64 + 2) a bs).foldl (fun t p => hbmWriteLine t k p.1 p.2.1 p.2.2) s

/-- A line about to be written in part under no key: what a read of it would have returned is stored, and its mark goes. -/
def unmarkLine (s : State) (ln : Nat) : State :=
  { s with mem := cellsWrite s.mem (64 * ln) (hbmRead s 0 (64 * ln) 64), marks := s.marks.filter fun e => e.1 != ln }

/-- Bytes put into a vault by the load engine or an admission, under no key: the marks of the lines go, and the poison of
those that are written whole (R202, R274). -/
def rawWrite (s : State) (a : Nat) (bs : List Byte) : State :=
  let meets (ln : Nat) : Bool := 64 * ln < a + bs.length && a < 64 * ln + 64
  let whole (ln : Nat) : Bool := a ≤ 64 * ln && 64 * ln + 64 ≤ a + bs.length
  let t := ([lineOf a, lineOf (a + bs.length - 1)].filter fun ln => meets ln && !whole ln).foldl unmarkLine s
  { t with
    mem := cellsWrite t.mem a bs
    marks := t.marks.filter fun e => !meets e.1
    poison := t.poison.filter fun ln => !whole ln }

/-- The address of a pool byte in the pool memory: the region's port and HPA, and the offset (R207). -/
def poolAddr (s : State) (a : Nat) : Nat :=
  let r := getRegion s ((a - Config.poolBase) / 2 ^ 30)
  r.port.toNat * 2 ^ 52 + r.hpa.toNat * 2 ^ 30 + a % 2 ^ 30

/-- A dirty pool line of any RDC of the device; the pool agent keeps one holder (R205). -/
def rdcFind (s : State) (ln : Nat) : Option RdcLine :=
  (s.dies.flatMap fun d => d.rdc).find? fun x => x.addr == ln

def poolByte (s : State) (a : Nat) : Byte :=
  match rdcFind s (lineOf a) with
  | some x => BitVec.ofNat 8 (x.data.toNat >>> (8 * (a % 64)))
  | none => cellGet s.pool (poolAddr s a)

def modDie (s : State) (d : Nat) (f : DieState → DieState) : State := { s with dies := s.dies.modify d f }

/-- A dirty line written back to the pool memory. -/
def rdcFlushLine (s : State) (x : RdcLine) : State :=
  { s with
    pool := match physKind (64 * x.addr) with
      | .pool _ => cellsWrite s.pool (poolAddr s (64 * x.addr)) (leBytes x.data.toNat 64)
      | _ => s.pool
    dies := s.dies.map fun d => { d with rdc := d.rdc.filter fun y => y.addr != x.addr } }

/-- A line of the span is poisoned (R274). -/
def poisoned (s : State) (a n : Nat) : Bool := s.poison.any fun ln => ln * 64 < a + n && a < ln * 64 + 64

/-- A page address and its offset. -/
def pageOf (a : Nat) : Nat := a / 2 ^ 16 * 2 ^ 16

end Sys2Proof.Machine
end

