-- ==== Sys2Proof/Machine/Cache.lean ====
section
/-! DEFINITION. What the caches hold, the residency tables they feed, and a write at a physical address with the copies it
takes and the watchpoints it fires (R10, R13, R19, R130 to R132, R178, R179, R191, R196 to R199, R205, R209, R223). The L1,
L2 and constant cache are kept as lines present: their bytes are those of the line's home. A full cache replaces by the
hints of R197, within sets that are free (DESIGN CHOICE, log entry 14). -/

namespace Sys2Proof.Machine

/-! The weight vault (R201, R393) -/

/-- The physical address of a vault offset, if its n bytes lie in the named die's vault. -/
def vaultPhys (s : State) (off : Word) (n : Nat) : Option Nat :=
  if off.extractLsb' 39 25 ≠ 0 then none
  else
    let d := (off.extractLsb' 37 2).toNat
    let o := (off.extractLsb' 0 37).toNat
    if o + n ≤ (getDie s d).vaultSize * 2 ^ 29 then some (vaultBase s d + o) else none

/-- The vault offset of a physical address in a vault. -/
def vaultOff (s : State) (a : Nat) : Nat :=
  match physKind a with
  | .hbm d => d * 2 ^ 37 + (a - vaultBase s d)
  | _ => 0

/-! Tables (R178, R179) -/

/-- A 4 KiB granule as the tables name it: PUB granules by vault offset, the others by virtual address. -/
def pubGranule (off : Nat) : Nat := 2 ^ 60 + off / 4096
def ownGranule (va : Nat) : Nat := va % 2 ^ 55 / 4096

/-- The entry key of a granule: PUB, POLDER and TAG (R178). -/
structure ResKey where
  pub    : Bool
  polder : BitVec 4
  tag    : BitVec 39
  deriving DecidableEq, Repr

def resKey (p : BitVec 4) (g : Nat) : ResKey :=
  if 2 ^ 60 ≤ g then { pub := true, polder := 0, tag := BitVec.ofNat 39 ((g - 2 ^ 60) / 16) }
  else { pub := false, polder := p, tag := BitVec.ofNat 39 (g / 16) }

def resBit (g : Nat) : BitVec 16 := 1#16 <<< (g % 16)

def resWord (k : ResKey) (pin : Bool) (mask : BitVec 16) : Word :=
  (1#1 ++ BitVec.ofBool pin ++ BitVec.ofBool k.pub ++ k.polder ++ 0#2 ++ mask ++ k.tag).cast (by decide)

def resMask (w : Word) : BitVec 16 := w.extractLsb' 39 16
def resPin (w : Word) : Bool := w.getLsbD 62
def resKeyOf (w : Word) : ResKey :=
  { pub := w.getLsbD 61, polder := w.extractLsb' 57 4, tag := w.extractLsb' 0 39 }

/-- The index that a new entry of a set takes: an invalid way, else the unpinned way updated least recently. -/
def resAlloc (t : ResTable) (set : Nat) : Option Nat :=
  match (List.range 8).find? fun w => !t.any fun e => e.1 == 8 * set + w with
  | some w => some (8 * set + w)
  | none => ((t.filter fun e => e.1 / 8 == set && !resPin e.2).getLast?).map Prod.fst

/-- A granule's bit set in a table of the given number of sets. Setting moves an entry to the front; clearing moves none
(R179; DESIGN CHOICE, log entry 96). -/
def resSet (sets : Nat) (pin : Bool) (p : BitVec 4) (g : Nat) (t : ResTable) : ResTable :=
  let k := resKey p g
  match t.find? fun e => resKeyOf e.2 == k with
  | some e => (e.1, e.2 ||| ((resBit g).setWidth 64 <<< 39)) :: t.filter fun x => x.1 != e.1
  | none =>
    match resAlloc t (k.tag.toNat % sets) with
    | none => t
    | some i => (i, resWord k (pin && k.pub) (resBit g)) :: t.filter fun x => x.1 != i

/-- A granule of the vault belongs to a tensor version loaded with the pin flag (R178). -/
def pinnedGranule (s : State) (g : Nat) : Bool :=
  2 ^ 60 ≤ g && s.versions.any fun v =>
    v.pin && v.home == (g - 2 ^ 60) * 4096 / 2 ^ 37
      && v.page * 65536 ≤ (g - 2 ^ 60) * 4096 % 2 ^ 37 && (g - 2 ^ 60) * 4096 % 2 ^ 37 < (v.page + v.pages) * 65536

/-! Hints (R94, R197) -/

/-- The hint makes the line that it reaches the most recently used: normal and keep do. -/
def hintNew (hint : BitVec 2) : Bool := hint == 0 || hint == 2

/-- A line of a cache, most recently used first: a line that is not held comes in first, or last for stream and no-allocate;
a held one moves to the front for normal and keep, and keep marks it. -/
def useCache (hint : BitVec 2) (x : CacheLine) (l : List CacheLine) : List CacheLine :=
  match l.find? fun y => y.line == x.line with
  | some y => if hintNew hint then { y with keep := y.keep || hint == 2 } :: l.filter fun z => z.line != x.line else l
  | none => if hintNew hint then { x with keep := hint == 2 } :: l else l ++ [{ x with keep := false }]

/-- The same order kept beside the lines of an RDC. -/
def useOrder (hint : BitVec 2) (held : Bool) (ln : Nat) (l : List (Nat × Bool)) : List (Nat × Bool) :=
  match l.find? fun y => held && y.1 == ln with
  | some y => if hintNew hint then (ln, y.2 || hint == 2) :: l.filter fun z => z.1 != ln else l
  | none =>
    let l := l.filter fun z => z.1 != ln
    if hintNew hint then (ln, hint == 2) :: l else l ++ [(ln, false)]

/-- The line that leaves a full cache for a new one: the least recently used of its set that is not marked keep; then the
least recently used that is (R197). The sets are free. -/
def replaced (cache ln : Nat) (l : List (Nat × Bool)) : Option Nat :=
  let mine := l.filter fun x => Config.cacheSet cache x.1 == Config.cacheSet cache ln
  let set := if mine = [] then l else mine
  (((set.filter fun x => !x.2).getLast?).or set.getLast?).map Prod.fst

/-! L1, L2 and the constant cache -/

/-- The L2 of a die drops a line, and with it every RDC copy of it (R199). -/
def l2Drop (s : State) (d ln : Nat) : State :=
  { s with dies := (s.dies.modify d fun x => { x with l2 := x.l2.filter fun y => y.line != ln }).map fun x =>
      { x with rdcRemote := x.rdcRemote.filter (· != ln) } }

/-- Room in the slice of a line: a full slice loses a line. -/
def l2Room (s : State) (d ln : Nat) : State :=
  let mine := (getDie s d).l2.filter fun x => sliceOf (64 * x.line) == sliceOf (64 * ln)
  if mine.length < Config.sliceLines then s
  else ((replaced 1 ln (mine.map fun x => (x.line, x.keep))).map (l2Drop s d)).getD s

/-- A line of HBM filled into the L2 of its home die, or used there, on behalf of a polder under a hint, for one of its
granules or for none, whose bit the die's summary sets (R179, R197, R198). -/
def l2Fill (s : State) (hint : BitVec 2) (p : BitVec 4) (g : Option Nat) (ln : Nat) : State :=
  match physKind (64 * ln) with
  | .hbm d =>
    let new : CacheLine := { line := ln, polder := p, gran := g, dirty := false }
    if (getDie s d).l2.any fun x => x.line == ln then modDie s d fun x => { x with l2 := useCache hint new x.l2 }
    else
      modDie (l2Room s d ln) d fun x => { x with
        l2 := useCache hint new x.l2
        summary := match g with
          | some g => resSet 512 (pinnedGranule s g) p g x.summary
          | none => x.summary }
  | _ => s

/-- A write performed at the home L2: the line is held there dirty, and every RDC copy but the writer's goes (R191, R199). -/
def l2Write (s : State) (die ln : Nat) : State :=
  match physKind (64 * ln) with
  | .hbm d =>
    let s1 := if (getDie s d).l2.any fun x => x.line == ln then s else l2Fill s 0 0 none ln
    { s1 with dies := (s1.dies.modify d fun x => { x with
        l2 := x.l2.map fun y => if y.line = ln then { y with dirty := true } else y }).mapIdx fun i x =>
          if i = die then x else { x with rdcRemote := x.rdcRemote.filter (· != ln) } }
  | _ => s

/-- A held line of the L1 of a core used under a hint (R191, R197). -/
def l1Use (s : State) (core : Nat) (hint : BitVec 2) (ln : Nat) : State :=
  match (getCore s core).l1.find? fun x => x.line == ln with
  | none => s
  | some x => { s with cores := s.cores.modify core fun k => { k with l1 := useCache hint x k.l1 } }

/-- A line filled under a hint into the L1 of a core whose L1 has room for n lines, or used there: HBM and the pool only
(R191, R196, R197). -/
def l1Fill (s : State) (core n : Nat) (hint : BitVec 2) (p : BitVec 4) (g : Option Nat) (ln : Nat) : State :=
  let held := (getCore s core).l1
  let ok := match physKind (64 * ln) with | .hbm _ | .pool _ => true | _ => false
  if held.any fun x => x.line == ln then l1Use s core hint ln
  else if !ok || n = 0 then s
  else
    let x : CacheLine := { line := ln, polder := p, gran := g, dirty := false }
    let room (l : List CacheLine) : List CacheLine :=
      if l.length < n then l
      else
        match replaced 0 ln (l.map fun y => (y.line, y.keep)) with
        | some v => (l.filter fun y => y.line != v).take (n - 1)
        | none => l.take (n - 1)
    { s with cores := s.cores.modify core fun k => { k with l1 := useCache hint x (room k.l1) } }

/-- An acquire at cluster scope or wider, or a command that names lines, drops the L1 lines of a core that a test names,
except vault lines where keep is set (R196, R346). -/
def l1Drop (s : State) (core : Nat) (keep : Bool) (f : Nat → Bool) : State :=
  { s with cores := s.cores.modify core fun k =>
      { k with l1 := k.l1.filter fun x => !f x.line || (keep && inVault s (64 * x.line)) } }

/-- A line filled into the constant cache of a core, a line of the fabric window never (R100, R191, R304). -/
def constFill (s : State) (core ln : Nat) : State :=
  let held := (getCore s core).consts
  if held.contains ln || physKind (64 * ln) == .fabric then s
  else if held.length < Config.constLines then
    { s with cores := s.cores.modify core fun k => { k with consts := ln :: k.consts } }
  else
    { s with
      freeCtr := s.freeCtr + 1
      cores := s.cores.modify core fun k =>
        { k with consts := ln :: k.consts.eraseIdx (Config.victim s.freeCtr % k.consts.length) } }

/-! The remote-data caches (R199, R205) -/

def rdcCount (x : DieState) : Nat := x.rdc.length + x.rdcClean.length + x.rdcRemote.length

/-- The lines of an RDC. -/
def rdcLinesOf (x : DieState) : List Nat := x.rdc.map (fun y => y.addr) ++ x.rdcClean ++ x.rdcRemote

/-- The lines of an RDC in their order of use; one that no hint has reached counts as used least recently. -/
def rdcByUse (x : DieState) : List (Nat × Bool) :=
  let held := rdcLinesOf x
  let known := x.rdcOrder.filter fun y => held.contains y.1
  known ++ (held.filter fun ln => !known.any fun y => y.1 == ln).map fun ln => (ln, false)

/-- Room for one line in the RDC of a die: a full one loses a line, written back first when it is dirty. -/
def rdcRoom (s : State) (d ln : Nat) : State :=
  let x := getDie s d
  if rdcCount x < Config.rdcLines then s
  else
    match replaced 2 ln (rdcByUse x) with
    | none => s
    | some v =>
      let t := match x.rdc.find? fun y => y.addr == v with | some y => rdcFlushLine s y | none => s
      modDie t d fun x =>
        { x with rdcClean := x.rdcClean.filter (· != v), rdcRemote := x.rdcRemote.filter (· != v)
                 rdcOrder := x.rdcOrder.filter fun y => y.1 != v }

/-- A line of the RDC of a die used under a hint (R197). -/
def rdcUse (s : State) (d : Nat) (hint : BitVec 2) (ln : Nat) : State :=
  modDie s d fun x => { x with rdcOrder := useOrder hint ((rdcLinesOf x).contains ln) ln x.rdcOrder }

/-- The dirty data of a pool line is taken for a reader: written back, and kept clean where it was (R205, log entry 14). -/
def poolShare (s : State) (ln : Nat) : State :=
  match rdcFind s ln with
  | none => s
  | some x =>
    let was := s.dies.map fun d => d.rdc.any fun y => y.addr == ln
    let t := rdcFlushLine s x
    { t with dies := t.dies.mapIdx fun i d => if was.getD i false then { d with rdcClean := ln :: d.rdcClean } else d }

/-- A pool line that a read brings into the RDC of a die, once another die's dirty data is taken (R205). -/
def rdcReadPool (s : State) (d ln : Nat) : State :=
  if (getDie s d).rdc.any (fun y => y.addr == ln) || (getDie s d).rdcClean.contains ln then s
  else modDie (rdcRoom (poolShare s ln) d ln) d fun x => { x with rdcClean := ln :: x.rdcClean }

/-- A copy of a remote HBM line in the RDC of a die (R199). -/
def rdcReadRemote (s : State) (d ln : Nat) : State :=
  if (getDie s d).rdcRemote.contains ln then s
  else modDie (rdcRoom s d ln) d fun x => { x with rdcRemote := ln :: x.rdcRemote }

/-- A line read by an agent of a die under a hint: the L2 of its home, and the RDC of the reading die (R197 to R199, R205).
An agent of the I/O die (4) has no RDC. -/
def fillLine (s : State) (die : Nat) (hint : BitVec 2) (p : BitVec 4) (g : Option Nat) (ln : Nat) : State :=
  match physKind (64 * ln) with
  | .hbm d =>
    let s1 := l2Fill s hint p g ln
    if die < 4 ∧ die ≠ d then rdcUse (rdcReadRemote s1 die ln) die hint ln else s1
  | .pool _ => if die < 4 then rdcUse (rdcReadPool s die ln) die hint ln else s
  | _ => s

/-- The bits of a summary whose lines have all left the die's L2 clear (R179). -/
def refreshSummary (d : DieState) : DieState :=
  { d with summary := d.summary.filterMap fun e =>
      let held := d.l2.foldl (fun m x =>
        match x.gran with
        | some g => if resKey x.polder g == resKeyOf e.2 then m ||| resBit g else m
        | none => m) (0 : BitVec 16)
      let mask := resMask e.2 &&& held
      if mask = 0 then none else some (e.1, resWord (resKeyOf e.2) (resPin e.2) mask) }

/-! Writes -/

/-- Writers of a line with one more, a transfer not among them; a sequencer of a task is named once, by its oldest write
(R209, R434). -/
def addWriter (l : List Writer) : Option Writer → List Writer
  | none => l
  | some w => if w.moves || l.any fun x => x.task == w.task && x.seq == w.seq then l else l ++ [w]

/-- Every die's copy of a pool line goes. -/
def poolTake (s : State) (ln : Nat) : State :=
  { s with dies := s.dies.map fun x =>
      { x with rdc := x.rdc.filter fun y => y.addr != ln, rdcClean := x.rdcClean.filter (· != ln) } }

/-- A pool line obtained exclusive by a die for an atomic: the other dies' copies go, dirty data of theirs to the pool, and
the die holds it clean or still dirty (R205, R206). -/
def poolOwn (s : State) (d ln : Nat) : State :=
  if 4 ≤ d ∨ (getDie s d).rdc.any (fun y => y.addr == ln) then s
  else
    let t := poolTake (match rdcFind s ln with | some x => rdcFlushLine s x | none => s) ln
    modDie (rdcRoom t d ln) d fun x => { x with rdcClean := ln :: x.rdcClean }

/-- Pool bytes written within one line, in the RDC of the writer's die: the other dies' copies are taken and the line is
held there exclusive and dirty (R205). A dirty line stays until a release, a snoop, a close or a full RDC writes it back
(DESIGN CHOICE, log entry 14). An agent of the I/O die (4) has no RDC and writes the pool itself. -/
def poolWriteLine (s : State) (d ln off : Nat) (bs : List Byte) (w : Option Writer) : State :=
  let old := leBytes (leNat ((List.range 64).map fun i => poolByte s (64 * ln + i))) 64
  let new := (old.take off ++ bs ++ old.drop (off + bs.length)).take 64
  let ws := ((rdcFind s ln).map fun x => x.writers).getD []
  let s1 := poolTake s ln
  if d < 4 then
    modDie (rdcRoom s1 d ln) d fun x =>
      { x with rdc := { addr := ln, data := BitVec.ofNat 512 (leNat new), writers := addWriter ws w } :: x.rdc }
  else { s1 with pool := cellsWrite s1.pool (poolAddr s (64 * ln)) new }

def poolWrite (s : State) (d a : Nat) (bs : List Byte) (w : Option Writer) : State :=
  (linePieces (bs.length / 64 + 2) a bs).foldl (fun t p => poolWriteLine t d p.1 p.2.1 p.2.2 w) s

/-- A byte at a physical address, read under a key slot. -/
def physByte (s : State) (k a : Nat) : Byte :=
  match physKind a with
  | .hbm _ => hbmByte s k a
  | .pool _ => poolByte s a
  | _ => cellGet s.mem a

def physRead (s : State) (k a : Nat) : Nat → List Byte
  | 0 => []
  | n + 1 => physByte s k a :: physRead s k (a + 1) n

/-- The aligned 8-byte words of a watchpoint's pieces that a write of n bytes at physical address a touched. -/
def touchedWords (w : Watch) (a n : Nat) : List Nat :=
  w.pieces.flatMap fun p =>
    (List.range (p.2.1 / 8)).filterMap fun i =>
      let x := p.1 + 8 * i
      if x < a + n ∧ a < x + 8 then some x else none

/-- A watchpoint matches a write performed at its home slice (R130). -/
def watchHits (s : State) (k : Nat) (w : Watch) (a n : Nat) : Bool :=
  (touchedWords w a n).any fun x =>
    (BitVec.ofNat 64 (leNat (hbmRead s k x 8)) &&& w.mask) == (w.value &&& w.mask)

/-- The identifier of a watchpoint: its lowest-numbered register (R129). -/
def wpIdOf (w : Watch) : Nat :=
  (w.regs.map fun r => 256 * r.1 + r.2).foldl (fun m x => if x < m then x else m) 1024

/-- The reductions of a sequencer that wait for credits, by their places in the order of issue (R307). -/
def Seq.owed (x : Seq) : List Nat := x.ops.filterMap fun o => match o.kind with | .credit .. => some o.age | _ => none

/-- What the sys release of a write's context still waits for at the write: its side-log entries, its writes that the
fabric has not acknowledged, and its earlier reductions that wait for credits (R223, R228, R307). -/
def pendingOf (s : State) (w : Option Writer) : List (Nat × Nat) × List Word × List (CtxId × Seqr × Nat) :=
  match w with
  | none => ([], [], [])
  | some w =>
    match s.ctxs.find? fun c => c.task == some w.task with
    | none => ([], [], [])
    | some c =>
      (((getCore s c.id.core).side.filter fun e => e.slot == c.id.slot).map fun e => (c.id.core, e.id),
        (s.fabReqs.filter fun r => r.ctx == c.id && !r.isRead).map fun r => r.rtag,
        [(Seqr.X, c.x), (.L, c.l), (.C, c.c), (.S, c.s)].flatMap fun q => (q.2.owed.filter (· < w.age)).map fun k => (c.id, q.1, k))

/-- Fires made by a write of n bytes: a one-shot watchpoint is removed, a re-arm watchpoint with a held fire counts
(R130, R132). -/
def watchStep (s : State) (k a n : Nat) (x : Option Writer) : List Watch → List Watch × List Fire
  | [] => ([], [])
  | w :: l =>
    let r := watchStep s k a n x l
    if watchHits s k w a n then
      if w.heldFire then ({ w with counted := w.counted + 1 } :: r.1, r.2)
      else
        (if w.rearm then w :: r.1 else r.1,
          { polder := w.polder, asid := w.asid, wpid := wpIdOf w, serial := w.serial, side := (pendingOf s x).1
            acks := (pendingOf s x).2.1, reds := (pendingOf s x).2.2, rcd := w.rcd, compl := w.compl, rearm := w.rearm } :: r.2)
    else (w :: r.1, r.2)

/-- Order of fires of one write: ascending die and index (R110). -/
def insertFire (f : Fire) : List Fire → List Fire
  | [] => [f]
  | g :: l => if f.wpid < g.wpid then f :: g :: l else g :: insertFire f l

def testWatches (s : State) (k a n : Nat) (x : Option Writer) : State :=
  let r := watchStep s k a n x s.watches
  { s with watches := r.1, fires := s.fires ++ r.2.foldr insertFire [] }

/-- Lines of host memory or the pool that a write covers whole are no longer poisoned (R274). -/
def cleanLines (s : State) (a n : Nat) : State :=
  { s with poison := s.poison.filter fun ln => !(a ≤ ln * 64 && ln * 64 + 64 ≤ a + n) }

/-- Bytes written at a physical address under a key slot, by an agent of die d, and the watchpoints tested: one write for
each call, that is for each translated piece of an access (at most 4 KiB) and each line of a commit copy (DESIGN CHOICE, log
entry 74). Host memory is written by a PCIe request (R203). -/
def physWrite (s : State) (d k a : Nat) (bs : List Byte) (w : Option Writer := none) : State :=
  match physKind a with
  | .hbm _ =>
    testWatches (((linePieces (bs.length / 64 + 2) a bs).map Prod.fst).foldl (fun t ln => l2Write t d ln) (hbmWrite s k a bs))
      k a bs.length w
  | .pool _ => cleanLines (poolWrite s d a bs w) a bs.length
  | _ => cleanLines { s with mem := cellsWrite s.mem a bs } a bs.length

end Sys2Proof.Machine
end

