-- ==== Sys2Proof/Machine/Translate.lean ====
section
/-! DEFINITION. Address translation: the TLBs and walk caches, the two stages, their faults, permission, heat, and the
checks of an access in the order of R233 (R189, R190, R202, R209, R232 to R247, R275, R294, R298). The checks are a function
of the state; what an access leaves in the TLBs, the caches and the heat fields is noted after them. -/

namespace Sys2Proof.Machine

/-- Kinds of access as SYS.FLTQ codes them (R246). -/
inductive Acc where
  | read | write | atomic | fetch | xferRead | xferWrite
  deriving DecidableEq, Repr

def accCode : Acc → BitVec 3
  | .read => 0 | .write => 1 | .atomic => 2 | .fetch => 3 | .xferRead => 4 | .xferWrite => 5

def accReads : Acc → Bool
  | .read | .atomic | .fetch | .xferRead => true
  | _ => false

def accWrites : Acc → Bool
  | .write | .atomic | .xferWrite => true
  | _ => false

/-- The address check of R232. -/
def canonical (a : Nat) : Bool := a % 2 ^ 64 / 2 ^ 54 == 0 || a % 2 ^ 64 / 2 ^ 54 == 1023

def spanOk (a n : Nat) : Bool :=
  canonical a && a + n - 1 < 2 ^ 64 && canonical (a + n - 1) && a / 2 ^ 54 % 2 == (a + n - 1) / 2 ^ 54 % 2

/-- The fields of a table entry (R238). -/
structure Pte where
  raw : BitVec 64
  deriving DecidableEq, Repr

def Pte.type (e : Pte) : Nat := (e.raw.extractLsb' 0 2).toNat
def Pte.oa (e : Pte) : Nat := (e.raw.extractLsb' 16 36).toNat * 2 ^ 16
def Pte.key (e : Pte) : Nat := (e.raw.extractLsb' 11 5).toNat
def Pte.migr (e : Pte) : Bool := e.raw.getLsbD 10
def Pte.task (e : Pte) : Bool := e.raw.getLsbD 5
def Pte.x (e : Pte) : Bool := e.raw.getLsbD 4
def Pte.w (e : Pte) : Bool := e.raw.getLsbD 3
def Pte.rd (e : Pte) : Bool := e.raw.getLsbD 2

/-- An entry is malformed at its level (R238). -/
def Pte.malformed (e : Pte) (stage2 : Bool) (level : Nat) : Bool :=
  e.type == 3 || e.raw.extractLsb' 52 12 != 0
    || (e.type == 1 && (level == 3 || (level == 2 && e.raw.extractLsb' 16 13 != 0)
        || (!stage2 && e.key != 0) || (stage2 && e.task)))
    || (e.type == 2 && (level == 1 || e.key != 0 || e.task))

def isHbm (s : State) (a : Nat) : Bool :=
  match physKind a with
  | .hbm d => (getDie s d).present
  | _ => false

def readPte (s : State) (key pa : Nat) : Pte := { raw := BitVec.ofNat 64 (leNat (hbmRead s key pa 8)) }

/-- The index bits of a level (R237). -/
def tableIndex (a level : Nat) : Nat := a / 2 ^ (16 + 13 * (level - 1)) % 8192

/-- A leaf at a level maps the offset bits below it (R237). -/
def leafAddr (e : Pte) (a level : Nat) : Nat := e.oa + a % 2 ^ (16 + 13 * (level - 1))

/-- The die, or the I/O die (4), that an address is reached through (R12). -/
def farDie (a : Nat) : Nat :=
  match physKind a with
  | .hbm d => d
  | _ => 4

def linkUp (s : State) (d e : Nat) : Bool := d == e || !(s.linksDown.contains (d, e) || s.linksDown.contains (e, d))

/-- The pages that accepted copies hold (R301). -/
def heldPages (s : State) : List Nat :=
  s.ctxs.flatMap fun c => c.xfers.flatMap fun x =>
    match x.kind with
    | .scopy _ _ _ _ _ _ (some _) spans _ => spans.1.map fun d => d.pa / 2 ^ 16
    | _ => []

def pageHeld (s : State) (a : Nat) : Bool := (heldPages s).contains (a / 2 ^ 16)

/-- A page of a physical span is held. -/
def spanHeld (s : State) (a n : Nat) : Bool := (heldPages s).any fun p => p * 2 ^ 16 < a + n && a < (p + 1) * 2 ^ 16

/-- A walk that stopped: stage, level and kind (R244); a kind from 8 to 255 is the cause of a trap, for a table that cannot
be read: 0x12 where its line is poisoned or a die link is down, 0x0B under a key slot that is not the polder's (R274, R275,
R298); walkHeld is a table in a page that a SCOPY holds, for which the walk waits (R301, R376). -/
structure WalkStop where
  stage2 : Bool
  level  : Nat
  kind   : Nat
  /-- the guest-physical page, for stage 2 -/
  gpa    : Nat
  deriving DecidableEq, Repr

def walkHeld : Nat := 256

/-- Where a stage-2 translation leads. size is what its leaf maps, and walks what was read of the tables. -/
structure S2 where
  pa   : Nat
  key  : Nat
  rd   : Bool
  w    : Bool
  x    : Bool
  migr : Bool
  size : Nat
  leaf : Option LeafRef
  walks : List WalkEntry
  deriving DecidableEq, Repr

/-- Bytes that one entry of a level covers (R237). -/
def levelSize (lvl : Nat) : Nat := 2 ^ (16 + 13 * (lvl - 1))

/-- What an identity map covers: more than any page. -/
def wholeSize : Nat := 2 ^ 60

/-- Where the walk cache of a die says that a table entry leads (R241). -/
def walkFind (s : State) (die : Nat) (st2 : Bool) (space lvl input : Nat) : Option Nat :=
  if die < 4 then
    ((getDie s die).walks.find? fun e =>
      e.stage2 == st2 && e.space == space && e.level == lvl && e.input == input / levelSize lvl).map fun e => e.table
  else none

/-- A table line that cannot be read: poisoned, or behind a die link that is down (R274, R275). -/
def tableLost (s : State) (die a : Nat) : Bool := poisoned s a 8 || !linkUp s die (farDie a)

/-- Stage-2 levels from a table down, for a walker of a die; wr: the access writes, so a MIGR leaf faults (R247). Tables
of stage 2 are read under key slot 0 (DEDUCED, log entry 7). A table address outside HBM is of the entry that holds it
(R240). -/
def walk2 (s : State) (die : Nat) (p : BitVec 4) (wr : Bool) (gpa : Nat) : Nat → Nat → Except WalkStop S2
  | 0, _ => .error { stage2 := true, level := 1, kind := 1, gpa := pageOf gpa }
  | l + 1, table =>
    let lvl := l + 1
    let stop (k : Nat) : Except WalkStop S2 := .error { stage2 := true, level := lvl, kind := k, gpa := pageOf gpa }
    match walkFind s die true p.toNat lvl gpa with
    | some t => walk2 s die p wr gpa l t
    | none =>
      let ea := table + 8 * tableIndex gpa lvl
      let e := readPte s 0 ea
      if pageHeld s ea then stop walkHeld
      else if tableLost s die ea then stop 0x12
      else if e.type = 0 then stop 0
      else if e.malformed true lvl then stop 1
      else if e.type = 1 then
        if wr && e.migr then stop 3
        else
          .ok { pa := leafAddr e gpa lvl, key := e.key, rd := e.rd, w := e.w, x := e.x, migr := e.migr
                size := levelSize lvl, leaf := some { pa := ea, key := 0, oa := e.oa }, walks := [] }
      else if isHbm s e.oa then
        match walk2 s die p wr gpa l e.oa with
        | .error x => .error x
        | .ok r =>
          .ok { r with walks :=
            { stage2 := true, space := p.toNat, level := lvl, input := gpa / levelSize lvl, table := e.oa, polder := p }
              :: r.walks }
      else stop 2

/-- Stage 2 of a polder (R235, R237). -/
def stage2 (s : State) (die : Nat) (p : BitVec 4) (wr : Bool) (gpa : Nat) : Except WalkStop S2 :=
  let q := getPolder s p
  let stop (k : Nat) : Except WalkStop S2 := .error { stage2 := true, level := 3, kind := k, gpa := pageOf gpa }
  if !q.s2en then
    if p = 0 then
      .ok { pa := gpa, key := 0, rd := true, w := true, x := true, migr := false, size := wholeSize, leaf := none, walks := [] }
    else stop 0
  else if 2 ^ 52 ≤ gpa then stop 1
  else if isHbm s (q.s2root.toNat * 2 ^ 16) then walk2 s die p wr gpa 3 (q.s2root.toNat * 2 ^ 16)
  else stop 2

/-- Where a stage-1 translation leads. -/
structure S1 where
  gpa  : Nat
  rd   : Bool
  w    : Bool
  x    : Bool
  task : Bool
  migr : Bool
  size : Nat
  leaf : Option LeafRef
  walks : List WalkEntry
  deriving DecidableEq, Repr

/-- The polder holds a key slot (R298); a disabled stage 2 names slot 0 and asks nothing. -/
def keyOwned (s : State) (p : BitVec 4) (leaf : Option LeafRef) (key : Nat) : Bool :=
  leaf.isNone || (getPolder s p).keys.getLsbD key

/-- Stage-1 levels from a table's guest-physical address down. Each table address goes through stage 2 (R240); one that
leads outside HBM is of the entry that holds it, the root's of level 3. -/
def walk1 (s : State) (die : Nat) (a : BitVec 9) (p : BitVec 4) (wr : Bool) (va : Nat) : Nat → Nat → Except WalkStop S1
  | 0, _ => .error { stage2 := false, level := 1, kind := 1, gpa := 0 }
  | l + 1, table =>
    let lvl := l + 1
    let stop (k : Nat) : Except WalkStop S1 := .error { stage2 := false, level := lvl, kind := k, gpa := 0 }
    match walkFind s die false a.toNat lvl va with
    | some t => walk1 s die a p wr va l t
    | none =>
      match stage2 s die p false (table + 8 * tableIndex va lvl) with
      | .error e => .error e
      | .ok t =>
        if !isHbm s t.pa then .error { stage2 := false, level := min 3 (lvl + 1), kind := 2, gpa := 0 }
        else if !keyOwned s p t.leaf t.key then stop 0x0B
        else if pageHeld s t.pa then stop walkHeld
        else if tableLost s die t.pa then stop 0x12
        else
          let e := readPte s t.key t.pa
          if e.type = 0 then stop 0
          else if e.malformed false lvl then stop 1
          else if e.type = 1 then
            if wr && e.migr then stop 3
            else
              .ok { gpa := leafAddr e va lvl, rd := e.rd, w := e.w, x := e.x, task := e.task, migr := e.migr
                    size := levelSize lvl, leaf := some { pa := t.pa, key := t.key, oa := e.oa }, walks := t.walks }
          else
            match walk1 s die a p wr va l e.oa with
            | .error x => .error x
            | .ok r =>
              .ok { r with walks :=
                { stage2 := false, space := a.toNat, level := lvl, input := va / levelSize lvl, table := e.oa, polder := p }
                  :: t.walks ++ r.walks }

/-- The owner of an identifier; identifier 0 is polder 0's from reset (R236). -/
def asidPolder (s : State) (a : BitVec 9) : BitVec 4 := (getAsid s a).polder

/-- Stage 1 of an identifier (R236, R240). -/
def stage1 (s : State) (die : Nat) (a : BitVec 9) (wr : Bool) (va : Nat) : Except WalkStop S1 :=
  let e := getAsid s a
  if e.valid then walk1 s die a e.polder wr (va % 2 ^ 55) 3 (e.root.toNat * 2 ^ 16)
  else if a = 0 ∧ va < 2 ^ 52 then
    .ok { gpa := va, rd := true, w := true, x := true, task := true, migr := false, size := wholeSize, leaf := none
          walks := [] }
  else .error { stage2 := false, level := 3, kind := 0, gpa := 0 }

/-- What the checks of R233 say of an access. -/
inductive Checked where
  | ok (segs : List Seg)
  | trap (cause : Nat) (va : Nat)
  | fault (info : FaultInfo)
  /-- a renamed granule whose fill has not completed (R117) -/
  | fill (r : FillRef)
  /-- a page that a SCOPY holds (R301) -/
  | held
  deriving DecidableEq, Repr

/-- The pieces of a span, cut at 4 KiB granules. -/
def granules : Nat → Nat → Nat → List (Nat × Nat)
  | 0, _, _ => []
  | f + 1, a, n =>
    if n = 0 then []
    else
      let k := min n (4096 - a % 4096)
      (a, k) :: granules f (a + k) (n - k)

def findLaunch (s : State) (p : BitVec 4) (q : BitVec 48) : Option Launch :=
  (getPolder s p).queue.find? fun l => l.seq == q

/-- The rename buffer of a granule for an agent's launch (R117). -/
def renameOf (s : State) (g : Agent) (va : Nat) : Option Rename :=
  match g.launch with
  | none => none
  | some (p, q) =>
    match findLaunch s p q with
    | none => none
    | some l => l.renames.find? fun r => r.granule == va / 4096

/-- The TLB entry that an access finds: in its core's TLB, else in its die's. An entry installed through a MIGR leaf serves
no write (R241, R247). -/
def tlbFind (s : State) (g : Agent) (wr : Bool) (va : Nat) : Option TlbEntry :=
  let hit (e : TlbEntry) : Bool :=
    e.asid == g.asid && e.va ≤ va % 2 ^ 55 && va % 2 ^ 55 < e.va + e.size && !(wr && e.migr)
  match (match g.core with | some c => (getCore s c).tlb.find? hit | none => none) with
  | some e => some e
  | none => if g.die < 4 then (getDie s g.die).tlb2.find? hit else none

/-- What R239 asks of the combined permissions. -/
def permOk (g : Agent) (acc : Acc) (rd w x task : Bool) : Bool :=
  (!accReads acc || acc == .fetch || rd) && (!accWrites acc || w) && (acc != .fetch || x) && (!g.task || task)

/-- The piece of an access that a TLB entry gives. -/
def tlbSeg (g : Agent) (acc : Acc) (va len : Nat) (e : TlbEntry) : Seg :=
  { va := va, pa := e.pa + (va % 2 ^ 55 - e.va), len := len, key := e.key, leaf1 := e.leaf1, leaf2 := e.leaf2, ren := none
    ok := permOk g acc e.rd e.w e.x e.task, tlb := some e, walks := [] }

/-- The entry of a completed walk: one page of the smaller size of its leaves; none for an identity map without any leaf,
which needs no walk. -/
def tlbOf (g : Agent) (p : BitVec 4) (va : Nat) (t1 : S1) (t2 : S2) : Option TlbEntry :=
  if t1.leaf.isNone && t2.leaf.isNone then none
  else
    let size := min t1.size t2.size
    let off := va % 2 ^ 55 % size
    some
      { asid := g.asid, polder := p, va := va % 2 ^ 55 - off, size := size, gpa := t1.gpa - off, pa := t2.pa - off
        key := t2.key, keyed := t2.leaf.isSome, rd := t1.rd && t2.rd, w := t1.w && t2.w, x := t1.x && t2.x
        task := t1.task, migr := t1.migr || t2.migr, leaf1 := t1.leaf, leaf2 := t2.leaf, rdDone := false, wrDone := false }

/-- One granule's translation: the piece, or why it stops (R117, R239, R240). A renamed granule is reached through the
home's stage-1 leaf and the buffer's stage-2 leaf; the home leaf alone gives the permissions, and the home's own stage 2 is
not walked (DESIGN CHOICE, log entry 75). -/
def transOne (s : State) (g : Agent) (acc : Acc) (va len : Nat) : Except Checked Seg :=
  let wr := accWrites acc
  let info (e : WalkStop) : Checked :=
    if e.kind = walkHeld then .held
    else if 8 ≤ e.kind then .trap e.kind (if e.kind = 0x12 then 0 else va)
    else
      .fault { stage2 := e.stage2, polder := g.polder, asid := g.asid
               page := if e.stage2 then e.gpa else pageOf va, va := va
               kind := BitVec.ofNat 3 e.kind, acc := accCode acc, level := BitVec.ofNat 2 e.level }
  match renameOf s g va with
  | some r =>
    match stage1 s g.die g.asid wr va with
    | .error e => .error (info e)
    | .ok t1 =>
      if r.fill ≠ .filled then
        .error (.fill { polder := (g.launch.map Prod.fst).getD 0, seq := (g.launch.map Prod.snd).getD 0, granule := r.granule })
      else
        match stage2 s g.die g.polder wr (r.buf + va % 4096) with
        | .error e => .error (info e)
        | .ok t2 =>
          .ok { va := va, pa := t2.pa, len := len, key := t2.key, leaf1 := t1.leaf, leaf2 := t2.leaf, ren := some r.granule
                ok := permOk g acc t1.rd t1.w t1.x t1.task, tlb := none, walks := t1.walks ++ t2.walks }
  | none =>
    match tlbFind s g wr va with
    | some e => .ok (tlbSeg g acc va len e)
    | none =>
      match stage1 s g.die g.asid wr va with
      | .error e => .error (info e)
      | .ok t1 =>
        match stage2 s g.die (asidPolder s g.asid) wr t1.gpa with
        | .error e => .error (info e)
        | .ok t2 =>
          .ok { va := va, pa := t2.pa, len := len, key := t2.key, leaf1 := t1.leaf, leaf2 := t2.leaf, ren := none
                ok := permOk g acc (t1.rd && t2.rd) (t1.w && t2.w) (t1.x && t2.x) t1.task
                tlb := tlbOf g (asidPolder s g.asid) va t1 t2, walks := t1.walks ++ t2.walks }

def transAll (s : State) (g : Agent) (acc : Acc) : List (Nat × Nat) → Except Checked (List Seg)
  | [] => .ok []
  | (a, n) :: l =>
    match transOne s g acc a n with
    | .error e => .error e
    | .ok x =>
      match transAll s g acc l with
      | .error e => .error e
      | .ok xs => .ok (x :: xs)

/-- The granules' translations up to the first that stops. -/
def transPrefix (s : State) (g : Agent) (acc : Acc) : List (Nat × Nat) → List Seg
  | [] => []
  | (a, n) :: l =>
    match transOne s g acc a n with
    | .error _ => []
    | .ok x => x :: transPrefix s g acc l

/-- Permission of a translated piece: the leaves, a key slot of the polder, and of a vault reading only, a fetch not among
it (R202, R239, R298). A host access of a polder in TDI ERROR is refused too (R294). -/
def segPermitted (s : State) (g : Agent) (acc : Acc) (x : Seg) : Bool :=
  x.ok && keyOwned s (asidPolder s g.asid) x.leaf2 x.key
    && !((accWrites acc || acc == .fetch) && inVault s x.pa)
    && !(physKind x.pa == .host && (getPolder s g.polder).tdi == 3)

/-- The levee of a pool region lets accesses through (R207, R209). -/
def leveeOpen (s : State) (a : Nat) : Bool :=
  match physKind a with
  | .pool n => (getRegion s n).valid && (getRegion s n).levee == .opened
  | _ => true

def firstBad (f : Seg → Bool) : List Seg → Option Nat
  | [] => none
  | x :: l => if f x then firstBad f l else some x.va

/-- The same translation, whatever heat it has counted. -/
def TlbEntry.same (e f : TlbEntry) : Bool := { e with rdDone := false, wrDone := false } == { f with rdDone := false, wrDone := false }

/-- The entry of a translated piece as the TLBs already hold it. -/
def heldEntry (s : State) (g : Agent) (x : Seg) (e : TlbEntry) : Option TlbEntry :=
  (tlbFind s g false x.va).filter fun f => f.same e

/-- The heat that an access sends through a translated piece: of reading and of writing. A walk sends that of its access;
an entry sends each kind once (R242). -/
def heatDue (s : State) (g : Agent) (acc : Acc) (x : Seg) : Bool × Bool :=
  match x.tlb with
  | none => (accReads acc, accWrites acc)
  | some e =>
    let old := heldEntry s g x e
    (accReads acc && !(old.any fun f => f.rdDone), accWrites acc && !(old.any fun f => f.wrDone))

/-- A heat field that an access would write lies in a page that a SCOPY holds (R301, R376). -/
def heatHeld (s : State) (g : Agent) (acc : Acc) (x : Seg) : Bool :=
  ((heatDue s g acc x).1 || (heatDue s g acc x).2) && [x.leaf1, x.leaf2].any fun l => l.any fun r => pageHeld s r.pa

/-- Checks 3 to 6 of R233 over the granules of an access whose address check has passed, and the die link (R275). -/
def checkGranules (s : State) (g : Agent) (acc : Acc) (gs : List (Nat × Nat)) : Checked :=
  if heldPages s != [] && (transPrefix s g acc gs).any (heatHeld s g acc) then .held else
  match transAll s g acc gs with
  | .error e => e
  | .ok segs =>
    match firstBad (segPermitted s g acc) segs with
    | some v => .trap 0x0B v
    | none =>
      match firstBad (fun x => populated s x.pa) segs with
      | some v => .trap 0x08 v
      | none =>
        match firstBad (fun x => leveeOpen s x.pa) segs with
        | some v => .trap 0x0D v
        | none =>
          match firstBad (fun x => linkUp s g.die (farDie x.pa)) segs with
          | some _ => .trap 0x12 0
          | none => if segs.any fun x => pageHeld s x.pa then .held else .ok segs

def checkPages (s : State) (g : Agent) (acc : Acc) (a n : Nat) : Checked :=
  checkGranules s g acc (granules (n / 4096 + 2) a n)

/-- All checks of R233 on one access of n bytes that must be aligned to al. -/
def checkAccess (s : State) (g : Agent) (acc : Acc) (a n al : Nat) : Checked :=
  if !spanOk a n then .trap 0x08 a
  else if a % al ≠ 0 then .trap 0x09 a
  else checkPages s g acc a n

/-- The bytes of the pieces, and whether a poisoned line is among them. -/
def segsRead (s : State) : List Seg → List Byte
  | [] => []
  | x :: l => physRead s x.key x.pa x.len ++ segsRead s l

def segsPoisoned (s : State) (l : List Seg) : Bool := l.any fun x => poisoned s x.pa x.len

/-- Heat of one leaf: the read field, the write field, or both, saturating at 3; an unchanged entry is not written, nor one
that is no longer a leaf with the same OA (R242). -/
def heatEntry (s : State) (die : Nat) (x : LeafRef) (rd wr : Bool) : State :=
  let p := readPte s x.key x.pa
  let e := p.raw
  let bump (f : BitVec 2) (on : Bool) : BitVec 2 := if on && f != 3 then f + 1 else f
  let r := bump (e.extractLsb' 6 2) rd
  let w := bump (e.extractLsb' 8 2) wr
  let e' := (e &&& ~~~ (0xF#64 <<< 6)) ||| (r.setWidth 64 <<< 6) ||| (w.setWidth 64 <<< 8)
  if e' = e ∨ p.type ≠ 1 ∨ p.oa ≠ x.oa then s else physWrite s die x.key x.pa (leBytes e'.toNat 8)

/-- Heat in both leaves of a translation. -/
def heatLeaves (s : State) (die : Nat) (l1 l2 : Option LeafRef) (rd wr : Bool) : State :=
  let one (t : State) (x : Option LeafRef) : State :=
    match x with
    | some x => heatEntry t die x rd wr
    | none => t
  one (one s l1) l2

/-- An entry put first into a TLB of n entries in place of those that map its page; a full TLB loses the entry that the
given number names (R241). -/
def tlbPut (n v : Nat) (e : TlbEntry) (l : List TlbEntry) : List TlbEntry :=
  let l := l.filter fun f => !(f.asid == e.asid && f.va < e.va + e.size && e.va < f.va + f.size)
  e :: (if l.length < n then l else (l.eraseIdx (v % l.length)).take (n - 1))

/-- A translation installed in the TLBs that serve an agent. -/
def tlbInstall (s : State) (g : Agent) (e : TlbEntry) : State :=
  let v := Config.victim s.freeCtr
  let s1 := match g.core with
    | some c => { s with cores := s.cores.modify c fun k => { k with tlb := tlbPut Config.tlbEntries v e k.tlb } }
    | none => s
  let s2 := if g.die < 4 then modDie s1 g.die fun d => { d with tlb2 := tlbPut Config.tlb2Entries v e d.tlb2 } else s1
  if g.die < 4 then { s2 with freeCtr := s2.freeCtr + 1 } else s2

/-- What a walk read of the tables, kept in the walk cache of its die (R241). -/
def walksInstall (s : State) (die : Nat) (ws : List WalkEntry) : State :=
  if ws = [] ∨ 4 ≤ die then s
  else
    modDie s die fun d => { d with walks :=
      (ws ++ d.walks.filter fun e => !ws.any fun w =>
        w.stage2 == e.stage2 && w.space == e.space && w.level == e.level && w.input == e.input).take Config.walkEntries }

/-- What one translated piece leaves: a walk sends heat to its leaves and installs its entry; the first access of the other
kind through an entry sends that heat (R242). -/
def noteSeg (s : State) (g : Agent) (acc : Acc) (x : Seg) : State :=
  let s := walksInstall s g.die x.walks
  match x.tlb with
  | none => heatLeaves s g.die x.leaf1 x.leaf2 (accReads acc) (accWrites acc)
  | some e =>
    let old := heldEntry s g x e
    let due := heatDue s g acc x
    let done : TlbEntry :=
      { e with rdDone := accReads acc || old.any (fun f => f.rdDone), wrDone := accWrites acc || old.any fun f => f.wrDone }
    let s1 := if due.1 || due.2 then heatLeaves s g.die e.leaf1 e.leaf2 due.1 due.2 else s
    if old == some done && (match g.core with | some c => (getCore s c).tlb.contains done | none => true) then s1
    else tlbInstall s1 g done

/-- The pieces of one access; pieces of one page count once. -/
def noteSegs (s : State) (g : Agent) (acc : Acc) : Option TlbEntry → List Seg → State
  | _, [] => s
  | p, x :: l =>
    if x.tlb.isSome && (match p, x.tlb with | some e, some f => e.same f | _, _ => false) then noteSegs s g acc p l
    else noteSegs (noteSeg s g acc x) g acc x.tlb l

/-- What an access that stopped leaves: the translations that completed before it did (R242). -/
def touch (s : State) (g : Agent) (acc : Acc) (gs : List (Nat × Nat)) : State :=
  noteSegs s g acc none (transPrefix s g acc gs)

/-- The granule of a piece as the residency tables name it: by vault offset, or by virtual address (R179). -/
def pieceGranule (s : State) (x : Seg) : Nat :=
  if inVault s x.pa then pubGranule (vaultOff s x.pa) else ownGranule x.va

/-- The lines of a span. -/
def spanLines (a n : Nat) : List Nat := (List.range (n / 64 + 2)).filterMap fun i =>
  let ln := a / 64 + i
  if ln * 64 < a + n then some ln else none

/-- Lines of L1 that the contexts of a core leave (R77, R196). -/
def l1Lines (s : State) (core : Nat) : Nat :=
  let cs := s.ctxs.filter fun c => c.id.core == core
  (3072 * 1024 - 18944 * cs.length - 65536 * cs.foldl (fun n c => n + c.units) 0) / 64

/-- What a line that an access reads brings into the L2 of its home and the RDC of its die: an ATOM obtains a pool line
exclusive (R198, R199, R205, R206). -/
def readLine (s : State) (g : Agent) (acc : Acc) (gr ln : Nat) : State :=
  match physKind (64 * ln), acc with
  | .pool _, .atomic => rdcUse (poolOwn s g.die ln) g.die g.hint ln
  | _, _ => fillLine s g.die g.hint g.polder (some gr) ln

/-- What a line that an access writes leaves in the L2 of its home, and its place in the RDC of its die (R197 to R199,
R205). -/
def writeLine (s : State) (g : Agent) (gr ln : Nat) : State :=
  match physKind (64 * ln) with
  | .pool _ => rdcUse s g.die g.hint ln
  | _ =>
    let t := l2Fill s g.hint g.polder (some gr) ln
    if (getDie s g.die).rdcRemote.contains ln then rdcUse t g.die g.hint ln else t

/-- The caches after an access: a read fills the L2 of the home, the RDC of the reader's die, and, for a load or fetch with
l1 set, the L1 of the core; a write is performed at the home L2 and uses the core's own L1 copy, which a transfer's takes;
the hint orders the lines (R191, R196 to R199, R205, R212). A fill names its polder and granule; one that comes without a
virtual address names none. -/
def fillSeg (s : State) (g : Agent) (acc : Acc) (l1 : Bool) (x : Seg) : State :=
  let gr := pieceGranule s x
  (spanLines x.pa x.len).foldl (fun t ln =>
    let t := if accReads acc then readLine t g acc gr ln else writeLine t g gr ln
    match g.core with
    | none => t
    | some c =>
      match acc with
      | .read | .fetch => if l1 then l1Fill t c (l1Lines t c) g.hint g.polder (some gr) ln else t
      | .write | .atomic => l1Use t c g.hint ln
      | .xferWrite => l1Drop t c false (· == ln)
      | .xferRead => t) s

/-- Pieces of host memory are requested by the function of the polder on whose behalf the access is made (R203, R293). -/
def hostRequests (s : State) (g : Agent) (acc : Acc) (segs : List Seg) : State :=
  { s with outbox := s.outbox ++ (segs.filter fun x => physKind x.pa == .host).map fun x =>
      .hostAccess (getPolder s g.polder).vf.toNat (x.pa - Config.hostBase) x.len (accCode acc) }

/-- What translated pieces bring into the TLBs, the heat fields and the caches. -/
def noteFill (s : State) (g : Agent) (acc : Acc) (segs : List Seg) (l1 : Bool) : State :=
  segs.foldl (fun t x => fillSeg t g acc l1 x) (noteSegs s g acc none segs)

/-- What an access that passed its checks leaves besides its bytes: TLBs, heat, caches, and requests to the host. -/
def noteAccess (s : State) (g : Agent) (acc : Acc) (segs : List Seg) (l1 : Bool := true) : State :=
  hostRequests (noteFill s g acc segs l1) g acc segs

def modPolder (s : State) (p : BitVec 4) (f : Polder → Polder) : State :=
  { s with polders := s.polders.modify p.toNat f }

def modLaunch (s : State) (p : BitVec 4) (q : BitVec 48) (f : Launch → Launch) : State :=
  modPolder s p fun d => { d with queue := d.queue.map fun l => if l.seq = q then f l else l }

/-- The lines that a write of n bytes at offset off of a granule touches. -/
def lineMask (off n : Nat) : BitVec 64 :=
  BitVec.ofNat 64 (((List.range 64).filter fun i => i * 64 < off + n && off < i * 64 + 64).foldl (fun m i => m + 2 ^ i) 0)

/-- A write into a rename buffer is recorded for the commit (R117). -/
def noteRename (s : State) (g : Agent) (x : Seg) : State :=
  match x.ren, g.launch with
  | some gr, some (p, q) =>
    modLaunch s p q fun l => { l with renames := l.renames.map fun r =>
      if r.granule = gr then { r with written := r.written ||| lineMask (x.va % 4096) x.len } else r }
  | _, _ => s

/-- Bytes written through translated pieces. -/
def segsWrite (s : State) (g : Agent) : List Seg → List Byte → State
  | [], _ => s
  | x :: l, bs =>
    let w := g.who.map fun w => { w with va := BitVec.ofNat 64 x.va }
    segsWrite (noteRename (physWrite s g.die x.key x.pa (bs.take x.len) w) g x) g l (bs.drop x.len)

end Sys2Proof.Machine
end

