-- ==== Sys2Proof/Machine/Ops.lean ====
section
/-! DEFINITION. The named operations over contexts and registers; taking a trap and returning from one; and the common
order in which an instruction is checked, waits, acts and is followed to its completion (R71 to R74, R80, R81, R94, R95,
R252 to R260). -/

namespace Sys2Proof.Machine

/-- An operation or event of the device whose conditions do not hold does not take place: nothing changes (DEDUCED, log
entry 10). -/
def notNow (s : State) : Answer := .next s

/-- An operation from outside waits: for a page that a SCOPY holds, or for atomic credits. It is made again when either may
have changed (R301, R307). -/
def stall (s : State) (i : Instr) : State := { s with stalled := s.stalled ++ [i] }

/-- What waited is made again. -/
def unstall (s : State) : State := { s with agenda := s.stalled ++ s.agenda, stalled := [] }

/-! Contexts and sequencers -/

def fourSeqs : List Seqr := [.X, .L, .C, .S]

def getCtx (s : State) (id : CtxId) : Option Ctx := s.ctxs.find? fun c => c.id == id

def modCtx (s : State) (id : CtxId) (f : Ctx → Ctx) : State :=
  { s with ctxs := s.ctxs.map fun c => if c.id = id then f c else c }

def Ctx.seq (c : Ctx) : Seqr → Seq
  | .X => c.x | .L => c.l | .C => c.c | .S => c.s

def Ctx.setSeq (c : Ctx) (q : Seqr) (v : Seq) : Ctx :=
  match q with
  | .X => { c with x := v }
  | .L => { c with l := v }
  | .C => { c with c := v }
  | .S => { c with s := v }

def Ctx.modSeq (c : Ctx) (q : Seqr) (f : Seq → Seq) : Ctx := c.setSeq q (f (c.seq q))

def modSeq (s : State) (id : CtxId) (q : Seqr) (f : Seq → Seq) : State := modCtx s id fun c => c.modSeq q f

def modCore (s : State) (n : Nat) (f : CoreState → CoreState) : State := { s with cores := s.cores.modify n f }

/-- The context of a sequencer. -/
def ctxOf (q : SeqId) : CtxId := { core := q.core, slot := q.slot }

/-! Registers (R74) -/

/-- A scalar register as a sequencer reads it: s0 reads 0, s32 to s63 are shared. -/
def Ctx.rS (c : Ctx) (q : Seqr) (r : SReg) : Word :=
  if r = 0 then 0
  else if r.toNat < 32 then (c.seq q).sreg.toList.getD r.toNat 0
  else c.shared.toList.getD (r.toNat - 32) 0

/-- A scalar register written; a write to s0 is discarded. -/
def Ctx.wS (c : Ctx) (q : Seqr) (r : SReg) (v : Word) : Ctx :=
  if r = 0 then c
  else if r.toNat < 32 then c.modSeq q fun x => { x with sreg := x.sreg.setIfInBounds r.toNat v }
  else { c with shared := c.shared.setIfInBounds (r.toNat - 32) v }

/-- A guard; g0 is true. -/
def Ctx.rG (c : Ctx) (q : Seqr) (g : GReg) : Bool := g == 0 || (c.seq q).guards.getLsbD g.toNat

/-- A guard written; a write to g0 is discarded. -/
def Ctx.wG (c : Ctx) (q : Seqr) (g : GReg) (b : Bool) : Ctx :=
  if g = 0 then c
  else c.modSeq q fun x =>
    { x with guards := if b then x.guards ||| (1#16 <<< g.toNat) else x.guards &&& ~~~ (1#16 <<< g.toNat) }

def VecReg.reset : VecReg := { data := 0, tag := .raw, pen := 0 }

def Ctx.rV (c : Ctx) (v : VReg) : VecReg := c.vreg.toList.getD v.toNat .reset

def Ctx.wV (c : Ctx) (v : VReg) (x : VecReg) : Ctx := { c with vreg := c.vreg.setIfInBounds v.toNat x }

/-- A register group (R76). -/
def Ctx.rGroup (c : Ctx) (v : VReg) (n : Nat) : List VecReg := (List.range n).map fun i => c.rV (v + BitVec.ofNat 5 i)

def Ctx.wGroup (c : Ctx) (v : VReg) : List VecReg → Ctx
  | [] => c
  | x :: l => (c.wV v x).wGroup (v + 1) l

def Ctx.rQ (c : Ctx) (q : QReg) : PData := c.preg.toList.getD q.toNat 0

def Ctx.wQ (c : Ctx) (q : QReg) (x : PData) : Ctx := { c with preg := c.preg.setIfInBounds q.toNat x }

/-! Token queues (R70, R71) -/

/-- The source and destination letters of queues 1 to 12 (R70). -/
def queueEnds (q : Nat) : Option (Seqr × Seqr) :=
  match q with
  | 1 => some (.L, .C) | 2 => some (.L, .S) | 3 => some (.L, .X) | 4 => some (.C, .L) | 5 => some (.C, .S)
  | 6 => some (.C, .X) | 7 => some (.S, .L) | 8 => some (.S, .C) | 9 => some (.S, .X) | 10 => some (.X, .L)
  | 11 => some (.X, .C) | 12 => some (.X, .S)
  | _ => none

def waitsAt (wq : Nat) (q : Seqr) : Bool := wq == 0 || (queueEnds wq).map Prod.snd == some q
def postsFrom (pq : Nat) (q : Seqr) : Bool := pq == 0 || (queueEnds pq).map Prod.fst == some q

/-- The count of queue 1 to 12. -/
def Ctx.tok (c : Ctx) (q : Nat) : BitVec 6 := c.tokens.toList.getD (q - 1) 0

def Ctx.setTok (c : Ctx) (q : Nat) (v : BitVec 6) : Ctx := { c with tokens := c.tokens.setIfInBounds (q - 1) v }

/-! Privilege and address space of a sequencer (R112, R256) -/

/-- The innermost handler. -/
def Ctx.frame (c : Ctx) : Option Frame := c.frames.head?

/-- The sequencer runs the innermost handler. -/
def Ctx.inHandler (c : Ctx) (q : Seqr) : Bool :=
  match c.frame with
  | none => false
  | some f => f.saves.any fun x => x.seq == q

def Ctx.effPriv (c : Ctx) : Priv :=
  match c.frame with
  | none => c.priv
  | some f => if f.reeve then .reeve else .steward

def privNat : Priv → Nat
  | .task => 0 | .steward => 1 | .reeve => 2

/-- What q does outside every handler. -/
def Ctx.baseRun (c : Ctx) (q : Seqr) : SeqRun :=
  match c.frames.reverse.findSome? fun f => f.saves.find? fun v => v.seq == q with
  | some v => v.run
  | none => (c.seq q).run

/-- The polder on whose behalf the context acts: the owner of SYS.RTVEC's identifier in a reeve handler (R256). -/
def effPolder (s : State) (c : Ctx) : BitVec 4 :=
  match c.frame with
  | some f => if f.reeve then asidPolder s f.asid else c.polder
  | none => c.polder

/-- The polder whose registers the context reaches: at reeve privilege that of SYS.PDSEL, else its own (R380). -/
def regPolder (s : State) (c : Ctx) : BitVec 4 := if c.effPriv = .reeve then c.pdsel else effPolder s c

/-- The registers of an ABSENT polder read 0 and ignore writes (R380). -/
def polderAbsent (s : State) (p : BitVec 4) : Bool := (getPolder s p).state == 0

/-- The agent of an access of the context (R215, R234, R256). -/
def agentOf (s : State) (c : Ctx) : Agent :=
  let reeveH := match c.frame with | some f => f.reeve | none => false
  { asid := match c.frame with | some f => f.asid | none => c.asid
    polder := effPolder s c
    task := c.effPriv == .task
    launch := if reeveH then none else c.task.map fun t => (t.polder, t.seq)
    die := dieOf c.id.core, core := some c.id.core, who := none }

/-- The instruction that issues now at q, as the writer of what it writes (R209). -/
def Ctx.writer (c : Ctx) (q : Seqr) : Option Writer :=
  c.task.map fun t => { task := t, seq := q, depth := c.frames.length, age := c.issued, va := 0, moves := false }

/-- The agent of an access of an instruction with the given HINT (R94, R197). -/
def hintAgent (s : State) (c : Ctx) (hint : BitVec 2) : Agent := { agentOf s c with hint := hint }

/-- The agent of a write of the instruction that issues now at q. -/
def writeAgent (s : State) (c : Ctx) (q : Seqr) (hint : BitVec 2 := 0) : Agent :=
  { agentOf s c with who := c.writer q, hint := hint }

/-! Reports (R281, R310) -/

/-- Optis codes: 1 pool breach, 2 die link, 3 audit, 4 quarantine recommended, 5 context ended in a reeve handler,
6 replay, 7 error, 8 thermal warning, 9 thermal trip, 10 fabric port lost, 11 firmware discarded, 12 die failed,
13 corrected errors. -/
def optisLog (s : State) (code arg : Nat) : State :=
  { s with optis := (if 4096 ≤ s.optis.length then s.optis.drop 1 else s.optis) ++ [{ code := code, arg := arg }] }

def reportReeve (s : State) (code arg : Nat) : State := { s with outbox := s.outbox ++ [.reeve code arg] }

/-- An entry added to a log of at most n; a full log drops it and marks the loss (R133). -/
def RegLog.push (l : RegLog) (n : Nat) (e : Word × Word) : RegLog :=
  if l.entries.length < n then { l with entries := l.entries ++ [e] } else { l with ovf := true }

/-- A read that returns VALID 1 removes the oldest entry; OVF stands in bit 62 and is cleared (R133, R174, R279, R303). -/
def RegLog.pop (l : RegLog) : Word × Option Word × RegLog :=
  let o : Word := if l.ovf then 1#64 <<< 62 else 0
  match l.entries with
  | [] => (o, none, { l with ovf := false })
  | e :: r => (e.1 ||| o ||| (1#64 <<< 63), some e.2, { entries := r, ovf := false })

/-! Image headers (R89, R90) -/

/-- What the check of an image header finds: LEN and the four entry lines. -/
def headerFields (h : List Byte) : Option (Nat × List Nat) :=
  let len := natAt h 8 4
  let ents := [natAt h 12 4, natAt h 16 4, natAt h 20 4, natAt h 24 4]
  if natAt h 0 4 = 0x4B485931 ∧ natAt h 4 2 = 1 ∧ natAt h 6 2 = 0 ∧ natAt h 44 20 = 0 ∧ 2 ≤ len ∧ len ≤ 2 ^ 24
      ∧ ents.all (fun e => 1 ≤ e && e < len) then some (len, ents)
  else none

/-- A line of an image, as its agent fetches it. A poisoned line and a line of the fabric window cannot be read here; the
header check sends no fabric request (DESIGN CHOICE, log entry 8). -/
def fetchLine (s : State) (g : Agent) (base : Word) (line : Nat) : Checked × List Byte :=
  let a := (base + BitVec.ofNat 64 (64 * line)).toNat
  let r := checkAccess s g .fetch a 64 1
  match r with
  | .ok segs =>
    if segsPoisoned s segs || segs.any (fun x => physKind x.pa == .fabric) then (.trap 0x12 0, []) else (r, segsRead s segs)
  | _ => (r, [])

/-- What the fetch of a line leaves in the TLBs, the heat fields and the caches (R242). -/
def noteFetch (s : State) (g : Agent) (base : Word) (line : Nat) : State :=
  let a := (base + BitVec.ofNat 64 (64 * line)).toNat
  match checkAccess s g .fetch a 64 1 with
  | .ok segs => noteAccess s g .fetch segs
  | _ => if spanOk a 64 then touch s g .fetch (granules 2 a 64) else s

/-- OWN of a line's link word (R91). -/
def lineOwn (l : List Byte) : Nat := natAt l 0 4 / 2 ^ 30

/-- The header check of R90 over an image in memory: LEN and entry lines, or none. A line that cannot be read fails the
check (DEDUCED, log entry 8). -/
def checkImage (s : State) (g : Agent) (base : Word) : Option (Nat × List Nat) :=
  match fetchLine s g base 0 with
  | (.ok _, h) =>
    match headerFields h with
    | none => none
    | some (len, ents) =>
      if (List.range 4).all fun i =>
          match fetchLine s g base (ents.getD i 0) with
          | (.ok _, l) => lineOwn l == i
          | _ => false
      then some (len, ents) else none
  | _ => none

/-- What the check leaves behind its fetches: of the header, and of the entry lines of a header that is well formed. -/
def noteImage (s : State) (g : Agent) (base : Word) : State :=
  let s1 := noteFetch s g base 0
  match headerFields (fetchLine s g base 0).2 with
  | none => s1
  | some (_, ents) => ents.foldl (fun t e => noteFetch t g base e) s1

/-- The same over the bytes of a code-vault image. -/
def checkImageBytes (b : List Byte) : Option (Nat × List Nat) :=
  match headerFields (bytesAt b 0 64) with
  | none => none
  | some (len, ents) =>
    if (List.range 4).all fun i => lineOwn (bytesAt b (64 * ents.getD i 0) 64) == i then some (len, ents) else none

def seqIndex : Seqr → Nat
  | .X => 0 | .L => 1 | .C => 2 | .S => 3

/-! Ending a context (R68, R170, R259) -/

/-- An entry of a member's park log (R174); WRITTEN is filled in when the bunting retires. -/
def Member.parkWord (m : Member) (cause : BitVec 8) (row : Nat) : Word :=
  ((cause.setWidth 64) <<< 54) ||| (BitVec.ofNat 64 (row % 64) <<< 48) ||| m.task.seq.setWidth 64

/-- The second word of a park log entry (R174). -/
def Member.parkInfo (m : Member) : Word := (BitVec.ofNat 64 (m.task.index % 2 ^ 24) <<< 32) ||| m.written.setWidth 64

/-- The parked-row mask of a tile record with the rows of pennant p set (R148, R173). -/
def TileRec.park (p : BitVec 12) (t : TileRec) : TileRec :=
  { t with parked := (List.range 32).foldl (fun m r => if t.pens.getD r 0 = p then m ||| (1#32 <<< r) else m) t.parked }

/-- The bunting is an audit's replay, none of whose effects reaches a member (R277). -/
def isReplay (s : State) (b : Nat) : Bool := s.buntings.any fun x => x.id == b && x.replay.isSome

/-- Member m of bunting b, counted from 1, parked, once, with its first cause; its launch is abnormal and its polder's
park log has an entry (R121, R173, R174). In a replay the bunting alone has it parked (R277). -/
def parkMember (s : State) (b m : Nat) (cause : BitVec 8) (row : Nat) : State :=
  match (s.buntings.find? fun x => x.id == b).bind fun x => if m = 0 then none else x.members[m - 1]? with
  | none => s
  | some y =>
    if y.parked.isSome then s
    else
      let s1 := { s with
        buntings := s.buntings.map fun x =>
          if x.id = b then
            { x with members := x.members.modify (m - 1) fun y => { y with parked := some cause, firstRow := row } }
          else x
        ctxs := s.ctxs.map fun c =>
          if c.neutral = some b then { c with tiles := c.tiles.map fun t => t.park (BitVec.ofNat 12 m) } else c }
      if isReplay s b then s1
      else
        let s2 := modPolder s1 y.task.polder fun p =>
          { p with parklog := p.parklog.push 16 (y.parkWord cause row, y.parkInfo) }
        modLaunch s2 y.task.polder y.task.seq fun l => { l with abnormal := true }

/-- Members of a bunting, numbered from 1. -/
def bunting (s : State) (b : Nat) : Option Bunting := s.buntings.find? fun x => x.id == b

def memberOf (s : State) (b m : Nat) : Option Member :=
  if m = 0 then none else (bunting s b).bind fun x => x.members[m - 1]?

def memberParked (s : State) (c : Ctx) (pen : BitVec 12) : Bool :=
  match c.neutral with
  | none => false
  | some b => ((memberOf s b pen.toNat).map fun m => m.parked.isSome).getD false

def parkAll (s : State) (b : Nat) (cause : BitVec 8) : Nat → State
  | 0 => s
  | n + 1 => parkMember (parkAll s b cause n) b (n + 1) cause 0

def setTask (s : State) (t : TaskRef) (x : TaskState) : State :=
  modLaunch s t.polder t.seq fun l => { l with tasks := l.tasks.set t.index x }

/-- An op whose transfer or store was withdrawn: it counts as complete and performs no post (R247, R259). -/
def Op.drop (o : Op) : Op := { o with post := 0, done := true, trap := none }

/-- Ending without END: what is held is withdrawn, side-log entries are discarded, the context then retires as R68 gives
(R259). A neutral context parks its members (R170). -/
def endCtx (s : State) (id : CtxId) (cause : BitVec 8) : State :=
  match getCtx s id with
  | none => s
  | some c =>
    let cutSeq (x : Seq) : Seq :=
      { x with hold := none, line := none, rtags := [], atEnd := false, run := .streamEnd, relWait := none
               ops := x.ops.map fun o =>
                 let o := { o with trap := none, ends := false }
                 match o.kind with
                 | .side _ => o.drop
                 | .transfer t | .wld _ t =>
                   if c.xfers.any fun y => y.id == t && y.fault.isSome then o.drop else o
                 | .rrot => o.drop
                 | _ => o }
    let s1 := modCtx s id fun c =>
      { c with life := if c.life = .retired then .retired else .ending, cut := true, frames := [], pending := []
               preempt := none, x := cutSeq c.x, l := cutSeq c.l, c := cutSeq c.c, s := cutSeq c.s
               xfers := c.xfers.filter fun y => y.fault.isNone, rrotWait := false }
    let keep (w : Waiter) : Bool :=
      match w with
      | .seq i _ => i != id
      | .xfer i _ => i != id
      | _ => true
    let s2 := modCore s1 id.core fun k => { k with side := k.side.filter fun e => e.slot != id.slot }
    let s3 := { s2 with
      faults := s2.faults.map fun e => { e with waiters := e.waiters.filter keep }
      roomWait := s2.roomWait.filter fun e => keep e.2
      heldSubs := s2.heldSubs.filter fun h => h.ctx != id
      fabReqs := s2.fabReqs.filter fun r =>
        r.ctx != id || !r.isRead || c.retags.contains r.rtag
          || r.xfer.any fun n => c.xfers.any fun y => y.id == n && y.fault.isNone }
    let s4 :=
      match c.task with
      | some t => setTask (modLaunch s3 t.polder t.seq fun l => { l with abnormal := true }) t .ending
      | none => s3
    match c.neutral with
    | some b => parkAll s4 b cause (((bunting s4 b).map fun x => x.members.length).getD 0)
    | none => s4

/-! Taking a trap (R254 to R257, R259, R262) -/

/-- The trap record (R257). -/
def trecWord (nested imprec aband : Bool) (q : Seqr) (cause detail : BitVec 8) (p : CodePoint) : Word :=
  (1#1 ++ BitVec.ofBool nested ++ BitVec.ofBool imprec ++ BitVec.ofBool aband ++ BitVec.ofNat 2 (seqIndex q) ++ 0#2
    ++ cause ++ detail ++ 0#13 ++ BitVec.ofInt 24 p.line ++ BitVec.ofNat 3 p.slot).cast (by decide)

/-- A sequencer enters its entry line of a handler image with its own copies of s24 to s31 and g12 to g15 (R255,
R256). -/
def Seq.enter (x : Seq) (entry : Nat) : Seq :=
  { x with
    banks := { sreg := (x.sreg.toList.drop 24), g := x.guards.extractLsb' 12 4 } :: x.banks
    sreg := Vector.ofFn fun i => if i.val < 24 then x.sreg[i] else 0
    guards := x.guards &&& 0x0FFF
    pc := { line := entry, slot := 0, bad := false }, line := none, skip := false, waited := none, atEnd := false
    run := .running, hold := none, relWait := none, fab := [], rtags := [] }

/-- The way back: the set-aside copies return (R256, R258). -/
def Seq.leave (x : Seq) (v : SeqSave) : Seq :=
  let b := x.banks.headD { sreg := [], g := 0 }
  { x with
    banks := x.banks.tail
    sreg := Vector.ofFn fun i => if i.val < 24 then x.sreg[i] else b.sreg.getD (i.val - 24) 0
    guards := (x.guards &&& 0x0FFF) ||| (b.g.setWidth 16 <<< 12)
    pc := v.point, line := none, skip := v.skip, waited := v.waited, atEnd := v.atEnd, run := v.run, hold := v.hold
    relWait := none, age := v.age, fab := v.fab, rtags := v.rtags }

def Seq.save (x : Seq) (q : Seqr) (p : CodePoint) : SeqSave :=
  { seq := q, point := p, skip := x.skip, waited := x.waited, atEnd := x.atEnd, run := x.run, hold := x.hold, age := x.age
    fab := x.fab, rtags := x.rtags }

/-- The agents that fetch a steward's or the reeve's handler image: without TASK in the leaf (R254, R256). -/
def handlerAgent (s : State) (c : Ctx) (reeve : Bool) : Agent :=
  let a : BitVec 9 := if reeve then s.rtvec.extractLsb' 0 9 else c.asid
  { asid := a, polder := if reeve then asidPolder s a else c.polder, task := false, launch := none
    die := dieOf c.id.core, core := some c.id.core, who := none }

def vectorImage (s : State) (c : Ctx) (reeve : Bool) : Word :=
  if reeve then s.rtvec &&& ~~~ 0xFFFF#64 else (getPolder s c.polder).tvec.setWidth 64 <<< 16

/-- Entry through one vector. -/
def enterVector (s : State) (c : Ctx) (t : TrapReq) (reeve : Bool) (len : Nat) (ents : List Nat) : State :=
  let x := c.seq t.seq
  let p := t.point.getD x.pc
  let nested := reeve && c.frame.isSome
  let f : Frame :=
    { seq := t.seq, reeve := reeve, preempt := false, image := vectorImage s c reeve, lines := len
      asid := (handlerAgent s c reeve).asid, saves := [x.save t.seq p], trec := c.trec, taddr := c.taddr }
  modCtx s c.id fun c =>
    { (c.modSeq t.seq fun x => x.enter (ents.getD (seqIndex t.seq) 1)) with
      frames := f :: c.frames
      trec := trecWord nested t.imprec t.aband t.seq t.cause t.detail p
      taddr := t.addr }

/-- A trap is taken: through the steward's vector or the reeve's, or, in a reeve handler, by ending the context (R254,
R255, R259). In a pre-emption handler, of either vector (DEDUCED, log entry 76), it starts the forced save: it stays pending
and the budget counts as used up (R264, R369). -/
def takeTrap (s : State) (c : Ctx) (t : TrapReq) : State :=
  let viaReeve := c.neutral.isSome || t.viaReeve || c.frame.isSome
  let inReeve := match c.frame with | some f => f.reeve | none => false
  let inPre := match c.frame with | some f => f.preempt && c.preempt.isSome | none => false
  if inPre then
    modCtx s c.id fun c =>
      { c with pending := c.pending ++ [{ t with depth := c.frames.length }]
               preempt := c.preempt.map fun r => { r with used := 65536 } }
  else if inReeve then endCtx (optisLog s 5 c.id.core) c.id t.cause
  else
    let gs := handlerAgent s c false
    let gr := handlerAgent s c true
    let tryReeve (s : State) : State :=
      match checkImage s gr (vectorImage s c true) with
      | some (len, ents) => enterVector (noteImage s gr (vectorImage s c true)) c t true len ents
      | none => endCtx (noteImage s gr (vectorImage s c true)) c.id t.cause
    if viaReeve then tryReeve s
    else
      match checkImage s gs (vectorImage s c false) with
      | some (len, ents) => enterVector (noteImage s gs (vectorImage s c false)) c t false len ents
      | none => tryReeve (noteImage s gs (vectorImage s c false))

/-- The budget of a pre-emption request has run out: every sequencer has stopped issuing for the forced save (R264). -/
def Ctx.halting (c : Ctx) : Bool := c.preempt.any fun r => 65536 ≤ r.used

/-- A trap raised behind the instruction at which its sequencer stands: taken at once, or kept pending while a handler
runs that is not its instruction's own, or for the forced save (R260, R264). -/
def raiseTrap (s : State) (id : CtxId) (t : TrapReq) : State :=
  match getCtx s id with
  | none => s
  | some c =>
    if c.cut || c.life == .retired then s
    else if c.halting || t.depth < c.frames.length then modCtx s id fun c => { c with pending := c.pending ++ [t] }
    else takeTrap s c t

/-- An imprecise trap waits for the next instruction of its sequencer (R252). -/
def raiseLater (s : State) (id : CtxId) (t : TrapReq) : State :=
  modCtx s id fun c => if c.cut then c else { c with pending := c.pending ++ [{ t with imprec := true }] }

/-- The same for the instruction that issues now. -/
def raiseAfter (s : State) (c : Ctx) (t : TrapReq) : State :=
  raiseLater s c.id { t with depth := c.frames.length, age := c.issued }

def mkTrap (q : Seqr) (cause detail : Nat) (addr : Word) : TrapReq :=
  { seq := q, cause := BitVec.ofNat 8 cause, detail := BitVec.ofNat 8 detail, addr := addr, imprec := false
    aband := false, viaReeve := false, depth := 0, age := 0, prompt := false, point := none }

/-! Issue -/

/-- What the body of an instruction does. It runs on the state before the issue; a trap therefore restores the wait
(R73). -/
inductive Act where
  /-- the effect, what completes it, its exceptions, and where the sequencer goes when it branches -/
  | done (s : State) (kind : OpKind) (exc : Exc) (next : Option CodePoint)
  /-- as done for a plain effect whose exceptions belong to a bunting's member: the context's own enables do not apply
  (R168) -/
  | quiet (s : State) (exc : Exc)
  /-- as done, with a post to the given queue (TKPOST) -/
  | posts (s : State) (kind : OpKind) (queue : BitVec 4)
  /-- a trap before effect; s differs from the state before only by what the rule keeps (R252) -/
  | trap (s : State) (cause detail : Nat) (addr : Word)
  /-- uncorrectable data consumed elsewhere than at a load's destination: no effect, and trap 0x12 marked imprecise at the
  instruction (R252) -/
  | late (s : State)
  /-- a trap after completion (TRAP) -/
  | after (s : State) (cause detail : Nat)
  /-- held, its wait taken (R73, R93, R109, R245, R304) -/
  | hold (s : State) (h : Hold)
  /-- not ready (R81) -/
  | wait
  /-- a release whose conditions at its scope do not hold yet (R228) -/
  | waitRel (sc : Scope)
  /-- the body has set the sequencer itself (TRET) -/
  | set (s : State)

/-- The link word of a fetched line (R91). -/
def linkWord (l : Line) : BitVec 32 := l.extractLsb' 0 32
def linkValid (l : Line) : Nat := ((linkWord l).extractLsb' 27 3).toNat
def linkEos (l : Line) : Bool := (linkWord l).getLsbD 26
def linkNext (l : Line) : Int := ((linkWord l).extractLsb' 0 26).toInt
def linkOwn (l : Line) : Nat := ((linkWord l).extractLsb' 30 2).toNat

/-- The point after the instruction at pc: the next slot, slot 0 of the next line, or the stream end (R92). -/
def Seq.advance (x : Seq) : CodePoint × Option Line × Bool :=
  match x.line with
  | none => ({ x.pc with slot := x.pc.slot + 1 }, none, false)
  | some l =>
    if x.pc.slot + 1 < linkValid l then ({ x.pc with slot := x.pc.slot + 1 }, some l, false)
    else if linkEos l then ({ x.pc with slot := linkValid l }, none, true)
    else ({ line := x.pc.line + linkNext l, slot := 0, bad := x.pc.bad }, none, false)

/-- The slot moves to the back of a rotation order (R80). -/
def toBack (slot : Nat) (l : List Nat) : List Nat := if l.contains slot then l.filter (· != slot) ++ [slot] else l

def rotate (s : State) (id : CtxId) (q : Seqr) (all : Bool) : State :=
  modCore s id.core fun k =>
    { k with ports := (List.range 4).map fun i =>
      let p := k.ports.getD i []
      if all || i == seqIndex q then toBack id.slot p else p }

/-- A wait taken: the count of its queue falls by one (R71). -/
def takeWait (h : Hdr) (q : Seqr) (c : Ctx) : Ctx :=
  if h.wq = 0 ∨ (c.seq q).waited.isSome then c else c.setTok h.wq.toNat (c.tok h.wq.toNat - 1)

/-- The place of the instruction at q in the order of issue: its own from when it was held, else the next (R260). -/
def Ctx.ageAt (c : Ctx) (q : Seqr) : Nat := if (c.seq q).waited.isSome then (c.seq q).age else c.issued

/-- The acquire of a wait: at cluster scope or wider it drops the core's L1 lines (R72, R196). -/
def waitAcquire (s : State) (core : Nat) (h : Hdr) (sc : Scope) : State :=
  match sc with
  | .ctx | .core => s
  | _ => if h.wq = 0 then s else l1Drop s core true fun _ => true

/-- The instruction has issued: its wait is taken, its sequencer stands at the next point, and it is followed to its
completion (R71, R72, R80, R83, R92). sc is the scope at which its post releases (R72). -/
def finish (s : State) (id : CtxId) (q : Seqr) (h : Hdr) (kind : OpKind) (exc : Exc) (t : Option TrapReq)
    (next : Option CodePoint) (quiet : Bool := false) (sc : Scope := .ctx) : State :=
  let s1 := modCtx (waitAcquire s id.core h sc) id fun c =>
    let ena := if quiet then 0 else fpcrEnables c.fpcr
    let age := c.ageAt q
    let c := takeWait h q c
    let x := c.seq q
    let a := x.advance
    let ends := next.isNone && a.2.2
    let hit := enabledExc ena exc
    let trap : Option TrapReq :=
      match t with
      | some t => some t
      | none => if hit = 0 then none else some (mkTrap q 0x05 hit.toNat 0)
    let o : Op :=
      { post := h.pq, kind := kind, exc := { bits := exc.bits, causes := exc.causes }, ena := ena, trap := trap
        ends := ends, depth := c.frames.length, age := age, scope := sc, done := false }
    { (c.setSeq q { x with
        pc := next.getD a.1, line := if next.isSome then none else a.2.1, waited := none, relWait := none, atEnd := ends
        fab := [], rtags := [], retired := x.retired + 1, ops := x.ops ++ [o] }) with
      watchdog := 0, issued := if age = c.issued then c.issued + 1 else c.issued }
  rotate s1 id q h.yld

/-- The sequencer is held at the instruction, which has issued with its wait taken (R73, R80, R245). -/
def holdAt (s : State) (id : CtxId) (q : Seqr) (h : Hdr) (w : Hold) : State :=
  rotate
    (modCtx s id fun c =>
      let age := c.ageAt q
      let c := takeWait h q c
      { (c.modSeq q fun x => { x with waited := some h.wq, hold := some w, age := age, relWait := none }) with
        issued := if age = c.issued then c.issued + 1 else c.issued })
    id q h.yld

/-- A wait taken is given back to its queue, whose count stops at 63. -/
def Ctx.giveBack (c : Ctx) : Option (BitVec 4) → Ctx
  | none => c
  | some k => if k = 0 ∨ c.tok k.toNat = 63 then c else c.setTok k.toNat (c.tok k.toNat + 1)

/-- A wait that a held instruction has taken is given back, and what the fabric brought it is dropped (R73). -/
def restoreWait (q : Seqr) (c : Ctx) : Ctx :=
  let c := c.giveBack (c.seq q).waited
  c.modSeq q fun x => { x with waited := none, hold := none, relWait := none, fab := [], rtags := [] }

/-- The same where a handler interrupted the held instruction, for the places of q that p names. -/
def Ctx.withdrawSaves (c : Ctx) (q : Seqr) (p : SeqSave → Bool) : Ctx :=
  let mine (v : SeqSave) : Bool := v.seq == q && p v
  let vs := c.frames.flatMap fun f => f.saves.filter mine
  let c := vs.foldl (fun c v => c.giveBack v.waited) c
  let g (v : SeqSave) : SeqSave := if mine v then { v with hold := none, waited := none, fab := [], rtags := [] } else v
  { c with frames := c.frames.map fun f => { f with saves := f.saves.map g } }

/-- Where q stands at an instruction that p names: in how many handlers, and the instruction's age. -/
def Ctx.savedPlace (c : Ctx) (q : Seqr) (p : SeqSave → Bool) : Option (Nat × Nat) :=
  (List.range c.frames.length).findSome? fun i =>
    (c.frames[i]?).bind fun f => (f.saves.find? fun v => v.seq == q && p v).map fun v => (c.frames.length - 1 - i, v.age)

/-- A synchronous trap of the instruction at q, before effect. -/
def trapBefore (s : State) (id : CtxId) (q : Seqr) (t : TrapReq) : State :=
  let s1 := modCtx s id (restoreWait q)
  match getCtx s1 id with
  | none => s1
  | some c => takeTrap s1 c { t with age := c.ageAt q }

/-- The place of the first post that is due in an order of ops: its instruction and every earlier one have completed
(R71). -/
def dueFrom (f : Op → Bool) : Nat → List Op → Option Nat
  | _, [] => none
  | k, o :: l => if !o.done then none else if o.post != 0 && f o then some k else dueFrom f (k + 1) l

/-- A due post of the sequencer is held because its queue is at 63 (R71). -/
def Ctx.postHeld (c : Ctx) (q : Seqr) : Bool := (dueFrom (fun o => c.tok o.post.toNat == 63) 0 (c.seq q).ops).isSome

/-- An op that lets nothing further issue: a trap after it, a matrix instruction whose enabled exceptions are not known
yet, or a fence (R44, R81, R221). -/
def Op.blocks (o : Op) : Bool :=
  o.trap.isSome || (o.kind == .matrix && !o.done && (o.ena &&& 0b00101#5) != 0)
    || (match o.kind with | .fence _ => !o.done | _ => false)

/-- The sequencer may issue, apart from its wait and its unit (R81, R255, R260). -/
def Ctx.canIssue (c : Ctx) (q : Seqr) : Bool :=
  let x := c.seq q
  c.life != .retired && !c.cut && !c.halting && (c.replay.isNone || q == .X || q == .S) && x.run == .running && !x.atEnd
    && x.hold.isNone && !x.ops.any Op.blocks && !c.postHeld q
    && (match c.frame with | none => true | some _ => c.inHandler q)
    && !c.pending.any (fun t => !t.imprec && c.frames.length ≤ t.depth) && (c.frame.isSome || !c.headerBad)

/-- The older of two traps, by issue and then in the order X, L, C, S (R260). -/
def TrapReq.before (a b : TrapReq) : Bool := a.age < b.age || (a.age == b.age && seqIndex a.seq ≤ seqIndex b.seq)

def oldestTrap : List TrapReq → Option TrapReq
  | [] => none
  | t :: l =>
    match oldestTrap l with
    | none => some t
    | some u => if t.before u then some t else some u

/-- The imprecise trap that waits for this sequencer's next instruction: that of its oldest one (R252, R260). An
instruction that was held has issued already (R73). -/
def Ctx.lateTrap (c : Ctx) (q : Seqr) : Option TrapReq :=
  if (c.seq q).waited.isSome then none
  else oldestTrap (c.pending.filter fun t => t.imprec && t.seq == q && c.frames.length ≤ t.depth)

/-- What an instruction asks before it may issue: well-formed (check 1), its sequencers (check 2), further queues (check
3), and its permission (check 4) (R95). -/
structure Form where
  wf    : Bool
  /-- the scalar registers that it reads or writes -/
  regs  : List SReg
  seqs  : List Seqr
  queue : Bool
  perm  : Bool
  deriving DecidableEq, Repr

/-- The first of checks 1 to 4 that fails (R95). -/
def formTrap (f : Form) (h : Hdr) (q : Seqr) : Option Nat :=
  if !f.wf then some 0x01
  else if !f.seqs.contains q then some 0x02
  else if !(waitsAt h.wq.toNat q && postsFrom h.pq.toNat q && f.queue) then some 0x0F
  else if !f.perm then some 0x0B
  else none

def Ctx.guardsHold (c : Ctx) (q : Seqr) (h : Hdr) : Bool :=
  (c.rG q h.ga != h.gai) && (c.rG q h.gb != h.gbi)

/-- The wait of the instruction would succeed (R71). -/
def Ctx.waitOk (c : Ctx) (q : Seqr) (h : Hdr) : Bool := h.wq == 0 || (c.seq q).waited.isSome || c.tok h.wq.toNat != 0

/-- The handlers that a transfer's instruction was inside when it issued. -/
def Ctx.xferDepth (c : Ctx) (q : Seqr) (id : Nat) : Nat :=
  (((c.seq q).ops.find? fun o => match o.kind with | .transfer i | .wld _ i => i == id | _ => false).map fun o =>
    o.depth).getD 0

/-- The set-aside copies that belong to the instructions of a sequencer that issued inside the given handlers. -/
def Ctx.bankLevel (c : Ctx) (q : Seqr) (depth : Nat) : Nat :=
  ((c.frames.drop (c.frames.length - depth)).filter fun f => f.saves.any fun v => v.seq == q).length

/-- A register of a list awaits the status of a SCOPY of the sequencer (R81). A SCOPY from outside a handler writes the
copies of s24 to s31 that the handler set aside. -/
def Ctx.busyReg (c : Ctx) (q : Seqr) (rs : List SReg) : Bool :=
  c.xfers.any fun x =>
    match x.kind with
    | .scopy d .. =>
      x.seq == q && d != 0 && rs.contains d
        && (d.toNat < 24 || 31 < d.toNat || c.bankLevel q (c.xferDepth q x.id) == (c.seq q).banks.length)
    | _ => false

/-- A scalar register written for an instruction that issued inside the given number of handlers (R256). -/
def Ctx.wSAt (c : Ctx) (q : Seqr) (depth : Nat) (r : SReg) (v : Word) : Ctx :=
  let n := (c.seq q).banks.length
  let k := c.bankLevel q depth
  if 24 ≤ r.toNat ∧ r.toNat < 32 ∧ k < n then
    c.modSeq q fun x =>
      { x with banks := x.banks.modify (n - 1 - k) fun b => { b with sreg := b.sreg.set (r.toNat - 24) v } }
  else c.wS q r v

/-- One instruction issued at the current sequencer, in the order of R95 and R71: an imprecise trap that waits for it;
readiness; checks 1 to 4; the wait; the guards; the body. A slot without a context issues nothing, and a sequencer that is
not ready leaves the state as it is. sc is the scope of the instruction's post (R72). An instruction that issued and then
traps has had its port's turn (R80). -/
def issue (s : State) (h : Hdr) (form : Ctx → Form) (body : Ctx → Seqr → Act) (sc : Scope := .ctx) : Answer :=
  let id := ctxOf s.cur
  let q := s.cur.seq
  match getCtx s id with
  | none => notNow s
  | some c =>
    if !c.canIssue q then .next s
    else
      match c.lateTrap q with
      | some t => .next (takeTrap (modCtx s id fun c => { c with pending := c.pending.erase t }) c t)
      | none =>
        match formTrap (form c) h q with
        | some cause => .next (trapBefore s id q (mkTrap q cause 0 0))
        | none =>
          if !c.waitOk q h || c.busyReg q (form c).regs then .next s
          else if !c.guardsHold q h then .next (finish s id q h .plain Exc.none none none false sc)
          else
            match body c q with
            | .done s' k e n => .next (finish s' id q h k e none n false sc)
            | .quiet s' e => .next (finish s' id q h .plain e none none true)
            | .posts s' k p => .next (finish s' id q { h with pq := p } k Exc.none none none false sc)
            | .trap s' cause detail addr => .next (trapBefore (rotate s' id q h.yld) id q (mkTrap q cause detail addr))
            | .late s' => .next (trapBefore (rotate s' id q h.yld) id q { mkTrap q 0x12 0 0 with imprec := true })
            | .after s' cause detail => .next (finish s' id q h .plain Exc.none (some (mkTrap q cause detail 0)) none)
            | .hold s' w => .next (holdAt s' id q h w)
            | .wait => .next s
            | .waitRel r => .next (modSeq s id q fun x => { x with relWait := some r })
            | .set s' => .next s'

/-- The forms of R95 most instructions have: legal on the given sequencers, in any context. -/
def anyCtx (i : Instr) (seqs : List Seqr) : Ctx → Form := fun _ =>
  { wf := checkOne i, regs := scalarRegs i, seqs := seqs, queue := true, perm := true }

/-- Not in a neutral context (R168). -/
def notNeutral (i : Instr) (seqs : List Seqr) : Ctx → Form := fun c =>
  { wf := checkOne i, regs := scalarRegs i, seqs := seqs, queue := true, perm := c.neutral.isNone }

/-- A plain effect on the context, completed at INSTRUCTION_COMPLETE. -/
def effect (s : State) (id : CtxId) (f : Ctx → Ctx) : Act := .done (modCtx s id f) .plain Exc.none none

/-! Holding on a fault (R245, R246) -/

/-- Entries of one queue: stage 2, or stage 1 of a polder. -/
def inQueue (i : FaultInfo) (e : FaultEntry) : Bool :=
  e.queued && e.info.stage2 == i.stage2 && (i.stage2 || e.info.polder == i.polder)

/-- One entry for each stage and page, by identifier for stage 1 and by polder for stage 2. -/
def sameFault (i : FaultInfo) (e : FaultEntry) : Bool :=
  e.info.stage2 == i.stage2 && e.info.page == i.page
    && (if i.stage2 then e.info.polder == i.polder else e.info.asid == i.asid)

/-- The lowest token that no outstanding entry of the same queue's kind holds. -/
def freeToken (s : State) (i : FaultInfo) : BitVec 8 :=
  let used := (s.faults.filter fun e => e.info.stage2 == i.stage2 && (i.stage2 || e.info.polder == i.polder)).map
    fun e => e.token.toNat
  BitVec.ofNat 8 (((List.range 256).find? fun t => !used.contains t).getD 0)

/-- A fault is queued, attaches to the outstanding entry of its page, or waits for room (R246). The answer is
what holds the access. -/
def queueFault (s : State) (i : FaultInfo) (w : Waiter) (waited : Bool) : State × FaultRef :=
  let ref (e : Option Nat) : FaultRef := { entry := e, va := BitVec.ofNat 64 i.va, kind := i.kind }
  match s.faults.find? (sameFault i) with
  | some e =>
    ({ s with faults := s.faults.map fun x => if x.id = e.id then { x with waiters := x.waiters ++ [w] } else x }, ref (some e.id))
  | none =>
    let held := (s.faults.filter fun e => e.info.stage2 == i.stage2 && (i.stage2 || e.info.polder == i.polder)).length
    if 256 ≤ held then ({ s with roomWait := s.roomWait ++ [(i, w)] }, ref none)
    else
      let waiting := waited || s.roomWait.any fun x => x.1.stage2 == i.stage2 && (i.stage2 || x.1.polder == i.polder)
      let e : FaultEntry :=
        { id := s.nextFault, info := i, token := freeToken s i, waiting := waiting, queued := true, waiters := [w] }
      ({ s with faults := s.faults ++ [e], nextFault := s.nextFault + 1 }, ref (some e.id))

/-- A sequencer held on a fault. -/
def faultHold (s : State) (id : CtxId) (q : Seqr) (i : FaultInfo) : Act :=
  let r := queueFault s i (.seq id q) false
  .hold r.1 (.fault r.2)

/-- An access that failed its checks, for an instruction whose faults hold its sequencer (R245). s has what the access left
before it stopped. -/
def stopAct (s : State) (id : CtxId) (q : Seqr) : Checked → Act
  | .ok _ => .wait
  | .trap cause va => .trap s cause 0 (if cause = 0x12 then 0 else BitVec.ofNat 64 va)
  | .fault i => faultHold s id q i
  | .fill r => .hold s (.fill r)
  | .held => .wait

/-- The same of an instruction that is no load: uncorrectable data that it consumed traps imprecisely (R252). -/
def Act.noLoad : Act → Act
  | .trap s 0x12 _ _ => .late s
  | a => a

/-- A store or reduction whose write is lost to uncorrectable data or a link that is down: it completes without effect, and
its context traps imprecisely (R252, R275). -/
def lostWrite (s : State) (c : Ctx) (q : Seqr) : Act :=
  .done (raiseAfter s c (mkTrap q 0x12 0 0)) .plain Exc.none none

/-- An access that failed its checks, for a store or reduction. -/
def stopWrite (s : State) (c : Ctx) (q : Seqr) (r : Checked) : Act :=
  match r with
  | .trap 0x12 _ => lostWrite s c q
  | r => stopAct s c.id q r

end Sys2Proof.Machine
end

