-- ==== Sys2Proof/Machine/Fabric.lean ====
section
/-! DEFINITION. Requests that leave over the Felened fabric, and the responses that instructions wait for (R302 to
R305). -/

namespace Sys2Proof.Machine

/-- The endpoint and guest-physical address that a fabric address names (R304). -/
def fabEndpoint (a : Nat) : Nat := (a - Config.fabricBase) / 2 ^ 39
def fabOffset (a : Nat) : Nat := (a - Config.fabricBase) % 2 ^ 39

def fabIdValid (s : State) : Bool := s.fabid.getLsbD 63
def fabIdOf (s : State) : BitVec 16 := (s.fabid.extractLsb' 0 10).setWidth 16

/-- The ports of a routing entry (R305). -/
def routeMask (s : State) (ix : Nat) : BitVec 12 := (alGet s.froute ix).getD 0

/-- The port that reaches an endpoint. -/
def routePort (s : State) (e : Nat) : Option Nat := (List.range 12).find? fun p => (routeMask s e).getLsbD p

/-- A tag may pass a port (R302). -/
def tagAllowed (s : State) (port : Nat) (tag : BitVec 8) : Bool := (s.fpmap.getD port 0).getLsbD tag.toNat

/-- A drop logged (R303): DIR, PORT, PTAG and SOURCE. -/
def logDrop (s : State) (ingress : Bool) (port : Nat) (tag : BitVec 8) (source : Nat) : State :=
  let w : Word :=
    (BitVec.ofNat 64 (if ingress then 1 else 0) <<< 61) ||| (BitVec.ofNat 64 (port % 16) <<< 57)
      ||| (tag.setWidth 64 <<< 49) ||| BitVec.ofNat 64 (source % 1024)
  { s with fablog := s.fablog.push 16 (w, 0) }

/-- What stops a request at its own device: the trap, with the drop logged (R302, R305). -/
def fabEgress (s : State) (p : BitVec 4) (a : Nat) : Except (State × Nat) Nat :=
  if !fabIdValid s then .error (s, 0x12)
  else
    match routePort s (fabEndpoint a) with
    | none => .error (s, 0x12)
    | some port =>
      if s.fabDown.contains port then .error (s, 0x12)
      else
        let tag := (getPolder s p).ptag
        if tagAllowed s port tag then .ok port
        else .error (logDrop s false port tag (fabEndpoint a), 0x0B)

/-- A request packet of a polder. -/
def fabPacket (s : State) (p : BitVec 4) (type : BitVec 8) (a n : Nat) (op : BitVec 8) (data : List Byte) : Packet :=
  { type := type, ptag := (getPolder s p).ptag, flits := (data.length + 63) / 64, mc := false
    dest := BitVec.ofNat 16 (fabEndpoint a), src := fabIdOf s, rtag := BitVec.ofNat 64 s.nextRtag
    addr := BitVec.ofNat 64 (fabOffset a), size := n, op := op, data := data }

/-- One request sent: the port, the packet, and who waits for its response. -/
def fabSend (s : State) (id : CtxId) (q : Seqr) (x : Option Nat) (port a va n : Nat) (isRead : Bool) (p : Packet) :
    State × Word :=
  ({ s with
     outbox := s.outbox ++ [.packet port p]
     nextRtag := s.nextRtag + 1
     fabReqs := s.fabReqs ++
       [{ rtag := p.rtag, ctx := id, seq := q, xfer := x, port := port, addr := a, va := va, size := n, isRead := isRead
          since := s.cycle }] },
   p.rtag)

/-- Every piece of a list passes egress, or the first that does not. -/
def fabCheckAll (s : State) (p : BitVec 4) : List Nat → Except (State × Nat) Unit
  | [] => .ok ()
  | a :: l =>
    match fabEgress s p a with
    | .error e => .error e
    | .ok _ => fabCheckAll s p l

/-- Read requests for pieces (address, length, virtual address), and their tags. -/
def fabReads (s : State) (id : CtxId) (q : Seqr) (x : Option Nat) (p : BitVec 4) :
    List (Nat × Nat × Nat) → State × List Word
  | [] => (s, [])
  | (a, n, va) :: l =>
    match fabEgress s p a with
    | .error e => (e.1, [])
    | .ok port =>
      let r := fabSend s id q x port a va n true (fabPacket s p 1 a n 0 [])
      let t := fabReads r.1 id q x p l
      (t.1, r.2 :: t.2)

/-- Write requests for pieces (address, bytes, virtual address), and their tags. -/
def fabWrites (s : State) (id : CtxId) (q : Seqr) (x : Option Nat) (p : BitVec 4) :
    List (Nat × List Byte × Nat) → State × List Word
  | [] => (s, [])
  | (a, bs, va) :: l =>
    match fabEgress s p a with
    | .error e => (e.1, [])
    | .ok port =>
      let r := fabSend s id q x port a va bs.length false (fabPacket s p 2 a bs.length 0 bs)
      let t := fabWrites r.1 id q x p l
      (t.1, r.2 :: t.2)

/-- Bytes that a response brought are all there. -/
def fabHas (fab : List Host.Cell) (a n : Nat) : Bool := (List.range n).all fun i => (alGet fab (a + i)).isSome

def fabBytes (fab : List Host.Cell) (a n : Nat) : List Byte := (List.range n).map fun i => (alGet fab (a + i)).getD 0

/-- Bytes put where a waiting instruction or transfer finds them. -/
def fabPut (fab : List Host.Cell) (a : Nat) : List Byte → List Host.Cell
  | [] => fab
  | b :: l => fabPut (alSet fab a b) (a + 1) l

def Seg.fabric (x : Seg) : Bool := physKind x.pa == .fabric

/-- The bytes of translated pieces, those of the fabric from what responses brought. -/
def segsReadFab (s : State) (fab : List Host.Cell) : List Seg → List Byte
  | [] => []
  | x :: l =>
    (if x.fabric then fabBytes fab x.pa x.len else physRead s x.key x.pa x.len) ++ segsReadFab s fab l

/-- Pieces of the fabric with the bytes that go to them, and the others. -/
def splitWrites : List Seg → List Byte → List (Seg × List Byte)
  | [], _ => []
  | x :: l, bs => (x, bs.take x.len) :: splitWrites l (bs.drop x.len)

end Sys2Proof.Machine
end

