-- ==== Sys2Proof/Machine/Float.lean ====
section
/-! DEFINITION. Floating-point values as exact numbers, their rounding, and the arithmetic and conversions of the
vector unit (R26, R36 to R40, R45 to R52). -/

namespace Sys2Proof.Machine

/-- The shape of a floating-point format (R26). Only E4M3 has no infinity. -/
structure FP where
  /-- fraction bits -/
  fb : Nat
  /-- exponent bits -/
  eb : Nat
  bias : Nat
  inf : Bool
  deriving DecidableEq, Repr

def fpFp32 : FP := { fb := 23, eb := 8, bias := 127, inf := true }
def fpBf16 : FP := { fb := 7, eb := 8, bias := 127, inf := true }
def fpE5m2 : FP := { fb := 2, eb := 5, bias := 15, inf := true }
def fpE4m3 : FP := { fb := 3, eb := 4, bias := 7, inf := false }

/-- The shape of a floating-point tag; other tags never reach it. -/
def fpOf : Fmt → FP
  | .bf16 => fpBf16
  | .e4m3 => fpE4m3
  | .e5m2 => fpE5m2
  | _ => fpFp32

def FP.width (p : FP) : Nat := p.fb + p.eb + 1
def FP.signBit (p : FP) : Nat := p.fb + p.eb
/-- The largest finite magnitude, as bits (R26). -/
def FP.maxBits (p : FP) : Nat :=
  if p.inf then (2 ^ p.eb - 1) * 2 ^ p.fb - 1 else 2 ^ (p.eb + p.fb) - 2
/-- The bits of infinity (formats that have one). -/
def FP.infBits (p : FP) : Nat := (2 ^ p.eb - 1) * 2 ^ p.fb
def FP.sign (p : FP) (s : Bool) : Nat := if s then 2 ^ p.signBit else 0

/-- A value read from a floating-point format: a NaN with its sign and fraction, an infinity, or the exact number
(-1)^s * m * 2^e. -/
inductive FVal where
  | nan (s : Bool) (frac : Nat)
  | inf (s : Bool)
  | fin (s : Bool) (m : Nat) (e : Int)
  deriving DecidableEq, Repr

def FVal.isNan : FVal → Bool
  | .nan _ _ => true
  | _ => false

def FVal.isInf : FVal → Bool
  | .inf _ => true
  | _ => false

def FVal.isZero : FVal → Bool
  | .fin _ 0 _ => true
  | _ => false

def FVal.neg : FVal → Bool
  | .nan s _ => s
  | .inf s => s
  | .fin s _ _ => s

/-- The value of an encoding (R26). -/
def decodeF (p : FP) (x : Nat) : FVal :=
  let f := x % 2 ^ p.fb
  let e := x / 2 ^ p.fb % 2 ^ p.eb
  let s := x / 2 ^ p.signBit % 2 == 1
  if e = 2 ^ p.eb - 1 ∧ p.inf then (if f = 0 then .inf s else .nan s f)
  else if e = 2 ^ p.eb - 1 ∧ f = 2 ^ p.fb - 1 then .nan s f
  else if e = 0 then .fin s f (1 - (p.bias : Int) - p.fb)
  else .fin s (2 ^ p.fb + f) ((e : Int) - p.bias - p.fb)

/-- A subnormal FP32 or BF16 number read under FTZ is a zero of its sign (R38). -/
def flushIn (p : FP) (ftz : Bool) (v : FVal) : FVal :=
  match v with
  | .fin s m e => if ftz && p.eb == 8 && m < 2 ^ p.fb then .fin s 0 e else v
  | _ => v

def readF (p : FP) (ftz : Bool) (x : Nat) : FVal := flushIn p ftz (decodeF p x)

/-- floor(log2 m) + 1; 0 for 0. -/
def bitLen (m : Nat) : Nat := if m = 0 then 0 else Nat.log2 m + 1

/-- m * 2^k rounded to an integer in a mode, and whether it was inexact. -/
def roundShift (mode : RMode) (s : Bool) (m : Nat) (k : Int) : Nat × Bool :=
  if 0 ≤ k then (m <<< k.toNat, false)
  else
    let d := (-k).toNat
    let q := m >>> d
    let r := m - (q <<< d)
    if r = 0 then (q, false)
    else
      let half := 1 <<< (d - 1)
      let up :=
        match mode with
        | .rne => half < r || (r == half && q % 2 == 1)
        | .rtz => false
        | .rup => !s
        | .rdn => s
      (if up then q + 1 else q, true)

/-- The magnitude delivered on overflow without .sat in a format that has infinities (R50). -/
def overflowBits (p : FP) (mode : RMode) (s : Bool) : Nat :=
  match mode with
  | .rne => p.infBits
  | .rtz => p.maxBits
  | .rup => if s then p.maxBits else p.infBits
  | .rdn => if s then p.infBits else p.maxBits

/-- A nonzero exact number rounded into a format: the encoding and the exceptions (R39, R50). FTZ flushes a result
that is subnormal after rounding (R38); it acts on FP32 and BF16 alone. -/
def roundF (p : FP) (mode : RMode) (ftz sat : Bool) (s : Bool) (m : Nat) (e : Int) : Nat × Exc :=
  let top : Int := e + bitLen m - 1
  let emin : Int := 1 - (p.bias : Int)
  let q : Int := (if top < emin then emin else top) - p.fb
  let (n, inexact) := roundShift mode s m (e - q)
  let bits := ((q - (emin - p.fb)).toNat <<< p.fb) + n
  if p.maxBits < bits then
    let x : Exc := { Exc.none with ov := true, nx := true }
    if sat then (p.sign s + p.maxBits, x)
    else if p.inf then (p.sign s + overflowBits p mode s, x)
    else (2 ^ p.signBit - 1, x.or (Exc.gen 6))
  else
    let (n', _) := roundShift mode s m ((p.fb : Int) + 1 - bitLen m)
    let tiny := top < emin - 1 || (top == emin - 1 && n' < 2 ^ (p.fb + 1))
    if ftz && p.eb == 8 && 0 < bits && bits < 2 ^ p.fb then
      (p.sign s, { Exc.none with uf := true, nx := true })
    else
      (p.sign s + bits, { Exc.none with uf := tiny && inexact, nx := inexact })

/-- The NaN that the machine generates with a cause (R45). -/
def genNan (p : FP) (c : Nat) : Nat :=
  if p.fb = 23 then 0x7FC00000 + c
  else if p.fb = 7 then 0x7FC0 + c
  else if p.fb = 2 then 0x7E else 0x7F

/-- A NaN written in the format it was read in: sign and payload kept, the quiet bit set (R26, R46). -/
def quietNan (p : FP) (s : Bool) (frac : Nat) : Nat :=
  p.sign s + p.infBits + (frac ||| 2 ^ (p.fb - 1))

/-- A NaN carried into another format (R46). -/
def moveNan (src dst : FP) (s : Bool) (frac : Nat) : Nat :=
  if src.fb = dst.fb then quietNan dst s frac
  else if dst.eb ≠ 8 then dst.sign s + (if dst.fb = 2 then 0x7E else 0x7F)
  else if src.eb ≠ 8 then dst.sign s + genNan dst 0
  else dst.sign s + dst.infBits + 2 ^ (dst.fb - 1) + frac % 64

/-- An exact number, a zero or an infinity written in a format. -/
def writeF (p : FP) (mode : RMode) (ftz sat : Bool) : FVal → Nat × Exc
  | .nan s f => (quietNan p s f, Exc.none)
  | .inf s => (p.sign s + p.infBits, Exc.none)
  | .fin s 0 _ => (p.sign s, Exc.none)
  | .fin s m e => roundF p mode ftz sat s m e

/-- The exact sum of two finite values; an exact zero takes the sign of R40. -/
def addFin (mode : RMode) (s1 : Bool) (m1 : Nat) (e1 : Int) (s2 : Bool) (m2 : Nat) (e2 : Int) : FVal :=
  if m1 = 0 ∧ m2 = 0 then .fin (if s1 = s2 then s1 else mode == .rdn) 0 0
  else
    let e := min e1 e2
    let a := m1 <<< (e1 - e).toNat
    let b := m2 <<< (e2 - e).toNat
    if s1 = s2 then .fin s1 (a + b) e
    else if a = b then .fin (mode == .rdn) 0 0
    else if b < a then .fin s1 (a - b) e
    else .fin s2 (b - a) e

/-- The exact product of two finite values. -/
def mulFin (s1 : Bool) (m1 : Nat) (e1 : Int) (s2 : Bool) (m2 : Nat) (e2 : Int) : FVal :=
  .fin (s1 != s2) (m1 * m2) (e1 + e2)

/-- The sum of two values without a NaN, or the cause of the NaN that it generates (R47). -/
def addVal (mode : RMode) : FVal → FVal → Except Nat FVal
  | .inf s1, .inf s2 => if s1 = s2 then .ok (.inf s1) else .error 3
  | .inf s, _ => .ok (.inf s)
  | _, .inf s => .ok (.inf s)
  | .fin s1 m1 e1, .fin s2 m2 e2 => .ok (addFin mode s1 m1 e1 s2 m2 e2)
  | _, _ => .error 1

/-- The product of two values without a NaN, or the cause of the NaN that it generates (R47). -/
def mulVal : FVal → FVal → Except Nat FVal
  | .inf s1, .inf s2 => .ok (.inf (s1 != s2))
  | .inf s1, .fin s2 m _ => if m = 0 then .error 4 else .ok (.inf (s1 != s2))
  | .fin s1 m _, .inf s2 => if m = 0 then .error 4 else .ok (.inf (s1 != s2))
  | .fin s1 m1 e1, .fin s2 m2 e2 => .ok (mulFin s1 m1 e1 s2 m2 e2)
  | _, _ => .error 1

/-- The first NaN among values in operand order, written in their format (R46). -/
def firstNan (p : FP) : List FVal → Option Nat
  | [] => none
  | .nan s f :: _ => some (quietNan p s f)
  | _ :: l => firstNan p l

def finishF (p : FP) (mode : RMode) (ftz : Bool) : Except Nat FVal → Nat × Exc
  | .ok v => writeF p mode ftz false v
  | .error c => (genNan p c, Exc.gen c)

/-- What an arithmetic instruction captures at issue (R42). -/
structure FCtl where
  mode : RMode
  ftz  : Bool
  deriving DecidableEq, Repr

def fNeg : FVal → FVal
  | .nan s f => .nan s f
  | .inf s => .inf (!s)
  | .fin s m e => .fin (!s) m e

/-- Addition of the vector unit. -/
def fAdd (p : FP) (c : FCtl) (a b : Nat) : Nat × Exc :=
  let x := readF p c.ftz a
  let y := readF p c.ftz b
  match firstNan p [x, y] with
  | some n => (n, Exc.none)
  | none => finishF p c.mode c.ftz (addVal c.mode x y)

/-- Subtraction of the vector unit; a NaN operand keeps its sign (R46). -/
def fSub (p : FP) (c : FCtl) (a b : Nat) : Nat × Exc :=
  let x := readF p c.ftz a
  let y := readF p c.ftz b
  match firstNan p [x, y] with
  | some n => (n, Exc.none)
  | none => finishF p c.mode c.ftz (addVal c.mode x (fNeg y))

def fMul (p : FP) (c : FCtl) (a b : Nat) : Nat × Exc :=
  let x := readF p c.ftz a
  let y := readF p c.ftz b
  match firstNan p [x, y] with
  | some n => (n, Exc.none)
  | none => finishF p c.mode c.ftz (mulVal x y)

/-- The fused multiply-add a * b + c, rounded once (R47). -/
def fFma (p : FP) (k : FCtl) (a b c : Nat) : Nat × Exc :=
  let x := readF p k.ftz a
  let y := readF p k.ftz b
  let z := readF p k.ftz c
  match firstNan p [x, y, z] with
  | some n => (n, Exc.none)
  | none =>
    match mulVal x y with
    | .error e => (genNan p e, Exc.gen e)
    | .ok m => finishF p k.mode k.ftz (addVal k.mode m z)

/-- Compare m1 * 2^e1 with m2 * 2^e2. -/
def magLt (m1 : Nat) (e1 : Int) (m2 : Nat) (e2 : Int) : Bool :=
  let e := min e1 e2
  m1 <<< (e1 - e).toNat < m2 <<< (e2 - e).toNat

/-- The order of numbers without a NaN; the two zeros are equal. -/
def fvLt : FVal → FVal → Bool
  | .inf s1, .inf s2 => s1 && !s2
  | .inf s1, _ => s1
  | _, .inf s2 => !s2
  | .fin s1 m1 e1, .fin s2 m2 e2 =>
    if m1 = 0 ∧ m2 = 0 then false
    else
      match s1, s2 with
      | false, false => magLt m1 e1 m2 e2
      | true, true => magLt m2 e2 m1 e1
      | true, false => true
      | false, true => false
  | _, _ => false

def fvEq (a b : FVal) : Bool := !fvLt a b && !fvLt b a

/-- VMIN and VMAX order -0 below +0 (R40); a flushed source is delivered as the zero it was read as (R38). -/
def fMinMax (mx : Bool) (p : FP) (c : FCtl) (a b : Nat) : Nat :=
  let x := readF p c.ftz a
  let y := readF p c.ftz b
  match firstNan p [x, y] with
  | some n => n
  | none =>
    let lt := fvLt x y || (x.isZero && y.isZero && x.neg && !y.neg)
    let v := if lt != mx then (x, a) else (y, b)
    if v.1.isZero then p.sign v.1.neg else v.2

/-- Conversion between floating-point formats (R46, R48 to R51). -/
def cvtFF (src dst : FP) (c : FCtl) (sat : Bool) (a : Nat) : Nat × Exc :=
  match readF src c.ftz a with
  | .nan s f =>
    let k := f % 8
    let rec8 := dst.eb != 8 && src.eb == 8 && 1 ≤ k && k ≤ 6
    (moveNan src dst s f, if rec8 then Exc.cause k else Exc.none)
  | .inf s =>
    if dst.eb = 8 then (dst.sign s + dst.infBits, Exc.none)
    else if sat then (dst.sign s + dst.maxBits, Exc.none)
    else if dst.inf then (dst.sign s + dst.infBits, Exc.none)
    else (genNan dst 6, Exc.gen 6)
  | .fin s 0 _ => (dst.sign s, Exc.none)
  | .fin s m e => roundF dst c.mode c.ftz sat s m e

/-- The range of an integer format (R28). -/
def intMin (f : Fmt) : Int :=
  match f with
  | .i6 => -32
  | f => if isSigned f then -(2 ^ (fmtWidth f - 1) : Nat) else 0

def intMax (f : Fmt) : Int :=
  match f with
  | .i6 => 31
  | f => (2 ^ (if isSigned f then fmtWidth f - 1 else fmtWidth f) : Nat) - 1

/-- The number that an element of an integer format stands for (R28, R29). -/
def intVal (f : Fmt) (x : Nat) : Int :=
  let w := fmtWidth f
  if isSigned f && 2 ^ (w - 1) ≤ x then (x : Int) - (2 ^ w : Nat) else x

/-- An element from a number: its low bits in two's complement; I6 is sign-extended from bit 5 (R29, R52). -/
def intBits (f : Fmt) (v : Int) : Nat :=
  match f with
  | .i6 =>
    let x := (v % 64).toNat
    if 32 ≤ x then x + 192 else x
  | f => (v % (2 ^ fmtWidth f : Nat)).toNat

def clampInt (f : Fmt) (v : Int) : Int := if v < intMin f then intMin f else if intMax f < v then intMax f else v

/-- A floating-point source converted to an integer format (R51, R52). -/
def cvtFI (src : FP) (dst : Fmt) (c : FCtl) (a : Nat) : Nat × Exc :=
  let nv : Exc := { Exc.none with nv := true }
  match readF src c.ftz a with
  | .nan _ _ => (0, nv)
  | .inf s => (intBits dst (if s then intMin dst else intMax dst), nv)
  | .fin s m e =>
    let (n, inexact) := roundShift c.mode s m e
    let v : Int := if s then -(n : Int) else n
    if v < intMin dst then (intBits dst (intMin dst), nv)
    else if intMax dst < v then (intBits dst (intMax dst), nv)
    else (intBits dst v, { Exc.none with nx := inexact })

/-- An integer source converted to a floating-point format (R52). -/
def cvtIF (dst : FP) (c : FCtl) (sat : Bool) (v : Int) : Nat × Exc :=
  if v = 0 then (0, Exc.none) else roundF dst c.mode c.ftz sat (v < 0) v.natAbs 0

/-- Integer to integer (R52). -/
def cvtII (dst : Fmt) (sat : Bool) (v : Int) : Nat := intBits dst (if sat then clampInt dst v else v)

/-- One element converted from format src to format dst (R49). -/
def cvtElem (src dst : Fmt) (c : FCtl) (sat : Bool) (a : Nat) : Nat × Exc :=
  match isFloat src, isFloat dst with
  | true, true => cvtFF (fpOf src) (fpOf dst) c sat a
  | true, false => cvtFI (fpOf src) dst c a
  | false, true => cvtIF (fpOf dst) c sat (intVal src a)
  | false, false => (cvtII dst sat (intVal src a), Exc.none)

/-- Round to nearest even into FP32 with subnormals kept (rne32, R54); the flag is OF. -/
def rne32 (v : FVal) : Nat × Bool :=
  let r := writeF fpFp32 .rne false false v
  (r.1, r.2.ov)

/-- add32 of R54: FP32 addition that keeps the first NaN, with NV and OF as R56 sets them. -/
def add32 (a b : Nat) : Nat × Exc :=
  let x := decodeF fpFp32 a
  let y := decodeF fpFp32 b
  match firstNan fpFp32 [x, y] with
  | some n => (n, Exc.none)
  | none =>
    match addVal .rne x y with
    | .error _ => (genNan fpFp32 3, Exc.gen 3)
    | .ok v =>
      let r := rne32 v
      (r.1, { Exc.none with ov := r.2 })

/-- Single-precision FP32 addition of ATOM and VREDX .fadd, which ignore SYS.FPCR (R38, R328). -/
def faddMem (p : FP) (a b : Nat) : Nat × Exc := fAdd p { mode := .rne, ftz := false } a b

end Sys2Proof.Machine
end

