-- ==== Sys2Proof/Machine/Access.lean ====
section
/-! DEFINITION. How instructions read, write and atomically update memory: the checks, the side log, the fabric, poison,
host atomics and atomic credits (R191, R203, R216, R226, R228, R233, R245, R248, R274, R304, R307, R328, R415). -/

namespace Sys2Proof.Machine

/-! The side log (R248) -/

/-- The 64-byte lines, by virtual address, that an entry touches. -/
def SideEntry.lines (e : SideEntry) : List Nat :=
  e.stores.flatMap (fun p => spanLines p.1.toNat p.2.length)
    ++ e.reds.flatMap (fun r => spanLines r.2.2.1.toNat (fmtWidth r.2.1 / 8))

/-- Side-log entries of a context. -/
def ctxSide (s : State) (id : CtxId) : List SideEntry := (getCore s id.core).side.filter fun e => e.slot == id.slot

/-- A pending entry of the context touches a line of the spans. -/
def sideTouches (s : State) (id : CtxId) (ps : List (Nat × Nat)) : Bool :=
  (ctxSide s id).any fun e => e.lines.any fun ln => ps.any fun p => p.1 / 64 ≤ ln && ln * 64 < p.1 + p.2

/-! Releases (R228) -/

def scopeRank (sc : Scope) : Nat := (scopeCode sc).toNat

/-- A reduction of the context that issued before the given place has elements that wait for credits, which are not
performed yet (R228, R307). -/
def Ctx.owesReds (c : Ctx) (age : Nat) : Bool :=
  [c.x, c.l, c.c, c.s].any fun x => x.owed.any (· < age)

/-- The conditions of R228 on a context as a whole for a release of the given place in its order of issue, apart from the
writing back of dirty pool lines: its side log is empty; from cluster scope on its earlier reductions have been performed;
at sys scope the fabric has acknowledged its writes. -/
def scopeReady (s : State) (c : Ctx) (age : Nat) (sc : Scope) : Bool :=
  (ctxSide s c.id).isEmpty && (scopeRank sc < 2 || !c.owesReds age)
    && (sc != .sys || !s.fabReqs.any fun r => r.ctx == c.id && !r.isRead)

/-- The conditions of R228 hold at a scope for a release that issues now, apart from the writing back of dirty pool
lines. -/
def releaseReady (s : State) (c : Ctx) (q : Seqr) (sc : Scope) : Bool :=
  (c.seq q).ops.all (fun o => o.done) && scopeReady s c (c.ageAt q) sc

/-! Program order (R211, R217, R225, R227) -/

/-- The elements of q's reductions that wait for credits. -/
def Ctx.waitingReds (c : Ctx) (q : Seqr) : List RedElem :=
  (c.seq q).ops.flatMap fun o => match o.kind with | .credit _ rest _ _ => rest | _ => []

/-- Pieces of an access of q that overlap bytes of its own earlier reductions, which are performed first: every RED counts
as class a0 (R211, R217). -/
def redsMeet (c : Ctx) (q : Seqr) (segs : List Seg) : Bool :=
  (c.waitingReds q).any fun e => segs.any fun x => e.seg.pa < x.pa + x.len && x.pa < e.seg.pa + e.seg.len

/-- An earlier write of q at sys scope has not been performed: it is in the side log, waits for credits, or is not
acknowledged. A later access at sys scope waits for it, since their total order agrees with program order (R227; DEDUCED, log
entry 86). -/
def sysOwed (s : State) (c : Ctx) (q : Seqr) : Bool :=
  ((ctxSide s c.id).any fun e => e.seq == q && e.scope == .sys)
    || (c.seq q).ops.any fun o => !o.done && (match o.kind with | .fabric _ b | .credit _ _ _ b => b | _ => false)

/-- Every dirty pool line of the device written back to the pool memory. -/
def flushRdc (s : State) : State := (s.dies.flatMap fun d => d.rdc).foldl rdcFlushLine s

/-- What a release that takes effect does at its scope (R228). -/
def releaseEffect (s : State) (sc : Scope) : State := if 5 ≤ scopeRank sc then flushRdc s else s

/-! Reads -/

/-- A load uses the L1 of its core: its scope is below cluster and its hint lets it allocate (R196, R197, R216). -/
def usesL1 (h : Hdr) (sc : Scope) : Bool := scopeRank sc < 2 && h.hint != 3

/-- An acquire at cluster scope or wider drops the core's L1 lines, but for the vaults' (R196). -/
def acquireL1 (s : State) (c : Ctx) (acq : Bool) (sc : Scope) : State :=
  if acq && 2 ≤ scopeRank sc then l1Drop s c.id.core true fun _ => true else s

/-- Fabric pieces whose bytes have not come yet: the requests leave and the sequencer is held (R304). -/
def fabricHold (s : State) (c : Ctx) (q : Seqr) (miss : List Seg) : Act :=
  let p := effPolder s c
  match miss.find? fun x => !(match fabEgress s p x.pa with | .ok _ => true | .error _ => false) with
  | some x =>
    match fabEgress s p x.pa with
    | .error e => .trap e.1 e.2 0 (if e.2 = 0x0B then BitVec.ofNat 64 x.va else 0)
    | .ok _ => .wait
  | none =>
    let r := fabReads s c.id q none p (miss.map fun x => (x.pa, x.len, x.va))
    .hold (modSeq r.1 c.id q fun x => { x with rtags := r.2 }) .fabric

/-- How an instruction reads: through the L1, under which HINT, at sys scope. -/
structure ReadMode where
  l1   : Bool := true
  hint : BitVec 2 := 0
  sys  : Bool := false
  deriving DecidableEq, Repr

/-- The mode of a load at a scope. -/
def readMode (h : Hdr) (sc : Scope) : ReadMode := { l1 := usesL1 h sc, hint := h.hint, sys := sc == .sys }

/-- Pieces of memory (address and length) read for an instruction whose address and alignment checks have passed: the
state after the read, and the bytes in order. -/
def readPieces (s : State) (c : Ctx) (q : Seqr) (acc : Acc) (ps : List (Nat × Nat)) (m : ReadMode) :
    Except Act (State × List Byte) :=
  if sideTouches s c.id ps || (m.sys && sysOwed s c q) then .error .wait
  else
    let g := hintAgent s c m.hint
    let gs := ps.flatMap fun p => granules (p.2 / 4096 + 2) p.1 p.2
    match checkGranules s g acc gs with
    | .ok segs =>
      let fab := (c.seq q).fab
      let miss := segs.filter fun x => x.fabric && !fabHas fab x.pa x.len
      if redsMeet c q segs then .error .wait
      else if miss ≠ [] then .error (fabricHold (touch s g acc gs) c q miss)
      else if segsPoisoned s (segs.filter fun x => !x.fabric) then .error (.trap (touch s g acc gs) 0x12 0 0)
      else .ok (noteAccess s g acc segs m.l1, segsReadFab s fab segs)
    | r => .error (stopAct (touch s g acc gs) c.id q r)

/-- One aligned read (R233). -/
def readMem (s : State) (c : Ctx) (q : Seqr) (a n al : Nat) (m : ReadMode := {}) : Except Act (State × List Byte) :=
  if !spanOk a n then .error (.trap s 0x08 0 (BitVec.ofNat 64 a))
  else if a % al ≠ 0 then .error (.trap s 0x09 0 (BitVec.ofNat 64 a))
  else readPieces s c q .read [(a, n)] m

/-! Writes -/

/-- Entries in use in a core's side log. -/
def sideUsed (s : State) (core : Nat) : Nat := (getCore s core).side.foldl (fun n e => n + e.size) 0

/-- A store or reduction retired into the side log, behind the fault that it met, if any (R245, R248). -/
def logSide (s : State) (c : Ctx) (e : SideEntry) (i : Option FaultInfo) : Act :=
  if 64 < sideUsed s c.id.core + e.size then .wait
  else
    let n := (getCore s c.id.core).nextSide
    let r : State × Option FaultRef :=
      match i with
      | none => (s, none)
      | some i => let f := queueFault s i (.side c.id.core n) false; (f.1, some f.2)
    let e := { e with id := n, slot := c.id.slot, fault := r.2 }
    .done (modCore r.1 c.id.core fun k => { k with side := k.side ++ [e], nextSide := n + 1 }) (.side n) Exc.none none

/-- Bytes written through translated pieces, those of the fabric as requests: the state and the requests' tags. -/
def writePieces (s : State) (c : Ctx) (q : Seqr) (g : Agent) (l : List (Seg × List Byte)) : State × List Word :=
  let here := l.filter fun p => !p.1.fabric
  let s1 := here.foldl (fun t p => segsWrite t g [p.1] p.2) s
  fabWrites s1 c.id q none (effPolder s c) ((l.filter fun p => p.1.fabric).map fun p => (p.1.pa, p.2, p.1.va))

/-- The first fabric piece that its own device does not let out. -/
def fabBlocked (s : State) (c : Ctx) (segs : List Seg) : Option (State × Nat × Nat) :=
  (segs.filter fun x => x.fabric).findSome? fun x =>
    match fabEgress s (effPolder s c) x.pa with
    | .ok _ => none
    | .error e => some (e.1, e.2, x.va)

def fabTrap (e : State × Nat × Nat) : Act :=
  .trap e.1 e.2.1 0 (if e.2.1 = 0x0B then BitVec.ofNat 64 e.2.2 else 0)

def fabricOr (tags : List Word) (sys : Bool) (k : OpKind) : OpKind := if tags = [] then k else .fabric tags sys

/-- How an instruction writes: HINT, alias class, scope, release ordering, and the number of side-log entries that it would
take (R98, R197, R216, R248). -/
structure WriteMode where
  hint : BitVec 2
  al   : BitVec 3
  sc   : Scope
  rel  : Bool
  size : Nat
  deriving DecidableEq, Repr

/-- The write cannot be made yet: a release whose conditions do not hold, or a write at sys scope behind another. -/
def writeWaits (s : State) (c : Ctx) (q : Seqr) (m : WriteMode) : Option Act :=
  if m.rel && !releaseReady s c q m.sc then some (.waitRel m.sc)
  else if m.sc == .sys && sysOwed s c q then some .wait
  else none

/-- The side-log entry of a store or reduction, before it has its number. -/
def sideEntry (q : Seqr) (g : Agent) (m : WriteMode) (stores : List (Word × List Byte))
    (reds : List (AtomOp × Fmt × Word × Word)) : SideEntry :=
  { id := 0, slot := 0, seq := q, size := m.size, scope := m.sc, aclass := m.al, rel := m.rel, stores := stores, reds := reds
    agent := g, fault := none }

/-- A store or reduction that met a fault: it enters the log, behind a pending entry that it touches without a queue entry of
its own (R248). -/
def faultSide (s : State) (c : Ctx) (g : Agent) (gs ps : List (Nat × Nat)) (e : SideEntry) (i : FaultInfo) : Act :=
  logSide (touch s g .write gs) c e (if sideTouches s c.id ps then none else some i)

/-- Bytes stored at addresses whose address and alignment checks have passed, as one instruction (R233, R245, R248). -/
def storeMem (s : State) (c : Ctx) (q : Seqr) (m : WriteMode) (stores : List (Word × List Byte)) : Act :=
  match writeWaits s c q m with
  | some a => a
  | none =>
    let g := writeAgent s c q m.hint
    let ps := stores.map fun p => (p.1.toNat, p.2.length)
    let e := sideEntry q g m stores []
    let gs := ps.flatMap fun p => granules (p.2 / 4096 + 2) p.1 p.2
    match checkGranules s g .write gs with
    | .ok segs =>
      if sideTouches s c.id ps then logSide s c e none
      else if redsMeet c q segs then .wait
      else
        match fabBlocked (touch s g .write gs) c segs with
        | some e => fabTrap e
        | none =>
          let s1 := if m.rel then releaseEffect s m.sc else s
          let r := writePieces (noteAccess s1 g .write segs) c q g (splitWrites segs (stores.flatMap Prod.snd))
          .done r.1 (fabricOr r.2 (m.sc == .sys) .plain) Exc.none none
    | .fault i => faultSide s c g gs ps e i
    | r => stopWrite (touch s g .write gs) c q r

/-! Atomics (R226, R328, R415) -/

/-- A new value of a format's width from the old one and the operand; cas is decided by its caller. -/
def atomNew (op : AtomOp) (f : Fmt) (old v : Nat) : Nat :=
  let w := fmtWidth f
  let sg (x : Nat) : Int := (BitVec.ofNat w x).toInt
  match op with
  | .add => (old + v) % 2 ^ w
  | .and => Nat.land old v
  | .or => Nat.lor old v
  | .xor => Nat.xor old v
  | .smin => if sg v < sg old then v else old
  | .smax => if sg old < sg v then v else old
  | .umin => if v < old then v else old
  | .umax => if old < v then v else old
  | .swap | .cas => v
  | .fadd => (faddMem (fpOf f) old v).1

/-- What a host AtomicOp can do (R203). -/
def hostAtomOk (op : AtomOp) (ret : Bool) : Bool :=
  match op with
  | .add => true
  | .swap | .cas => ret
  | _ => false

/-- The completer of a host AtomicOp answers; whether it does with Unsupported Request is free (R203). -/
def hostAsked (x : Seg) (s : State) : State := if physKind x.pa == .host then { s with freeCtr := s.freeCtr + 1 } else s

/-- Four credit units taken from a polder at the slice of an HBM address; none while it holds fewer (R307). -/
def takeCredits (s : State) (p : BitVec 4) (a : Nat) : Option State :=
  match physKind a with
  | .hbm d =>
    let k := sliceOf a
    let have_ := ((getDie s d).credits.find? fun x => x.1 == k && x.2.1 == p.toNat).map fun x => x.2.2
    match have_ with
    | none => none
    | some n =>
      if n < 4 then none
      else some (modDie s d fun x => { x with credits := x.credits.map fun y =>
        if y.1 = k ∧ y.2.1 = p.toNat then (k, p.toNat, n - 4) else y })
  | _ => some s

/-- One read-modify-write at a translated piece: the state after it and the old value. nw is none where nothing is
written. -/
def rmw (s : State) (g : Agent) (x : Seg) (f : Nat → Option Nat) : State × Nat :=
  let old := leNat (physRead s x.key x.pa x.len)
  match f old with
  | none => (s, old)
  | some v => (segsWrite s g [x] (leBytes v x.len), old)

/-- The atomic request of one operation (R305): OP, with bit 7 for ATOM, and the operand, for cas behind the compare
value. -/
def atomPacket (s : State) (p : BitVec 4) (op : AtomOp) (ret : Bool) (a n : Nat) (data : List Byte) : Packet :=
  fabPacket s p 3 a n ((atomCode op).setWidth 8 ||| (if ret then 0x80 else 0)) data

/-- The new value of an ATOM, or none for a cas that does not match (R328). -/
def atomUpdate (op : AtomOp) (f : Fmt) (v v2 old : Nat) : Option Nat :=
  if op = .cas then (if old = v then some v2 else none) else some (atomNew op f old v)

/-- ATOM: the old value returned in d (R329). -/
def atomMem (s : State) (c : Ctx) (q : Seqr) (m : WriteMode) (acq : Bool) (op : AtomOp) (f : Fmt) (a : Word) (d : SReg)
    (v v2 : Nat) : Act :=
  let n := fmtWidth f / 8
  let write (t : State) (x : Nat) : State := modCtx (acquireL1 t c acq m.sc) c.id fun c => c.wS q d (BitVec.ofNat 64 x)
  if !spanOk a.toNat n then .trap s 0x08 0 a
  else if a.toNat % n ≠ 0 then .trap s 0x09 0 a
  else
  match writeWaits s c q m with
  | some w => w
  | none =>
  if sideTouches s c.id [(a.toNat, n)] then .wait
  else
    let g := writeAgent s c q m.hint
    let u := touch s g .atomic (granules 2 a.toNat n)
    match checkPages s g .atomic a.toNat n with
    | .ok [x] =>
      if redsMeet c q [x] then .wait
      else if physKind x.pa == .host && (!hostAtomOk op true || Config.hostAtomRefused s.freeCtr) then
        .trap { u with freeCtr := u.freeCtr + 1 } 0x0B 0 a
      else if x.fabric then
        let fab := (c.seq q).fab
        if fabHas fab x.pa n then
          .done (write (noteAccess s g .atomic [x]) (leNat (fabBytes fab x.pa n))) .plain Exc.none none
        else
          match fabEgress s (effPolder s c) x.pa with
          | .error e => fabTrap (e.1, e.2, x.va)
          | .ok port =>
            let data := leBytes v n ++ (if op = .cas then leBytes v2 n else [])
            let s1 := if m.rel then releaseEffect u m.sc else u
            let r := fabSend s1 c.id q none port x.pa x.va n true (atomPacket s1 (effPolder s c) op true x.pa n data)
            .hold (modSeq r.1 c.id q fun x => { x with rtags := [r.2] }) .fabric
      else if poisoned s x.pa n then .trap u 0x12 0 0
      else
        match takeCredits s (effPolder s c) x.pa with
        | none => .wait
        | some s1 =>
          let s2 := hostAsked x (if m.rel then releaseEffect s1 m.sc else s1)
          let r := rmw (noteAccess s2 g .atomic [x]) g x (atomUpdate op f v v2)
          .done (write r.1 r.2) .plain Exc.none none
    | .ok _ => .wait
    | r => stopAct u c.id q r

/-- An imprecise trap of the instruction that an agent writes for. -/
def lateFor (s : State) (c : Ctx) (g : Agent) (t : TrapReq) : State :=
  raiseLater s c.id { t with depth := (g.who.map fun w => w.depth).getD c.frames.length
                             age := (g.who.map fun w => w.age).getD c.issued }

/-- One reduction at a translated piece: the state, and the request's tag when it goes over the fabric. A poisoned line
stays as it is and traps imprecisely (R274). -/
def redOne (s : State) (c : Ctx) (q : Seqr) (g : Agent) (e : RedElem) : State × List Word :=
  let x := e.seg
  if x.fabric then
    match fabEgress s g.polder x.pa with
    | .error f => (lateFor f.1 c g (mkTrap q f.2 0 (if f.2 = 0x0B then BitVec.ofNat 64 x.va else 0)), [])
    | .ok port =>
      let r := fabSend s c.id q none port x.pa x.va x.len false
        (atomPacket s g.polder e.op false x.pa x.len (leBytes e.v x.len))
      (r.1, [r.2])
  else if poisoned s x.pa x.len then (lateFor s c g (mkTrap q 0x12 0 0), [])
  else ((rmw (hostAsked x s) g x fun old => some (atomNew e.op e.fmt old e.v)).1, [])

/-- Reductions performed in order, each with its four credit units; those that find fewer wait for the next credit, or for a
page that a SCOPY holds (R301, R307, R415). The answer: the state, the tags of requests, and the elements still to come. -/
def redAll (s : State) (c : Ctx) (q : Seqr) (g : Agent) : List RedElem → State × List Word × List RedElem
  | [] => (s, [], [])
  | e :: l =>
    match (if pageHeld s e.seg.pa then none else takeCredits s g.polder e.seg.pa) with
    | none => (s, [], e :: l)
    | some s1 =>
      let r := redOne s1 c q g e
      let t := redAll r.1 c q g l
      (t.1, r.2 ++ t.2.1, t.2.2)

/-- What completes a reduction: its elements still to come, its requests' acknowledgements, or nothing. -/
def redKind (tags : List Word) (g : Agent) (rest : List RedElem) (sys : Bool) : OpKind :=
  if rest = [] then fabricOr tags sys .plain else .credit g rest tags sys

/-- The elements of a reduction with their pieces. -/
def redElems (op : AtomOp) (f : Fmt) (segs : List Seg) (vs : List Nat) : List RedElem :=
  (segs.zip vs).map fun p => { op := op, fmt := f, seg := p.1, v := p.2 }

/-- A reduction that the host does not take: an operation that is no FetchAdd, or an Unsupported Request (R203, R415). One
answer serves all elements of an instruction (DESIGN CHOICE, log entry 77). -/
def hostRedBad (s : State) (op : AtomOp) (segs : List Seg) : Option Seg :=
  segs.find? fun x => physKind x.pa == .host && (!hostAtomOk op false || Config.hostAtomRefused s.freeCtr)

/-- RED and VREDX: operations at aligned addresses whose address checks have passed, in order (R329, R415). -/
def redMem (s : State) (c : Ctx) (q : Seqr) (m : WriteMode) (op : AtomOp) (f : Fmt) (ops : List (Word × Nat)) : Act :=
  let n := fmtWidth f / 8
  match writeWaits s c q m with
  | some a => a
  | none =>
    let g := writeAgent s c q m.hint
    let ps := ops.map fun p => (p.1.toNat, n)
    let gs := ps.flatMap fun p => granules 2 p.1 p.2
    let e := sideEntry q g m [] (ops.map fun p => (op, f, p.1, BitVec.ofNat 64 p.2))
    match checkGranules s g .write gs with
    | .ok segs =>
      match hostRedBad s op segs with
      | some x =>
        let u := touch s g .write gs
        .trap { u with freeCtr := u.freeCtr + 1 } 0x0B 0 (BitVec.ofNat 64 x.va)
      | none =>
        if sideTouches s c.id ps then logSide s c e none
        else if redsMeet c q segs then .wait
        else
          match fabBlocked (touch s g .write gs) c segs with
          | some e => fabTrap e
          | none =>
            if (segs.head?.bind fun x => takeCredits s g.polder x.pa).isNone && segs ≠ [] then .wait
            else
              let s1 := if m.rel then releaseEffect s m.sc else s
              let r := redAll (noteAccess s1 g .write segs) c q g (redElems op f segs (ops.map Prod.snd))
              .done r.1 (redKind r.2.1 g r.2.2 (m.sc == .sys)) Exc.none none
    | .fault i => faultSide s c g gs ps e i
    | r => stopWrite (touch s g .write gs) c q r

end Sys2Proof.Machine
end

