-- ==== Sys2Proof/Machine/Fetch.lean ====
section
/-! DEFINITION. Instruction fetch: the line that a sequencer stands in, its checks, and the instruction of its slot (R89 to
R95, R240, R245, R254, R256). -/

namespace Sys2Proof.Machine

/-- Where a sequencer's instructions come from: an image in memory (base, lines, the agent of the fetch) or a code-vault
image. -/
inductive CodeSrc where
  | mem (base : Word) (lines : Nat) (agent : Agent)
  | vault (bytes : List Byte) (lines : Nat) (place : Option Nat)
  deriving DecidableEq, Repr

/-- The image that the context runs: of its innermost handler, or its own. The reeve's handler of a neutral context is
fetched from memory (R254, R256); all else that a neutral context fetches comes from the code vault (R93). -/
def codeSrc (s : State) (c : Ctx) : CodeSrc :=
  match c.frame with
  | some f => .mem f.image f.lines { handlerAgent s c f.reeve with asid := f.asid, polder := asidPolder s f.asid }
  | none =>
    match c.vault with
    | some v =>
      let img := s.images.find? fun x => x.id == v
      let d := dieOf c.id.core
      .vault ((img.map fun x => x.bytes).getD []) c.lines
        (((img.bind fun x => x.places[d]?).filter fun p => p.2 != 0).map fun p => vaultBase s d + p.1 * 65536)
    | none => .mem c.image c.lines (agentOf s c)

def CodeSrc.lines : CodeSrc → Nat
  | .mem _ n _ => n
  | .vault _ n _ => n

/-- A line fits the sequencer that goes to the given slot of it (R92). -/
def lineOk (l : Line) (q : Seqr) (slot : Nat) : Bool :=
  1 ≤ linkValid l && linkValid l ≤ 5 && linkOwn l == seqIndex q && slot < linkValid l

/-- The line index names a line of instructions (R92). -/
def pointOk (p : CodePoint) (lines : Nat) : Bool := !p.bad && 1 ≤ p.line && p.line < Int.ofNat lines

def lineFromBytes (b : List Byte) : Line := BitVec.ofNat 512 (leNat b)

/-- The line at the sequencer's point is fetched, or the fetch traps, holds the sequencer, or is not ready (R92, R93, R233,
R245, R248). Uncorrectable data is an imprecise trap, raised at the instruction that cannot be fetched (R252). A line of the fabric window is asked for as a load asks for its bytes (DESIGN CHOICE, log entry 8). -/
def fetchStep (s : State) (c : Ctx) (q : Seqr) : State :=
  let x := c.seq q
  let src := codeSrc s c
  let trap (t : State) (cause : Nat) (addr : Word) : State :=
    takeTrap t c { mkTrap q cause 0 addr with age := c.issued, imprec := cause == 0x12 }
  let have_ (t : State) (b : List Byte) : State :=
    let l := lineFromBytes b
    if lineOk l q x.pc.slot then modSeq t c.id q fun x => { x with line := some l, fab := [], rtags := [] }
    else trap t 0x18 0
  if !pointOk x.pc src.lines then trap s 0x18 0
  else
    let n := x.pc.line.toNat
    match src with
    | .vault bytes _ place =>
      let t := match place with
        | some a => fillLine s (dieOf c.id.core) 0 c.polder none (lineOf (a + 64 * n))
        | none => s
      have_ t (bytesAt bytes (64 * n) 64)
    | .mem base _ g =>
      let a := (base + BitVec.ofNat 64 (64 * n)).toNat
      let u := if spanOk a 64 then touch s g .fetch (granules 2 a 64) else s
      if sideTouches s c.id [(a, 64)] then s
      else
        match checkAccess s g .fetch a 64 1 with
        | .ok segs =>
          if segs.any fun y => y.fabric && !fabHas x.fab y.pa y.len then
            match fabricHold u c q (segs.filter Seg.fabric) with
            | .hold t w => modSeq t c.id q fun x => { x with hold := some w }
            | .trap t cause _ addr => trap t cause addr
            | _ => s
          else if segsPoisoned s (segs.filter fun y => !y.fabric) then trap u 0x12 0
          else have_ (noteAccess s g .fetch segs) (segsReadFab s x.fab segs)
        | .trap cause va => trap u cause (if cause = 0x12 then 0 else BitVec.ofNat 64 va)
        | .fault i =>
          let r := queueFault u i (.seq c.id q) false
          modSeq r.1 c.id q fun x => { x with hold := some (.fault r.2) }
        | .fill r => modSeq u c.id q fun x => { x with hold := some (.fill r) }
        | .held => s

/-- The word in slot k of a line (R91). -/
def slotWord (l : Line) (k : Nat) : InstrWord := l.extractLsb' (32 + 96 * k) 96

/-- What stands at a sequencer's point once its line is there. -/
inductive Fetched where
  | instr (i : Instr)
  /-- no instruction of the opcode map: check 1 of R95 fails -/
  | illegal
  deriving DecidableEq, Repr

def fetched (l : Line) (k : Nat) : Fetched :=
  match decode (slotWord l k) with
  | .ok i => .instr i
  | .error _ => .illegal

/-- What a sequencer's held instruction waits for is withdrawn (R258, R259). -/
def withdrawHeld (s : State) (id : CtxId) (q : Seqr) : State :=
  let keep (w : Waiter) : Bool := w != .seq id q
  { s with
    faults := s.faults.map fun e => { e with waiters := e.waiters.filter keep }
    roomWait := s.roomWait.filter fun e => keep e.2
    heldSubs := if q = .X then s.heldSubs.filter fun h => h.ctx != id else s.heldSubs
    fabReqs := s.fabReqs.filter fun r => r.ctx != id || r.seq != q || !r.isRead || r.xfer.isSome }

/-- An instruction that ACTION 01 of a trap record passes over (R258). -/
def skipOne (s : State) (id : CtxId) (q : Seqr) : State :=
  modCtx (withdrawHeld s id q) id fun c =>
    let x := c.seq q
    let a := x.advance
    let o : Op := { post := 0, kind := .plain, exc := { bits := 0, causes := 0 }, ena := 0, trap := none, ends := true
                    depth := c.frames.length, age := c.issued, scope := .ctx, done := false }
    c.setSeq q { x with pc := a.1, line := a.2.1, skip := false, waited := none, atEnd := a.2.2, hold := none, fab := []
                        rtags := []
                        ops := if a.2.2 then x.ops ++ [o] else x.ops }

/-- A word that is no instruction (R95, check 1). -/
def illegalAt (s : State) (c : Ctx) (q : Seqr) : State := takeTrap s c { mkTrap q 0x01 0 0 with age := c.issued }

end Sys2Proof.Machine
end

