-- ==== Sys2Proof/Machine/Crypto.lean ====
section
/-! DEFINITION. SHAKE256 (FIPS 202), AES-256 (FIPS 197) and GCM (SP 800-38D), which R89, R158, R185 and R301 name. -/

namespace Sys2Proof.Machine

/-! SHAKE256 -/

def rotl64 (x : BitVec 64) (n : Nat) : BitVec 64 := x.rotateLeft (n % 64)

/-- The rotation offsets of rho, lane x + 5y. -/
def keccakRho : List Nat :=
  [0, 1, 62, 28, 27, 36, 44, 6, 55, 20, 3, 10, 43, 25, 39, 41, 45, 15, 21, 8, 18, 2, 61, 56, 14]

/-- The round constants of iota. -/
def keccakRc : List (BitVec 64) :=
  [0x0000000000000001, 0x0000000000008082, 0x800000000000808A, 0x8000000080008000, 0x000000000000808B,
   0x0000000080000001, 0x8000000080008081, 0x8000000000008009, 0x000000000000008A, 0x0000000000000088,
   0x0000000080008009, 0x000000008000000A] ++
  [0x000000008000808B, 0x800000000000008B, 0x8000000000008089, 0x8000000000008003, 0x8000000000008002,
   0x8000000000000080, 0x000000000000800A, 0x800000008000000A, 0x8000000080008081, 0x8000000000008080,
   0x0000000080000001, 0x8000000080008008]

def laneAt (a : List (BitVec 64)) (x y : Nat) : BitVec 64 := a.getD (x % 5 + 5 * (y % 5)) 0

/-- The lanes of the column parities, computed once. -/
def keccakTheta (a : List (BitVec 64)) : List (BitVec 64) :=
  let c := (List.range 5).map fun x =>
    laneAt a x 0 ^^^ laneAt a x 1 ^^^ laneAt a x 2 ^^^ laneAt a x 3 ^^^ laneAt a x 4
  let d := (List.range 5).map fun x => c.getD ((x + 4) % 5) 0 ^^^ rotl64 (c.getD ((x + 1) % 5) 0) 1
  (List.range 25).map fun i => a.getD i 0 ^^^ d.getD (i % 5) 0

/-- rho and pi: lane (x, y) goes to (y, 2x + 3y). -/
def keccakRhoPi (a : List (BitVec 64)) : List (BitVec 64) :=
  (List.range 25).map fun i =>
    let x' := i % 5
    let y' := i / 5
    let x := (x' + 3 * y') % 5
    let y := x'
    rotl64 (laneAt a x y) (keccakRho.getD (x + 5 * y) 0)

def keccakChi (a : List (BitVec 64)) : List (BitVec 64) :=
  (List.range 25).map fun i =>
    let x := i % 5
    let y := i / 5
    laneAt a x y ^^^ (~~~ laneAt a (x + 1) y &&& laneAt a (x + 2) y)

def keccakRound (a : List (BitVec 64)) (rc : BitVec 64) : List (BitVec 64) :=
  let b := keccakChi (keccakRhoPi (keccakTheta a))
  match b with
  | x :: l => (x ^^^ rc) :: l
  | [] => []

def keccakF (a : List (BitVec 64)) : List (BitVec 64) := keccakRc.foldl keccakRound a

def bytes64 (l : List Byte) : BitVec 64 := l.foldr (fun b x => (x <<< 8) ||| b.setWidth 64) 0

/-- The 17 lanes of a block of 136 bytes. -/
def blockLanes (l : List Byte) : List (BitVec 64) := (List.range 17).map fun i => bytes64 ((l.drop (8 * i)).take 8)

def absorbBlock (a : List (BitVec 64)) (b : List Byte) : List (BitVec 64) :=
  let l := blockLanes b
  keccakF ((List.range 25).map fun i => a.getD i 0 ^^^ l.getD i 0)

/-- The message padded with 1111 10*1 to whole blocks. -/
def shakePad (m : List Byte) : List Byte :=
  let r := m.length % 136
  if r = 135 then m ++ [0x9F] else m ++ [0x1F] ++ List.replicate (134 - r) 0 ++ [0x80]

def absorbAll : Nat → List (BitVec 64) → List Byte → List (BitVec 64)
  | 0, a, _ => a
  | f + 1, a, l => if l = [] then a else absorbAll f (absorbBlock a (l.take 136)) (l.drop 136)

def laneBytes (x : BitVec 64) : List Byte := (List.range 8).map fun i => x.extractLsb' (8 * i) 8

/-- The first n bytes, n at most 136, of SHAKE256 of a message. -/
def shake256 (m : List Byte) (n : Nat) : List Byte :=
  let p := shakePad m
  ((absorbAll (p.length / 136 + 1) (List.replicate 25 0) p).flatMap laneBytes).take n

/-! AES-256 -/

/-- Multiplication by x in the field of AES. -/
def aesX (b : Byte) : Byte := if b.getLsbD 7 then (b <<< 1) ^^^ 0x1B else b <<< 1

def aesMulAux : Nat → Byte → Byte → Byte
  | 0, _, _ => 0
  | n + 1, a, b => (if b.getLsbD 0 then a else 0) ^^^ aesMulAux n (aesX a) (b >>> 1)

def aesMul (a b : Byte) : Byte := aesMulAux 8 a b

/-- The inverse, as the 254th power; 0 for 0. -/
def aesInv (a : Byte) : Byte :=
  let a2 := aesMul a a
  let a4 := aesMul a2 a2
  let a8 := aesMul a4 a4
  let a16 := aesMul a8 a8
  let a32 := aesMul a16 a16
  let a64 := aesMul a32 a32
  let a128 := aesMul a64 a64
  aesMul (aesMul (aesMul a128 a64) (aesMul a32 a16)) (aesMul (aesMul a8 a4) a2)

def aesSubByte (a : Byte) : Byte :=
  let b := aesInv a
  b ^^^ b.rotateLeft 1 ^^^ b.rotateLeft 2 ^^^ b.rotateLeft 3 ^^^ b.rotateLeft 4 ^^^ 0x63

/-- The substitution table, computed once. -/
def aesTable : List Byte := (List.range 256).map fun i => aesSubByte (BitVec.ofNat 8 i)

def aesSub (a : Byte) : Byte := aesTable.getD a.toNat 0

/-- The round constant of expansion step i, from 1. -/
def aesRcon : Nat → Byte
  | 0 => 0x8D
  | n + 1 => aesX (aesRcon n)

def xorBytes (a b : List Byte) : List Byte := List.zipWith (· ^^^ ·) a b

/-- The words of the key schedule, newest first, extended to n words. -/
def aesExpand : Nat → Nat → List (List Byte) → List (List Byte)
  | 0, _, w => w
  | f + 1, i, w =>
    let t := w.headD []
    let t :=
      if i % 8 = 0 then
        let r := (t.drop 1 ++ t.take 1).map aesSub
        xorBytes r [aesRcon (i / 8), 0, 0, 0]
      else if i % 8 = 4 then t.map aesSub
      else t
    aesExpand f (i + 1) (xorBytes (w.getD 7 []) t :: w)

/-- The 15 round keys of 16 bytes. -/
def aesKeys (key : List Byte) : List (List Byte) :=
  let w0 := ((List.range 8).map fun i => (key.drop (4 * i)).take 4).reverse
  let w := (aesExpand 52 8 w0).reverse
  (List.range 15).map fun i => ((w.drop (4 * i)).take 4).flatten

/-- ShiftRows on 16 bytes held by columns. -/
def aesShift (s : List Byte) : List Byte :=
  (List.range 16).map fun i => s.getD ((4 * (i / 4 + i % 4) + i % 4) % 16) 0

def aesMixCol (c : List Byte) : List Byte :=
  let g (i : Nat) : Byte := c.getD (i % 4) 0
  (List.range 4).map fun i => aesX (g i) ^^^ (aesX (g (i + 1)) ^^^ g (i + 1)) ^^^ g (i + 2) ^^^ g (i + 3)

def aesMix (s : List Byte) : List Byte := (List.range 4).flatMap fun j => aesMixCol ((s.drop (4 * j)).take 4)

/-- One block encrypted under expanded keys. -/
def aesBlock (ks : List (List Byte)) (b : List Byte) : List Byte :=
  let s := xorBytes b (ks.headD [])
  let s := (List.range 13).foldl (fun s i => xorBytes (aesMix (aesShift (s.map aesSub))) (ks.getD (i + 1) [])) s
  xorBytes (aesShift (s.map aesSub)) (ks.getD 14 [])

/-! GCM -/

/-- 16 bytes as a block, first byte highest. -/
def gcmBlock (l : List Byte) : BitVec 128 :=
  (List.range 16).foldl (fun x i => (x <<< 8) ||| (l.getD i 0).setWidth 128) 0

def gcmBytes (x : BitVec 128) : List Byte := (List.range 16).map fun i => x.extractLsb' (8 * (15 - i)) 8

def gcmMulAux (x : BitVec 128) : Nat → Nat → BitVec 128 → BitVec 128 → BitVec 128
  | 0, _, z, _ => z
  | f + 1, i, z, v =>
    gcmMulAux x f (i + 1) (if x.getLsbD (127 - i) then z ^^^ v else z)
      (if v.getLsbD 0 then (v >>> 1) ^^^ (0xE1#128 <<< 120) else v >>> 1)

/-- The product in the field of GHASH. -/
def gcmMul (x y : BitVec 128) : BitVec 128 := gcmMulAux x 128 0 0 y

def ghashAll (h : BitVec 128) : Nat → BitVec 128 → List Byte → BitVec 128
  | 0, y, _ => y
  | f + 1, y, l => if l = [] then y else ghashAll h f (gcmMul (y ^^^ gcmBlock (l.take 16)) h) (l.drop 16)

/-- The counter block of a 96-bit IV. -/
def gcmCounter (iv : List Byte) (n : Nat) : List Byte :=
  iv ++ (List.range 4).map fun i => BitVec.ofNat 8 (n / 256 ^ (3 - i))

/-- The key stream applied from counter n on. -/
def gcmStream (ks : List (List Byte)) (iv : List Byte) : Nat → Nat → List Byte → List Byte
  | 0, _, _ => []
  | f + 1, n, l =>
    if l = [] then []
    else xorBytes (l.take 16) (aesBlock ks (gcmCounter iv n)) ++ gcmStream ks iv f (n + 1) (l.drop 16)

/-- The tag of a ciphertext of whole blocks without additional data. -/
def gcmTag (ks : List (List Byte)) (iv ct : List Byte) : List Byte :=
  let h := gcmBlock (aesBlock ks (List.replicate 16 0))
  let y := ghashAll h (ct.length / 16 + 1) 0 ct
  let z := gcmMul (y ^^^ BitVec.ofNat 128 (8 * ct.length)) h
  xorBytes (aesBlock ks (gcmCounter iv 1)) (gcmBytes z)

/-- AES-GCM-256 decryption: the plaintext, if the tag verifies. -/
def gcmDecrypt (key iv ct tag : List Byte) : Option (List Byte) :=
  let ks := aesKeys key
  if gcmTag ks iv ct = tag then some (gcmStream ks iv (ct.length / 16 + 1) 2 ct) else none

end Sys2Proof.Machine
end

