-- ==== Sys2Proof/Machine/Chunk.lean ====
section
/-! DEFINITION. The order of sums in a matrix chunk: chunkPartial, applyScale, foldChunks and bankAdd (R53 to R56). -/

namespace Sys2Proof.Machine

/-- A position of a chunk: its activation, its weight, and whether it takes part. -/
structure ChunkTerm where
  a   : FVal
  w   : FVal
  sel : Bool
  deriving DecidableEq, Repr

/-- The terms of chunkPartial: the causes met and the exact products (R54). -/
def chunkTerms : List ChunkTerm → BitVec 8 × List FVal
  | [] => (0, [])
  | t :: l =>
    let r := chunkTerms l
    if !t.sel then r
    else if t.a.isNan || t.w.isNan then (r.1 ||| causeSet 1, r.2)
    else
      match mulVal t.a t.w with
      | .error _ => (r.1 ||| causeSet 4, r.2)
      | .ok v => (r.1, v :: r.2)

/-- floor(log2 |v|) of a nonzero finite value. -/
def topExp : FVal → Option Int
  | .fin _ m e => if m = 0 then none else some (e + bitLen m - 1)
  | _ => none

def maxTop : List FVal → Option Int
  | [] => none
  | v :: l =>
    match topExp v, maxTop l with
    | some a, some b => some (max a b)
    | some a, none => some a
    | none, r => r

/-- The sum of terms truncated toward zero to multiples of 2^unit, in units (R54). -/
def truncSum (unit : Int) : List FVal → Int
  | [] => 0
  | .fin s m e :: l =>
    let q : Nat := if unit ≤ e then m <<< (e - unit).toNat else m >>> (unit - e).toNat
    (if s then -(q : Int) else q) + truncSum unit l
  | _ :: l => truncSum unit l

/-- chunkPartial: the value, or the causes of a NaN (R54). -/
def chunkPartial (ts : List ChunkTerm) : Except (BitVec 8) FVal :=
  let r := chunkTerms ts
  if r.1 ≠ 0 then .error r.1
  else
    let pos := r.2.any fun v => v == .inf false
    let neg := r.2.any fun v => v == .inf true
    if pos && neg then .error (causeSet 3)
    else if pos then .ok (.inf false)
    else if neg then .ok (.inf true)
    else
      match maxTop r.2 with
      | none => .ok (.fin false 0 0)
      | some emax =>
        let unit := emax - 64
        let s := truncSum unit r.2
        .ok (.fin (s < 0) s.natAbs unit)

/-- nanCause with the flags of R56: NV for a generated NaN of cause 3 or 4. -/
def chunkNan (causes : BitVec 8) : Nat × Exc :=
  let c := firstCause causes
  (genNan fpFp32 c, { Exc.none with nv := c == 3 || c == 4, causes := causeSet c })

/-- applyScale: the chunk's partial times its scale, as FP32 (R54). -/
def applyScale (part : Except (BitVec 8) FVal) (scale : FVal) : Nat × Exc :=
  let c0 := if scale.isNan then causeSet 2 else 0
  match part with
  | .error c => chunkNan (c ||| c0)
  | .ok v =>
    if c0 ≠ 0 then chunkNan c0
    else
      match mulVal v scale with
      | .error _ => chunkNan (causeSet 4)
      | .ok r =>
        let x := rne32 r
        (x.1, { Exc.none with ov := x.2 })

/-- foldChunks over the scaled partials, in ascending order (R54). -/
def foldChunks : List (Nat × Exc) → Option (Nat × Exc)
  | [] => none
  | c :: l => some (l.foldl (fun t x => let r := add32 t.1 x.1; (r.1, (t.2.or x.2).or r.2)) c)

/-- The new value of an accumulator element: bankAdd(acc, foldChunks(c)); unchanged where every chunk is masked. -/
def bankAdd (acc : Nat) (cs : List (Nat × Exc)) : Nat × Exc :=
  match foldChunks cs with
  | none => (acc, Exc.none)
  | some t =>
    let r := add32 acc t.1
    (r.1, t.2.or r.2)

end Sys2Proof.Machine
end

