-- ==== Sys2Proof/Machine/Sfn.lean ====
section
/-! DEFINITION. The special functions of VSFN: the exact value rounded once (R417). The algebraic functions are computed
exactly with a sticky bit. The others are enclosed between two fixed-point bounds, at growing precision, until both
bounds round alike; their exact values are irrational wherever this path is taken, so the bounds separate from every
rounding boundary. -/

namespace Sys2Proof.Machine

/-- Integer square root, one bit at a time: the largest r with r * r <= n, for n below 4^k. -/
def isqrtAux (n : Nat) : Nat → Nat → Nat
  | 0, r => r
  | k + 1, r =>
    let t := r + 2 ^ k
    isqrtAux n k (if t * t ≤ n then t else r)

def isqrt (n : Nat) : Nat := isqrtAux n (bitLen n / 2 + 1) 0

/-- A magnitude with a sticky bit below its last bit. -/
def sticky (n : Nat) (more : Bool) : Nat := 2 * n + (if more then 1 else 0)

/-- 1 / (m * 2^e), with a sticky bit. -/
def rcpMag (m : Nat) (e : Int) : Nat × Int :=
  let k := bitLen m + 64
  let q := 2 ^ k / m
  (sticky q (q * m != 2 ^ k), -e - k - 1)

/-- The square root of m * 2^e, with a sticky bit. -/
def sqrtMag (m : Nat) (e : Int) : Nat × Int :=
  let odd : Bool := e % 2 != 0
  let n := (if odd then 2 * m else m) * 2 ^ 128
  let e' := if odd then e - 1 else e
  let r := isqrt n
  (sticky r (r * r != n), e' / 2 - 65)

/-- 1 / sqrt (m * 2^e), with a sticky bit. -/
def rsqrtMag (m : Nat) (e : Int) : Nat × Int :=
  let odd : Bool := e % 2 != 0
  let n := if odd then 2 * m else m
  let e' := if odd then e - 1 else e
  let r := isqrt (2 ^ 256 / n)
  (sticky r (r * r * n != 2 ^ 256), -(e' / 2) - 129)

/-- The sum of t * z2^k / (2k + 1) with alternating signs or not, in units of 2^-p: the series of atan and atanh. -/
def atanSum (p : Nat) (alt : Bool) (z2 : Nat) : Nat → Nat → Nat → Int
  | 0, _, _ => 0
  | f + 1, k, t =>
    let q : Int := (t / (2 * k + 1) : Nat)
    (if alt && k % 2 == 1 then -q else q) + atanSum p alt z2 f (k + 1) ((t * z2) >>> p)

/-- atan (1/n) and atanh (1/n) in units of 2^-p. -/
def atanInv (p : Nat) (alt : Bool) (n : Nat) : Int :=
  let z := 2 ^ p / n
  atanSum p alt ((z * z) >>> p) (p / 2 + 8) 0 z

/-- pi / 2 in units of 2^-p (Machin). -/
def halfPi (p : Nat) : Nat := (8 * atanInv p true 5 - 2 * atanInv p true 239).toNat

/-- ln 2 in units of 2^-p. -/
def lnTwo (p : Nat) : Nat := (18 * atanInv p false 26 - 2 * atanInv p false 4801 + 8 * atanInv p false 8749).toNat

/-- The sum of t * x^k / k! from term k on, in units of 2^-p. -/
def expSum (p x : Nat) : Nat → Nat → Nat → Nat
  | 0, _, _ => 0
  | f + 1, k, t => t + expSum p x f (k + 1) (((t * x) >>> p) / (k + 1))

/-- e^x for x below 1, in units of 2^-p. -/
def expFix (p x : Nat) : Nat := expSum p x (p / 3 + 40) 0 (2 ^ p)

/-- The sine (k = 1) or cosine (k = 0) series from the term t = x^k / k! on, in units of 2^-p. -/
def trigSum (p x2 : Nat) : Nat → Nat → Nat → Bool → Int
  | 0, _, _, _ => 0
  | f + 1, k, t, neg =>
    (if neg then -(t : Int) else t) + trigSum p x2 f (k + 2) (((t * x2) >>> p) / ((k + 1) * (k + 2))) (!neg)

def sinFix (p x : Nat) : Nat := (trigSum p ((x * x) >>> p) (p / 4 + 40) 1 x false).toNat
def cosFix (p x : Nat) : Nat := (trigSum p ((x * x) >>> p) (p / 4 + 40) 0 (2 ^ p) false).toNat

/-- A magnitude n * 2^e known to within err units, with its sign. -/
structure Approx where
  neg : Bool
  n   : Nat
  e   : Int
  err : Nat
  deriving DecidableEq, Repr

/-- m * 2^e in units of 2^-p, rounded down. -/
def toFix (p : Nat) (m : Nat) (e : Int) : Nat :=
  let k := e + p
  if 0 ≤ k then m <<< k.toNat else m >>> (-k).toNat

/-- The lesser of m * 2^e and the whole number c. -/
def clampMag (m : Nat) (e : Int) (c : Nat) : Nat × Int := if magLt m e c 0 then (m, e) else (c, 0)

/-- e^(+-x) for x = m * 2^e, x at most 200: n * 2^k with the error of 2^16 units (R417). -/
def expApprox (p : Nat) (neg : Bool) (m : Nat) (e : Int) : Nat × Int :=
  let x := toFix p m e
  let l := lnTwo p
  let i := x / l
  let r := x % l
  if neg then (expFix p (l - r), -(i : Int) - 1 - p) else (expFix p r, (i : Int) - p)

/-- 2^(+-x), x at most 400. -/
def exp2Approx (p : Nat) (neg : Bool) (m : Nat) (e : Int) : Nat × Int :=
  let x := toFix p m e
  let i := x >>> p
  let f := x % 2 ^ p
  let l := lnTwo p
  if neg then (expFix p (((2 ^ p - f) * l) >>> p), -(i : Int) - 1 - p) else (expFix p ((f * l) >>> p), (i : Int) - p)

/-- ln x for x = m * 2^e, m not 0: the power of two taken out and the logarithm of the rest, which lies in 3/4 to 3/2;
both in units of 2^-p. -/
def lnParts (p : Nat) (m : Nat) (e : Int) : Int × Int :=
  let b := bitLen m - 1
  let big : Bool := 3 * 2 ^ b ≤ 2 * m
  let k : Int := e + b + (if big then 1 else 0)
  let d := 2 ^ (if big then b + 1 else b)
  let neg : Bool := m < d
  let num := if neg then d - m else m - d
  let z := num * 2 ^ p / (m + d)
  let s := 2 * atanSum p false ((z * z) >>> p) (p / 4 + 40) 0 z
  (k, if neg then -s else s)

/-- 1 / (1 + e^-x) of x = +-m * 2^e in units of 2^-p. -/
def sigmFix (p : Nat) (neg : Bool) (m : Nat) (e : Int) : Nat :=
  let c := clampMag m e 200
  let t := expApprox p true c.1 c.2
  let u := toFix p t.1 t.2
  if neg then u * 2 ^ p / (2 ^ p + u) else 2 ^ (2 * p) / (2 ^ p + u)

/-- The enclosure of a transcendental function at +-m * 2^e, m not 0, with precision p (R417). -/
def sfnApprox (fn : Sfn) (p : Nat) (s : Bool) (m : Nat) (e : Int) : Approx :=
  let err := 2 ^ 144
  let w := p + 160
  let signed (v : Int) : Approx := { neg := v < 0, n := v.natAbs, e := -(w : Int), err := err }
  match fn with
  | .exp =>
    let c := clampMag m e 200
    let r := expApprox w s c.1 c.2
    { neg := false, n := r.1, e := r.2, err := err }
  | .exp2 =>
    let c := clampMag m e 400
    let r := exp2Approx w s c.1 c.2
    { neg := false, n := r.1, e := r.2, err := err }
  | .log =>
    let r := lnParts w m e
    signed (r.1 * (lnTwo w : Int) + r.2)
  | .log2 =>
    let r := lnParts w m e
    signed (r.1 * (2 ^ w : Nat) + r.2 * (2 ^ w : Nat) / (lnTwo w : Int))
  | .sin | .cos =>
    let h := halfPi w
    let x := toFix w m e
    let k := x / h + (if fn = .cos then 1 else 0)
    let r := x % h
    let v := if k % 2 = 0 then sinFix w r else cosFix w r
    { neg := (k / 2 % 2 == 1) != (s && fn == .sin), n := v, e := -(w : Int), err := err }
  | .tanh =>
    let c := clampMag m e 100
    let t := expApprox w true c.1 (c.2 + 1)
    let u := toFix w t.1 t.2
    { neg := s, n := (2 ^ w - u) * 2 ^ w / (2 ^ w + u), e := -(w : Int), err := err }
  | .sigm => { neg := false, n := sigmFix w s m e, e := -(w : Int), err := err }
  | _ =>
    let c := if s then clampMag m e 200 else (m, e)
    { neg := s, n := sigmFix w s c.1 c.2 * c.1, e := c.2 - w, err := err * c.1 }

/-- Round an enclosure whose two bounds agree. -/
def roundApprox (fp : FP) (mode : RMode) (ftz : Bool) (a : Approx) : Option (Nat × Exc) :=
  if a.n ≤ a.err then none
  else
    let lo := roundF fp mode ftz false a.neg (a.n - a.err) a.e
    let hi := roundF fp mode ftz false a.neg (a.n + a.err) a.e
    if lo = hi then some lo else none

/-- The rounded value of a transcendental function, at the first precision that settles it. -/
def roundSfn (fp : FP) (k : FCtl) (fn : Sfn) (s : Bool) (m : Nat) (e : Int) : List Nat → Nat × Exc
  | [] =>
    let a := sfnApprox fn 4096 s m e
    roundF fp k.mode k.ftz false a.neg a.n a.e
  | p :: l =>
    match roundApprox fp k.mode k.ftz (sfnApprox fn p s m e) with
    | some r => r
    | none => roundSfn fp k fn s m e l

/-- m * 2^e is a whole number. -/
def wholeMag (m : Nat) (e : Int) : Bool := 0 ≤ e || m % 2 ^ (-e).toNat == 0

/-- One element of VSFN (R417). -/
def sfnElem (fp : FP) (k : FCtl) (fn : Sfn) (a : Nat) : Nat × Exc :=
  let dz : Exc := { Exc.none with dz := true }
  let inf (s : Bool) : Nat := fp.sign s + fp.infBits
  let zero (s : Bool) : Nat := fp.sign s
  let one (s : Bool) : Nat := fp.sign s + fp.bias * 2 ^ fp.fb
  let bad : Nat × Exc := (genNan fp 5, Exc.gen 5)
  let put (s : Bool) (r : Nat × Int) : Nat × Exc := roundF fp k.mode k.ftz false s r.1 r.2
  let trans (s : Bool) (m : Nat) (e : Int) : Nat × Exc := roundSfn fp k fn s m e [400, 800, 1600]
  match readF fp k.ftz a with
  | .nan s f => (quietNan fp s f, Exc.none)
  | .inf s =>
    match fn with
    | .rcp => (zero s, Exc.none)
    | .rsqrt => if s then bad else (zero false, Exc.none)
    | .sqrt | .log2 | .log => if s then bad else (inf false, Exc.none)
    | .exp2 | .exp => (if s then zero false else inf false, Exc.none)
    | .sin | .cos => bad
    | .tanh => (one s, Exc.none)
    | .sigm => (if s then zero false else one false, Exc.none)
    | .silu => (if s then zero true else inf false, Exc.none)
  | .fin s 0 _ =>
    match fn with
    | .rcp | .rsqrt => (inf s, dz)
    | .sqrt | .sin | .tanh | .silu => (zero s, Exc.none)
    | .exp2 | .exp | .cos => (one false, Exc.none)
    | .log2 | .log => (inf true, dz)
    | .sigm => (one false - 2 ^ fp.fb, Exc.none)
  | .fin s m e =>
    match fn with
    | .rcp => put s (rcpMag m e)
    | .rsqrt => if s then bad else put false (rsqrtMag m e)
    | .sqrt => if s then bad else put false (sqrtMag m e)
    | .exp2 =>
      if wholeMag m e then
        let c := clampMag m e 400
        let i : Int := (toFix 0 c.1 c.2 : Nat)
        roundF fp k.mode k.ftz false false 1 (if s then -i else i)
      else trans s m e
    | .log2 =>
      if s then bad
      else if m = 2 ^ (bitLen m - 1) then
        let v : Int := e + (bitLen m - 1 : Nat)
        if v = 0 then (zero false, Exc.none) else roundF fp k.mode k.ftz false (v < 0) v.natAbs 0
      else trans s m e
    | .log =>
      if s then bad
      else if m = 2 ^ (bitLen m - 1) ∧ e + (bitLen m - 1 : Nat) = 0 then (zero false, Exc.none)
      else trans s m e
    | _ => trans s m e

end Sys2Proof.Machine
end

