-- ==== Sys2Proof/Machine/Lanes.lean ====
section
/-! DEFINITION. What the vector unit computes on the elements of registers: the template of R384 and the result of
every vector instruction, as functions of register data (R27, R76, R384 to R386, R401 to R409, R416, R417). -/

namespace Sys2Proof.Machine

/-- Element i of width w (R27). -/
def elem (w : Nat) (x : VData) (i : Nat) : Nat := (x.toNat >>> (w * i)) % 2 ^ w

/-- The number whose w-bit digits, from the lowest, are the listed elements. -/
def packElems (w : Nat) : List Nat → Nat
  | [] => 0
  | e :: l => e % 2 ^ w + (packElems w l) <<< w

/-- A register from its elements, element 0 lowest. -/
def ofElems (w : Nat) (l : List Nat) : VData := BitVec.ofNat 4096 (packElems w l)

/-- Element i of a group of registers, in blocked order (R76). -/
def groupElem (w : Nat) (g : List VData) (i : Nat) : Nat :=
  elem w (g.getD (i / (4096 / w)) 0) (i % (4096 / w))

/-- A group of registers from its elements in blocked order (R76). -/
def groupOfElems (w : Nat) : Nat → List Nat → List VData
  | 0, _ => []
  | f + 1, l => ofElems w (l.take (4096 / w)) :: groupOfElems w f (l.drop (4096 / w))

/-- The lane rule of R384: element i of width w is enabled. -/
def laneOn (lane : Option PData) (w i : Nat) : Bool :=
  match lane with
  | none => true
  | some q => q.getLsbD (i * w / 4)

/-- The results of n elements: an enabled element takes its result and its exceptions, a disabled one is kept or
becomes 0, and raises nothing (R384). -/
def laneResults (en : Nat → Bool) (pz : Bool) (keep : Nat → Nat) (f : Nat → Nat × Exc) : List Nat → List Nat × Exc
  | [] => ([], Exc.none)
  | i :: l =>
    let r := laneResults en pz keep f l
    if en i then ((f i).1 :: r.1, (f i).2.or r.2)
    else ((if pz then 0 else keep i) :: r.1, r.2)

/-- A destination register written element by element. -/
def laneMap (w : Nat) (lane : Option PData) (pz : Bool) (old : VData) (f : Nat → Nat × Exc) : VData × Exc :=
  let r := laneResults (laneOn lane w) pz (elem w old) f (List.range (4096 / w))
  (ofElems w r.1, r.2)

/-- The same for results without exceptions. -/
def laneMapI (w : Nat) (lane : Option PData) (pz : Bool) (old : VData) (f : Nat → Nat) : VData :=
  (laneMap w lane pz old fun i => (f i, Exc.none)).1

/-- A scalar as an element of a format (R384). -/
def scalarElem (f : Fmt) (x : Word) : Nat :=
  match f with
  | .i6 => intBits .i6 x.toNat
  | f => x.toNat % 2 ^ fmtWidth f

/-- A source of the template: a register or a scalar. -/
inductive VOperand where
  | reg (d : VData)
  | all (e : Nat)
  deriving DecidableEq, Repr

def VOperand.elem (w : Nat) (o : VOperand) (i : Nat) : Nat :=
  match o with
  | .reg d => Machine.elem w d i
  | .all e => e

/-- An integer result, wrapped or clamped (R58). -/
def intResult (f : Fmt) (sat : Bool) (v : Int) : Nat := intBits f (if sat then clampInt f v else v)

/-- What one arithmetic instruction does to a pair of elements; the kinds of R401. -/
inductive VArith where
  | add | sub | mul | min | max
  deriving DecidableEq, Repr

def arithElem (op : VArith) (f : Fmt) (c : FCtl) (sat : Bool) (a b : Nat) : Nat × Exc :=
  if isFp f then
    let p := fpOf f
    match op with
    | .add => fAdd p c a b
    | .sub => fSub p c a b
    | .mul => fMul p c a b
    | .min => (fMinMax false p c a b, Exc.none)
    | .max => (fMinMax true p c a b, Exc.none)
  else
    let x := intVal f a
    let y := intVal f b
    let v :=
      match op with
      | .add => x + y
      | .sub => x - y
      | .mul => x * y
      | .min => if x ≤ y then x else y
      | .max => if x ≤ y then y else x
    (intResult f sat v, Exc.none)

def fmaElem (f : Fmt) (c : FCtl) (sat : Bool) (x y z : Nat) : Nat × Exc :=
  if isFp f then fFma (fpOf f) c x y z
  else (intResult f sat (intVal f x * intVal f y + intVal f z), Exc.none)

/-- VABS and VNEG: bit operations on floating point (R402). -/
def absElem (f : Fmt) (sat : Bool) (x : Nat) : Nat :=
  if isFp f then x % 2 ^ (fmtWidth f - 1) else intResult f sat ((intVal f x).natAbs : Int)

def negElem (f : Fmt) (sat : Bool) (x : Nat) : Nat :=
  if isFp f then Nat.xor x (2 ^ (fmtWidth f - 1)) else intResult f sat (-intVal f x)

/-- The bitwise instructions and shifts (R403). -/
inductive VBit where
  | and | or | xor | shl | shr
  deriving DecidableEq, Repr

def bitElem (op : VBit) (f : Fmt) (a b : Nat) : Nat :=
  let w := fmtWidth f
  match op with
  | .and => Nat.land a b
  | .or => Nat.lor a b
  | .xor => Nat.xor a b
  | .shl => (a <<< (b % w)) % 2 ^ w
  | .shr => if isSigned f then intBits f (intVal f a >>> (b % w)) else a >>> (b % w)

/-- Set bits among the low n bits of x. -/
def popCount (x : Nat) : Nat → Nat
  | 0 => 0
  | n + 1 => (if x.testBit n then 1 else 0) + popCount x n

/-- VCMP (R406). -/
def cmpElem (k : VCond) (f : Fmt) (c : FCtl) (a b : Nat) : Bool :=
  if isFp f then
    let p := fpOf f
    let x := readF p c.ftz a
    let y := readF p c.ftz b
    if x.isNan || y.isNan then k == .ne || k == .un
    else
      match k with
      | .eq => fvEq x y
      | .ne => !fvEq x y
      | .lt => fvLt x y
      | .le => !fvLt y x
      | .gt => fvLt y x
      | .ge => !fvLt x y
      | .un => false
  else
    let x := intVal f a
    let y := intVal f b
    match k with
    | .eq => x == y
    | .ne => x != y
    | .lt => x < y
    | .le => x ≤ y
    | .gt => y < x
    | .ge => y ≤ x
    | .un => false

/-- The predicate bits of an element-wise condition: each enabled element gives w / 4 equal bits, a disabled element
keeps or clears its bits (R403, R406). -/
def predMap (w : Nat) (lane : Option PData) (pz : Bool) (old : PData) (f : Nat → Bool) : PData :=
  let per := w / 4
  BitVec.ofNat 1024 (packElems 1 ((List.range 1024).map fun j =>
    let i := j / per
    if laneOn lane w i then (if f i then 1 else 0) else if pz then 0 else (if old.getLsbD j then 1 else 0)))

/-- The number of elements that a predicate enables (VPCNT .q, R403). -/
def predCount (w : Nat) (q : PData) : Nat :=
  ((List.range (4096 / w)).filter fun i => q.getLsbD (i * w / 4)).length

/-- The enabled element numbers, ascending. -/
def enabledIdx (w : Nat) (lane : Option PData) : List Nat := (List.range (4096 / w)).filter (laneOn lane w)

/-- VPACK, VUNPK, VPERM, VCPRS and VXPND (R407). -/
def packSrc (w : Nat) (od : Bool) (a b : VData) (i : Nat) : Nat :=
  let h := 4096 / w / 2
  let o := if od then 1 else 0
  if i < h then elem w a (2 * i + o) else elem w b (2 * (i - h) + o)

def unpkSrc (w : Nat) (hi : Bool) (a b : VData) (i : Nat) : Nat :=
  let g := if hi then 4096 / w / 2 else 0
  if i % 2 = 0 then elem w a (g + i / 2) else elem w b (g + i / 2)

/-- The width of the index elements of VPERM: 8-bit and 4-bit data take Z16 indices (R407). -/
def permIdxWidth (w : Nat) : Nat := if w ≤ 16 then 16 else w

/-- Registers of the index group of VPERM (R407). -/
def permRegs (w : Nat) : Nat := if w = 4 then 4 else if w = 8 then 2 else 1

/-- The tag that VPERM asks of its index registers. -/
def permTag (w : Nat) : Fmt := if w ≤ 16 then .z16 else if w = 32 then .z32 else .z64

def permSrc (w : Nat) (a : VData) (x : List VData) (i : Nat) : Nat :=
  elem w a (groupElem (permIdxWidth w) x i % (4096 / w))

def cprsData (w : Nat) (lane : Option PData) (a : VData) : VData :=
  ofElems w ((enabledIdx w lane).map (elem w a))

/-- The rank of element i among the enabled elements. -/
def laneRank (w : Nat) (lane : Option PData) (i : Nat) : Nat := ((List.range i).filter (laneOn lane w)).length

/-- VCVT over a group of n destination registers of width wd from a source group of width ws (R408). -/
def cvtGroup (sf df : Fmt) (c : FCtl) (sat pz : Bool) (lane : Option PData) (src old : List VData) : List VData × Exc :=
  let ws := fmtWidth sf
  let wd := fmtWidth df
  let wm := if ws ≤ wd then ws else wd
  let r := laneResults (laneOn lane wm) pz (groupElem wd old) (fun i => cvtElem sf df c sat (groupElem ws src i))
    (List.range (4096 / wm))
  (groupOfElems wd (if ws ≤ wd then wd / ws else 1) r.1, r.2)

/-- Registers in the source and destination groups of VCVT (R408). -/
def cvtSrcRegs (sf df : Fmt) : Nat := if fmtWidth df < fmtWidth sf then fmtWidth sf / fmtWidth df else 1
def cvtDstRegs (sf df : Fmt) : Nat := if fmtWidth sf < fmtWidth df then fmtWidth df / fmtWidth sf else 1

/-- One step of VRED or VSCAN (R416). -/
def redStep (op : RedOp) (f : Fmt) (c : FCtl) (a b : Nat) : Nat × Exc :=
  match op with
  | .add => arithElem .add f c false a b
  | .min => arithElem .min f c false a b
  | .max => arithElem .max f c false a b
  | .and => (Nat.land a b, Exc.none)
  | .or => (Nat.lor a b, Exc.none)
  | .xor => (Nat.xor a b, Exc.none)

/-- identity(op) (R416). -/
def redIdentity (op : RedOp) (f : Fmt) : Nat :=
  match op with
  | .add | .or | .xor => 0
  | .and => 2 ^ fmtWidth f - 1
  | .min => if isFp f then (fpOf f).infBits else intBits f (intMax f)
  | .max => if isFp f then (fpOf f).sign true + (fpOf f).infBits else intBits f (intMin f)

/-- An element as a step of VRED or VSCAN reads it, also where no step combines it: a NaN with its quiet bit set, and a
subnormal flushed (R26, R38, R46). -/
def redLeaf (op : RedOp) (f : Fmt) (c : FCtl) (x : Nat) : Nat :=
  match op with
  | .add | .min | .max =>
    if isFp f then
      match readF (fpOf f) c.ftz x with
      | .nan s k => quietNan (fpOf f) s k
      | .fin s 0 _ => (fpOf f).sign s
      | _ => x
    else x
  | _ => x

/-- One level of the balanced tree of VRED. -/
def redLevel (op : RedOp) (f : Fmt) (c : FCtl) : List (Option Nat) → List (Option Nat) × Exc
  | x :: y :: l =>
    let r := redLevel op f c l
    match x, y with
    | some a, some b =>
      let z := redStep op f c a b
      (some z.1 :: r.1, z.2.or r.2)
    | none, y => (y :: r.1, r.2)
    | x, none => (x :: r.1, r.2)
  | l => (l, Exc.none)

def redTree (op : RedOp) (f : Fmt) (c : FCtl) : Nat → List (Option Nat) → Option Nat × Exc
  | 0, l => (l.getD 0 none, Exc.none)
  | t + 1, l =>
    let r := redLevel op f c l
    let s := redTree op f c t r.1
    (s.1, r.2.or s.2)

/-- VRED (R416). -/
def redData (op : RedOp) (f : Fmt) (c : FCtl) (lane : Option PData) (a : VData) : VData × Exc :=
  let w := fmtWidth f
  let lv := (List.range (4096 / w)).map fun i => if laneOn lane w i then some (redLeaf op f c (elem w a i)) else none
  let r := redTree op f c (Nat.log2 (4096 / w)) lv
  (ofElems w [r.1.getD (redIdentity op f)], r.2)

/-- VSCAN (R416). -/
def scanList (op : RedOp) (f : Fmt) (c : FCtl) (en : Nat → Bool) (pz : Bool) (old a : Nat → Nat) :
    Option Nat → List Nat → List Nat × Exc
  | _, [] => ([], Exc.none)
  | t, i :: l =>
    if en i then
      let s : Nat × Exc :=
        match t with
        | none => (a i, Exc.none)
        | some x => redStep op f c x (a i)
      let r := scanList op f c en pz old a (some s.1) l
      (s.1 :: r.1, s.2.or r.2)
    else
      let r := scanList op f c en pz old a t l
      ((if pz then 0 else old i) :: r.1, r.2)

def scanData (op : RedOp) (f : Fmt) (c : FCtl) (lane : Option PData) (pz : Bool) (old a : VData) : VData × Exc :=
  let w := fmtWidth f
  let r := scanList op f c (laneOn lane w) pz (elem w old) (fun i => redLeaf op f c (elem w a i)) none (List.range (4096 / w))
  (ofElems w r.1, r.2)

/-- I6 unpacked from and packed into memory: four elements in three bytes (R29). -/
def unpackI6 (x : Nat) : VData :=
  ofElems 8 ((List.range 512).map fun i => intBits .i6 ((x >>> (6 * i)) % 64 : Nat))

def packI6 (d : VData) : Nat := packElems 6 ((List.range 512).map fun i => elem 8 d i % 64)

/-- The lanes of an I6 register sign-extended from bit 5 (R411). -/
def extendI6 (d : VData) : VData := ofElems 8 ((List.range 512).map fun i => intBits .i6 (elem 8 d i : Nat))

/-- Bytes 127:0 kept, the others 0 (R405). -/
def lowPred (d : VData) : VData := (d.extractLsb' 0 1024).setWidth 4096

/-- The data of a register that takes a tag. What a disabled element keeps under the tag I6 is sign-extended, and bytes
511:128 under predicate-image are 0, as R29 and R32 say of every such register (DESIGN CHOICE against R384, log entry
79). -/
def tagForm (tag : Fmt) (d : VData) : VData :=
  match tag with
  | .i6 => extendI6 d
  | .pimg => lowPred d
  | _ => d

end Sys2Proof.Machine
end

