-- ==== Sys2Proof/Machine/Operands.lean ====
section
/-! DEFINITION. Operand forms and results of the scalar instructions, constant windows, branch targets, and the
addresses of class M (R57, R61, R97, R100, R324, R326, R334, R347, R364). -/

namespace Sys2Proof.Machine

/-! Scalar results -/

/-- Bits 127:64 of the exact product, signed or unsigned (R326). -/
def mulHigh (u : Bool) (a b : Word) : Word :=
  if u then BitVec.ofNat 64 (a.toNat * b.toNat / 2 ^ 64) else BitVec.ofInt 64 ((a.toInt * b.toInt) / 2 ^ 64)

/-- The quotient truncated toward zero, 0 for b = 0 (R57). -/
def divWord (u : Bool) (a b : Word) : Word :=
  if b = 0 then 0
  else if u then BitVec.ofNat 64 (a.toNat / b.toNat)
  else BitVec.ofInt 64 (a.toInt.tdiv b.toInt)

/-- The remainder, with the sign of the dividend, a for b = 0 (R57). -/
def remWord (u : Bool) (a b : Word) : Word :=
  if b = 0 then a
  else if u then BitVec.ofNat 64 (a.toNat % b.toNat)
  else BitVec.ofInt 64 (a.toInt.tmod b.toInt)

/-- a is below b, unsigned or signed. -/
def wordLt (u : Bool) (a b : Word) : Bool := if u then a.toNat < b.toNat else a.toInt < b.toInt

/-- Leading zeros; 64 for 0 (R57). -/
def clzWord (a : Word) : Word := BitVec.ofNat 64 (64 - bitLen a.toNat)

/-- Set bits (R57). -/
def popWord (a : Word) : Word := BitVec.ofNat 64 ((List.range 64).foldl (fun n i => if a.getLsbD i then n + 1 else n) 0)

/-- The field of width w at pos, sign-extended for sx (R334). -/
def bfxWord (sx : Bool) (pos w : Nat) (a : Word) : Word :=
  let f := a.toNat / 2 ^ pos % 2 ^ w
  if sx && 2 ^ (w - 1) ≤ f then BitVec.ofInt 64 ((f : Int) - 2 ^ w) else BitVec.ofNat 64 f

/-- The low w bits of a inserted into b at pos (R334). -/
def bfiWord (pos w : Nat) (a b : Word) : Word :=
  let m : Word := BitVec.ofNat 64 (2 ^ w - 1) <<< pos
  (b &&& ~~~ m) ||| ((a <<< pos) &&& m)

/-- MOVI's value from the register a and the immediate (R364). -/
def moviWord (mode : MoviMode) (imm : BitVec 32) (a : Word) : Word :=
  match mode with
  | .zx => imm.setWidth 64
  | .sx => imm.signExtend 64
  | .hi => imm ++ a.extractLsb' 0 32

/-- A condition of CMP (R347). -/
def condHolds (k : Cond) (a b : Word) : Bool :=
  match k with
  | .eq => a == b
  | .ne => a != b
  | .lt => a.toInt < b.toInt
  | .le => a.toInt ≤ b.toInt
  | .gt => b.toInt < a.toInt
  | .ge => b.toInt ≤ a.toInt
  | .ltu => a.toNat < b.toNat
  | .leu => a.toNat ≤ b.toNat
  | .gtu => b.toNat < a.toNat
  | .geu => b.toNat ≤ a.toNat

/-- Width of field k of SYS.WFIELDS (R61). -/
def fieldWidth (f : BitVec 39) (k : Nat) : Nat := (f.extractLsb' (6 * k) 6).toNat + 1
def fieldCount (f : BitVec 39) : Nat := (f.extractLsb' 36 3).toNat + 1

/-- The sum of the widths of the first k fields. -/
def fieldsBelow (f : BitVec 39) : Nat → Nat
  | 0 => 0
  | k + 1 => fieldsBelow f k + fieldWidth f k

/-- Field j of a work identifier (R61). -/
def workField (wid : Word) (f : BitVec 39) (j : Nat) : Word :=
  if j < fieldCount f then BitVec.ofNat 64 (wid.toNat / 2 ^ fieldsBelow f j % 2 ^ fieldWidth f j)
  else if j = fieldCount f then BitVec.ofNat 64 (wid.toNat / 2 ^ fieldsBelow f (fieldCount f))
  else 0

/-! Constant windows (R100) -/

/-- The agent of constant-window reads: the context's own address space. -/
def windowAgent (s : State) (c : Ctx) : Agent := { agentOf s c with asid := c.asid, polder := c.polder }

/-- What a constant-window read leaves: its translations, and its line in the core's constant cache (R100, R191, R242). -/
def noteWindow (s : State) (c : Ctx) (segs : List Seg) : State :=
  segs.foldl (fun t x => constFill t c.id.core (lineOf x.pa)) (noteAccess s (windowAgent s c) .read segs false)

/-- n words from word k of window w, as one little-endian number, and the state after the read; or what it stops on (R100,
R356). An odd k is tested before the bound (DESIGN CHOICE, log entry 89). -/
def readWindow (s : State) (c : Ctx) (q : Seqr) (w k n : Nat) : Except Act (State × Nat) :=
  match c.neutral with
  | some _ =>
    let img := (s.images.find? fun x => some x.id == c.vault)
    let bytes := (img.map fun x => x.windows.getD w []).getD []
    if n = 2 ∧ k % 2 = 1 then .error (.trap s 0x09 0 (BitVec.ofNat 64 (4 * k)))
    else if 2 ^ 17 ≤ k ∨ bytes.length < 4 * (k + n) then .error (.trap s 0x08 0 (BitVec.ofNat 64 (4 * k)))
    else .ok (s, natAt bytes (4 * k) (4 * n))
  | none =>
    let b := c.windows.getD w { base := 0, words := 0 }
    let a := (b.base + 4 * k) % 2 ^ 64
    if n = 2 ∧ k % 2 = 1 then .error (.trap s 0x09 0 (BitVec.ofNat 64 a))
    else if 2 ^ 17 ≤ k ∨ b.words < k + n then .error (.trap s 0x08 0 (BitVec.ofNat 64 a))
    else
      let g := windowAgent s c
      let u := touch s g .read (granules 2 a (4 * n))
      match checkAccess s g .read a (4 * n) (4 * n) with
      | .ok segs =>
        let fab := (c.seq q).fab
        let miss := segs.filter fun x => x.fabric && !fabHas fab x.pa x.len
        if miss ≠ [] then .error (fabricHold u c q miss)
        else if segsPoisoned s (segs.filter fun x => !x.fabric) then .error (.trap u 0x12 0 0)
        else .ok (noteWindow s c segs, leNat (segsReadFab s fab segs))
      | .trap cause va => .error (stopAct (if cause = 0x08 then s else u) c.id q (.trap cause va))
      | r => .error (stopAct u c.id q r)

/-! Code points (R92, R324, R339) -/

/-- A code point as a register value: the line in bits 26:3, the slot in bits 2:0. -/
def codePointWord (p : CodePoint) : Word := BitVec.ofInt 64 (p.line * 8) + BitVec.ofNat 64 p.slot

/-- The code point that a register value names; bits 63:27 must be 0. -/
def wordPoint (w : Word) : CodePoint :=
  { line := (w.extractLsb' 3 24).toNat, slot := (w.extractLsb' 0 3).toNat, bad := w.extractLsb' 27 37 != 0 }

/-- A branch target relative to the line that holds the branch. -/
def branchPoint (x : Seq) (off : BitVec 26) (slot : BitVec 3) : CodePoint :=
  { line := x.pc.line + off.toInt, slot := slot.toNat, bad := false }

/-- CALL's return point as a register value: 0 after the last slot of a stream (R340). -/
def returnWord (x : Seq) : Word :=
  let a := x.advance
  if a.2.2 then 0 else codePointWord a.1

/-! Addresses of class M (R97) -/

def memAddr (c : Ctx) (q : Seqr) (base idx : SReg) (off : BitVec 24) (n : Nat) : Word :=
  c.rS q base + (c.rS q idx <<< Nat.log2 n) + off.signExtend 64

def margAddr (m : MemArg) (c : Ctx) (q : Seqr) (n : Nat) : Word := memAddr c q m.base m.idx m.off n

def ordRel (o : MOrd) : Bool := o == .rel || o == .ar
def ordAcq (o : MOrd) : Bool := o == .acq || o == .ar

end Sys2Proof.Machine
end

