-- ==== Sys2Proof/Machine/Scratch.lean ====
section
/-! DEFINITION. The scratchpad: descriptor pairs and their checks, rotation, reads and writes of bytes, and the cluster
window (R14, R142 to R144, R193 to R195, R274). -/

namespace Sys2Proof.Machine

/-- A descriptor pair's two registers (R142). -/
structure RawDesc where
  lo : Word
  hi : Word
  deriving DecidableEq, Repr

/-- The registers s(2p) and s(2p + 1). -/
def Ctx.rawDesc (c : Ctx) (q : Seqr) (p : Pair) : RawDesc :=
  { lo := c.rS q (BitVec.ofNat 6 (2 * p.toNat)), hi := c.rS q (BitVec.ofNat 6 (2 * p.toNat + 1)) }

def RawDesc.desc (r : RawDesc) : SpDesc :=
  { base := (r.lo.extractLsb' 0 24).toNat, tpitch := (r.lo.extractLsb' 24 24).toNat
    rpitch := (r.hi.extractLsb' 0 16).toNat, rot := (r.hi.extractLsb' 16 2).toNat }

def RawDesc.reservedOk (r : RawDesc) : Bool := r.lo.extractLsb' 48 16 == 0 && r.hi.extractLsb' 18 46 == 0

def SpDesc.aligned (d : SpDesc) : Bool := d.base % 16 == 0 && d.tpitch % 16 == 0 && d.rpitch % 16 == 0

/-- The amount that a row rotates by, in 16-byte lines (R143). -/
def rotAmount (rot r : Nat) : Nat :=
  match rot with
  | 0 => 0
  | 1 => 32 * (r % 2)
  | 2 => 16 * (r % 4)
  | _ => 8 * (r % 8)

/-- Rotation of an offset in row r: bits 9:4 rotated, the others kept (R143). -/
def rotate16 (rot r off : Nat) : Nat :=
  off / 1024 * 1024 + ((off / 16 % 64 + rotAmount rot r) % 64) * 16 + off % 16

/-- The offset of byte x of row r of a descriptor, rotated. -/
def SpDesc.at (d : SpDesc) (r x : Nat) : Nat := rotate16 d.rot r (d.base + r * d.rpitch + x)

/-- The bytes of a carve-out (R77). -/
def Ctx.spBytes (c : Ctx) : Nat := 65536 * c.units

/-- All bytes of a span within one row, under rotation, lie in the carve-out. A rotated line stays within its 1 KiB block,
and the carve-out is whole blocks. -/
def Ctx.spanIn (c : Ctx) (d : SpDesc) (r x n : Nat) : Bool := d.base + r * d.rpitch + x + n ≤ c.spBytes

/-- The checks of R144: the trap and its address, over the spans (row, offset, bytes) that would be touched. -/
def descTrap (c : Ctx) (w : RawDesc) (spans : List (Nat × Nat × Nat)) : Option (Nat × Nat) :=
  let d := w.desc
  if !d.aligned then some (0x09, d.base)
  else if !w.reservedOk then some (0x10, d.base)
  else
    match spans.find? fun t => !c.spanIn d t.1 t.2.1 t.2.2 with
    | some t => some (0x10, d.base + t.1 * d.rpitch + t.2.1)
    | none => none

/-- One byte at an unrotated row offset. -/
def spByte (c : Ctx) (d : SpDesc) (r x : Nat) : Byte := cellGet c.scratch (d.at r x)

/-- n bytes of a row. -/
def spRead (c : Ctx) (d : SpDesc) (r x : Nat) : Nat → List Byte
  | 0 => []
  | n + 1 => spByte c d r x :: spRead c d r (x + 1) n

/-- The scratchpad offsets of n bytes of a row. -/
def spOffs (d : SpDesc) (r x n : Nat) : List Nat := (List.range n).map fun i => d.at r (x + i)

/-- Bytes stored at offsets, in order. -/
def spStoreAll (m : List Host.Cell) : List Nat → List Byte → List Host.Cell
  | o :: os, b :: bs => spStoreAll (cellSet m o b) os bs
  | _, _ => m

/-- The 16-byte lines that a list of offsets covers whole. -/
def wholeLines (offs : List Nat) : List Nat :=
  (offs.filter fun o => o % 16 == 0).filterMap fun o =>
    if (List.range 16).all fun i => offs.contains (o + i) then some (o / 16) else none

/-- The bytes of a 16-byte line that lie among offsets. -/
def spMask (offs : List Nat) (l : Nat) : BitVec 16 :=
  (List.range 16).foldl (fun m i => if offs.contains (16 * l + i) then m ||| (1#16 <<< i) else m) 0

/-- What a line still holds of a TLD's data after other bytes are written (R179). -/
def originLeft (offs : List Nat) (x : Nat × Nat × BitVec 16) : Option (Nat × Nat × BitVec 16) :=
  let m := x.2.2 &&& ~~~spMask offs x.1
  if m = 0 then none else some (x.1, x.2.1, m)

/-- Bytes written to the scratchpad; a poisoned line written whole is clean again (R274), and the bytes no longer are what a
TLD brought (R179). -/
def spWriteAt (c : Ctx) (offs : List Nat) (bs : List Byte) : Ctx :=
  { c with
    scratch := spStoreAll c.scratch offs bs
    spoison := if c.spoison = [] then [] else c.spoison.filter fun l => !(wholeLines offs).contains l
    origin := if c.origin = [] then [] else c.origin.filterMap (originLeft offs) }

def spWrite (c : Ctx) (d : SpDesc) (r x : Nat) (bs : List Byte) : Ctx := spWriteAt c (spOffs d r x bs.length) bs

/-- A poisoned line lies among the offsets. -/
def Ctx.spBad (c : Ctx) (offs : List Nat) : Bool := offs.any fun o => c.spoison.contains (o / 16)

/-! The cluster window (R194, R195) -/

def winOff (a : Word) : Nat := (a.extractLsb' 0 22).toNat

/-- The gang's contexts: the context at a position of the issuer's gang. -/
def gangPeer (s : State) (g : GangRef) (pos : Nat) : Option Ctx :=
  s.ctxs.find? fun c =>
    match c.gang with
    | some h => h.polder == g.polder && h.seq == g.seq && h.gang == g.gang && h.pos == pos
    | none => false

/-- The target of a window address. -/
def winTarget (s : State) (c : Ctx) (a : Word) : Option Ctx :=
  if a.getLsbD 27 then
    match c.gang with
    | none => none
    | some g => gangPeer s g (a.extractLsb' 24 3).toNat
  else
    getCtx s { core := 8 * clusterOf c.id.core + (a.extractLsb' 24 3).toNat, slot := (a.extractLsb' 22 2).toNat }

/-- The checks of R195 on rows of n bytes at window addresses; the target, or the trap and its address. -/
def winCheck (s : State) (c : Ctx) (base : Word) (rows : List (Word × Nat)) : Except (Nat × Word) Ctx :=
  match rows.find? fun r => r.1.extractLsb' 28 36 != 0 with
  | some r => .error (0x08, r.1)
  | none =>
    if c.neutral.isSome then .error (0x0B, base)
    else
      match winTarget s c base with
      | none => .error (0x0B, base)
      | some t =>
        if t.neutral.isSome || t.polder != c.polder || t.asid != c.asid then .error (0x0B, base)
        else
          match rows.find? fun r => t.spBytes < winOff r.1 + r.2 with
          | some r => .error (0x10, r.1)
          | none => .ok t

end Sys2Proof.Machine
end

