-- ==== Sys2Proof/Machine/Mem.lean ====
section
/-! DEFINITION. Scalar and vector memory instructions (R327 to R329, R344 to R346, R353 to R355, R410 to R415). -/

namespace Sys2Proof.Machine

/-- A class M instruction outside neutral contexts, on X, L and S (R168, R355). -/
def scalarMem (i : Instr) : Ctx → Form := notNeutral i [.X, .L, .S]

/-- How a store, ATOM or RED writes (R98, R248). -/
def memMode (h : Hdr) (m : MemArg) : WriteMode :=
  { hint := h.hint, al := m.al, sc := m.sc, rel := ordRel m.ord, size := 1 }

/-- R353, R354. -/
def execLd (h : Hdr) (size : Size) (sx : Bool) (m : MemArg) (d : SReg) (s : State) : Answer :=
  issue s h (scalarMem (.ld h size sx m d)) (sc := m.sc) fun c q =>
    let n := sizeBytes size
    match readMem s c q (margAddr m c q n).toNat n n (readMode h m.sc) with
    | .error a => a
    | .ok (t, bs) =>
      let v := leNat bs
      effect (acquireL1 t c (ordAcq m.ord) m.sc) c.id fun c => c.wS q d
        (if sx && 2 ^ (8 * n - 1) ≤ v then BitVec.ofInt 64 ((v : Int) - 2 ^ (8 * n)) else BitVec.ofNat 64 v)

/-- R353, R354. -/
def execSt (h : Hdr) (size : Size) (m : MemArg) (a : SReg) (s : State) : Answer :=
  issue s h (scalarMem (.st h size m a)) (sc := m.sc) fun c q =>
    let n := sizeBytes size
    let w := margAddr m c q n
    if !spanOk w.toNat n then .trap s 0x08 0 w
    else if w.toNat % n ≠ 0 then .trap s 0x09 0 w
    else storeMem s c q (memMode h m) [(w, leBytes (c.rS q a).toNat n)]

/-- The format of an ATOM or RED: FP32 for .fadd, else the unsigned integer of its size. -/
def atomFmt (op : AtomOp) (w8 : Bool) : Fmt := if op = .fadd then .fp32 else if w8 then .z64 else .z32

/-- R327 to R329. -/
def execAtom (h : Hdr) (op : AtomOp) (w8 : Bool) (m : MemArg) (d : SReg) (s : State) : Answer :=
  issue s h (scalarMem (.atom h op w8 m d)) (sc := m.sc) fun c q =>
    let f := atomFmt op w8
    let n := fmtWidth f / 8
    let lo (r : SReg) : Nat := (c.rS q r).toNat % 2 ^ (8 * n)
    atomMem s c q (memMode h m) (ordAcq m.ord) op f (margAddr m c q n) d (lo d) (lo (d + 1))

/-- R327 to R329. -/
def execRed (h : Hdr) (op : AtomOp) (w8 : Bool) (m : MemArg) (a : SReg) (s : State) : Answer :=
  issue s h (scalarMem (.red h op w8 m a)) (sc := m.sc) fun c q =>
    let f := atomFmt op w8
    let n := fmtWidth f / 8
    let w := margAddr m c q n
    if !spanOk w.toNat n then .trap s 0x08 0 w
    else if w.toNat % n ≠ 0 then .trap s 0x09 0 w
    else redMem s c q (memMode h m) op f [(w, (c.rS q a).toNat % 2 ^ (8 * n))]

/-- R345: a line brought into the caches if every check passes, into the core's L1 for .l1; dropped without effect
otherwise. It reads no byte, so nothing is asked of the host (R344). -/
def execPref (h : Hdr) (k : PrefKind) (m : LineArg) (s : State) : Answer :=
  issue s h (anyCtx (.pref h k m) [.X, .L, .S]) fun c q =>
    let g := hintAgent s c h.hint
    if c.neutral.isSome then .done s .plain Exc.none none
    else
      let a := (memAddr c q m.base m.idx m.off 1).toNat
      match checkAccess s g .read a 1 1 with
      | .ok segs => .done (noteFill s g .read segs (k == .l1 && h.hint != 3)) .plain Exc.none none
      | _ => .done s .plain Exc.none none

/-- The line of a pool address written back if it is dirty in some RDC, and kept clean there (R346). -/
def writeBackLine (s : State) (a : Nat) : State :=
  match rdcFind s (lineOf a) with
  | none => s
  | some x =>
    let holders := s.dies.map fun d => d.rdc.any fun y => y.addr == x.addr
    let t := rdcFlushLine s x
    { t with dies := (t.dies.zip holders).map fun p =>
        if p.2 then { p.1 with rdcClean := x.addr :: p.1.rdcClean } else p.1 }

/-- The place of a line in each RDC that holds it, after a command under a hint (R197). -/
def hintLine (s : State) (hint : BitVec 2) (ln : Nat) : State :=
  { s with dies := s.dies.map fun d =>
      if (rdcLinesOf d).contains ln then { d with rdcOrder := useOrder hint true ln d.rdcOrder } else d }

/-- Every RDC copy of a line dropped, and the L1 copy of a core (R346). -/
def dropCopies (s : State) (core a : Nat) : State :=
  l1Drop { s with dies := s.dies.map fun d =>
      { d with rdcClean := d.rdcClean.filter (· != lineOf a), rdcRemote := d.rdcRemote.filter (· != lineOf a) } }
    core false (· == lineOf a)

/-- R346. -/
def execCmnt (h : Hdr) (k : CmntKind) (m : LineArg) (s : State) : Answer :=
  issue s h (scalarMem (.cmnt h k m)) fun c q =>
    if k = .l1all then .done (l1Drop s c.id.core true fun _ => true) .plain Exc.none none
    else
      let g := agentOf s c
      let v := (memAddr c q m.base m.idx m.off 1).toNat
      let t := if spanOk v 1 then touch s g .read (granules 2 v 1) else s
      match checkAccess s g .read v 1 1 with
      | .ok segs =>
        let a := (segs.map fun x => x.pa).headD 0
        let isPool := match physKind a with | .pool _ => true | _ => false
        .done (match k with
          | .l1inv => l1Drop t c.id.core false (· == lineOf a)
          | .wb => if isPool then hintLine (writeBackLine t a) h.hint (lineOf a) else t
          | .wbinv => dropCopies (if isPool then writeBackLine t a else t) c.id.core a
          | _ => t) .plain Exc.none none
      | r => (stopAct t c.id q r).noLoad

/-! Vector memory -/

/-- Bytes that a memory form moves (R410). -/
def vmemBytes (f : Fmt) : Nat := if f = .i6 then 384 else if f = .pimg then 128 else 512

/-- The register data that a load of a format makes of its bytes; packed tells the 384-byte I6 of memory from the lanes
of scratchpad (R29, R410, R411). -/
def vloadData (f : Fmt) (packed : Bool) (bs : List Byte) : VData :=
  let x := leNat bs
  if f = .i6 then (if packed then unpackI6 x else extendI6 (BitVec.ofNat 4096 x)) else BitVec.ofNat 4096 x

/-- The bytes that a store of a format makes of a register. -/
def vstoreBytes (f : Fmt) (packed : Bool) (d : VData) : List Byte :=
  if f = .i6 && packed then leBytes (packI6 d) 384
  else leBytes d.toNat (if f = .pimg then 128 else 512)

/-- A typed store takes a register of its format (R34, R410). -/
def storeTagOk (f : Fmt) (x : VecReg) : Bool := f == .raw || x.tag == f

/-- R410. -/
def execVld (h : Hdr) (f : Fmt) (m : MemArg) (v : VReg) (s : State) : Answer :=
  issue s h (notNeutral (.vld h f m v) [.L, .S]) (sc := m.sc) fun c q =>
    match readMem s c q (margAddr m c q 512).toNat (vmemBytes f) 16 (readMode h m.sc) with
    | .error a => a
    | .ok (t, bs) => effect (acquireL1 t c (ordAcq m.ord) m.sc) c.id fun c => c.wV v { data := vloadData f true bs, tag := f, pen := 0 }

/-- R410. -/
def execVst (h : Hdr) (f : Fmt) (m : MemArg) (v : VReg) (s : State) : Answer :=
  issue s h (notNeutral (.vst h f m v) [.L, .S]) (sc := m.sc) fun c q =>
    let x := c.rV v
    let w := margAddr m c q 512
    if !storeTagOk f x then .trap s 0x04 0 0
    else if memberParked s c x.pen then .done s .plain Exc.none none
    else if !spanOk w.toNat (vmemBytes f) then .trap s 0x08 0 w
    else if w.toNat % 16 ≠ 0 then .trap s 0x09 0 w
    else storeMem s c q (memMode h m) [(w, vstoreBytes f true x.data)]

/-- Bytes that a scratchpad form moves (R411). -/
def vspBytes (f : Fmt) : Nat := if f = .pimg then 128 else 512

/-- The checks of a scratchpad access of n bytes at row s[r] of a pair (R144, R411). -/
def spRowTrap (c : Ctx) (w : RawDesc) (r : Word) (n : Nat) : Option (Nat × Nat) :=
  if !w.desc.aligned then some (0x09, w.desc.base)
  else if 2 ^ 16 ≤ r.toNat then some (0x10, w.desc.base)
  else descTrap c w [(r.toNat, 0, n)]

/-- Scratchpad accesses of C wait for its matrix instructions (R145). -/
def matrixBusy (c : Ctx) (q : Seqr) : Bool := q == .C && c.matrix != []

/-- R411. -/
def execVldScratchpad (h : Hdr) (f : Fmt) (v : VReg) (p : Pair) (r : SReg) (s : State) : Answer :=
  issue s h (anyCtx (.vldScratchpad h f v p r) [.L, .C, .S]) fun c q =>
    let w := c.rawDesc q p
    let n := vspBytes f
    match spRowTrap c w (c.rS q r) n with
    | some t => .trap s t.1 0 (BitVec.ofNat 64 t.2)
    | none =>
      let row := (c.rS q r).toNat
      if matrixBusy c q then .wait
      else if c.spBad (spOffs w.desc row 0 n) then .trap s 0x12 0 0
      else effect s c.id fun c => c.wV v { data := vloadData f false (spRead c w.desc row 0 n), tag := f, pen := 0 }

/-- R411. -/
def execVstScratchpad (h : Hdr) (f : Fmt) (p : Pair) (r : SReg) (v : VReg) (s : State) : Answer :=
  issue s h (anyCtx (.vstScratchpad h f p r v) [.L, .C, .S]) fun c q =>
    let x := c.rV v
    let w := c.rawDesc q p
    if !storeTagOk f x then .trap s 0x04 0 0
    else if memberParked s c x.pen then .done s .plain Exc.none none
    else
      match spRowTrap c w (c.rS q r) (vspBytes f) with
      | some t => .trap s t.1 0 (BitVec.ofNat 64 t.2)
      | none =>
        if matrixBusy c q then .wait
        else effect s c.id fun c => spWrite c w.desc (c.rS q r).toNat 0 (vstoreBytes f false x.data)

/-- A tile record. -/
def TileRec.reset : TileRec :=
  { opened := false, wide := false, pass := 0, pens := List.replicate 32 0, vacant := 0, parked := 0, nanset := 0
    win := [], wovf := false, since := 0 }

def Ctx.tile (c : Ctx) (t : BitVec 3) : TileRec := c.tiles.getD t.toNat .reset

def Ctx.setTile (c : Ctx) (t : BitVec 3) (x : TileRec) : Ctx := { c with tiles := c.tiles.set t.toNat x }

def TileRec.width (t : TileRec) : Nat := if t.wide then 96 else 32

/-- The checks of R144 on an accumulator tile of w columns, whose first n columns are touched over the given rows. -/
def accTrap (c : Ctx) (d : RawDesc) (w n : Nat) (rows : List Nat) : Option (Nat × Nat) :=
  if !d.desc.aligned then some (0x09, d.desc.base)
  else if d.desc.rpitch < 4 * w then some (0x10, d.desc.base)
  else descTrap c d (if n = 0 then [] else rows.map fun r => (r, 0, 4 * n))

/-- The member of a neutral context that owns a row of a tile. -/
def rowMember (s : State) (c : Ctx) (t : TileRec) (row : Nat) : Option (Nat × Member) :=
  c.neutral.bind fun b => (memberOf s b (t.pens.getD row 0).toNat).map fun y => (b, y)

/-- The member that owns a row of a tile is parked at that row (R173). -/
def parkRow (s : State) (c : Ctx) (t : TileRec) (row : Nat) (cause : BitVec 8) : State :=
  match rowMember s c t row with
  | none => s
  | some (b, y) => parkMember s b (t.pens.getD row 0).toNat cause (32 * t.pass.toNat + row - y.rowOff)

/-- R412. On C it waits first for every earlier matrix instruction, of its record or of another one that may touch the same
bytes (R145). A poisoned row of one member parks that member (R173, R274). -/
def execVldAcc (h : Hdr) (trec : BitVec 3) (v : VReg) (p : Pair) (r : SReg) (s : State) : Answer :=
  issue s h (anyCtx (.vldAcc h trec v p r) [.L, .C, .S]) fun c q =>
    let t := c.tile trec
    let w := c.rawDesc q p
    let row := (c.rS q r).toNat
    if matrixBusy c q then .wait
    else if !t.opened then .trap s 0x0E 17 0
    else if 31 < row then .trap s 0x10 0 (BitVec.ofNat 64 w.desc.base)
    else
      match accTrap c w t.width t.width [row] with
      | some e => .trap s e.1 0 (BitVec.ofNat 64 e.2)
      | none =>
        let pen := if t.vacant.getLsbD row then 0 else t.pens.getD row 0
        if memberParked s c pen then effect s c.id fun c => c.wV v { c.rV v with pen := pen }
        else if c.spBad (spOffs w.desc row 0 (4 * t.width)) then
          if pen ≠ 0 ∧ (rowMember s c t row).isSome then
            effect (parkRow s c t row 0x12) c.id fun c => c.wV v { c.rV v with pen := pen }
          else .trap s 0x12 0 0
        else effect s c.id fun c => c.wV v
          { data := BitVec.ofNat 4096 (leNat (spRead c w.desc row 0 (4 * t.width))), tag := .fp32, pen := pen }

/-! Gathers, scatters and vector reductions -/

/-- The index registers of a gather (R413). -/
def gatherIdx (c : Ctx) (x : GatherArg) : List VecReg := c.rGroup x.ix (gatherGroup x.fmt)

/-- The enabled elements: element number and address (R413). -/
def gatherElems (c : Ctx) (q : Seqr) (x : GatherArg) : List (Nat × Word) :=
  let g := (gatherIdx c x).map fun r => r.data
  (List.range (fmtElems x.fmt)).filterMap fun i =>
    let k := groupElem 32 g i
    if k = 2 ^ 31 then none
    else some (i, c.rS q x.base + BitVec.ofInt 64 ((BitVec.ofNat 32 k).toInt * (fmtWidth x.fmt / 8 : Nat)))

/-- The checks of R413 and R414 before translation, in the order of R233: the trap and its address. -/
def gatherTrap (c : Ctx) (q : Seqr) (x : GatherArg) (store : Bool) : Option (Nat × Word) :=
  if !(gatherIdx c x).all (fun r => r.tag == .i32) || (store && (c.rV x.v).tag != x.fmt) then some (0x04, 0)
  else
    match (gatherElems c q x).find? fun e => !spanOk e.2.toNat (fmtWidth x.fmt / 8) with
    | some e => some (0x08, e.2)
    | none => if (c.rS q x.base).toNat % (fmtWidth x.fmt / 8) ≠ 0 then some (0x09, c.rS q x.base) else none

/-- R413, R414. -/
def execVldx (h : Hdr) (x : GatherArg) (s : State) : Answer :=
  issue s h (notNeutral (.vldx h x) [.L, .S]) fun c q =>
    match gatherTrap c q x false with
    | some t => .trap s t.1 0 t.2
    | none =>
      let n := fmtWidth x.fmt / 8
      let es := gatherElems c q x
      match readPieces s c q .read (es.map fun e => (e.2.toNat, n)) (readMode h x.sc) with
      | .error a => a
      | .ok (t, bs) =>
        let vals := (es.map Prod.fst).zip ((List.range es.length).map fun k => natAt bs (n * k) n)
        effect (acquireL1 t c x.sync x.sc) c.id fun c => c.wV x.v
          { data := ofElems (8 * n) ((List.range (fmtElems x.fmt)).map fun i => (alGet vals i).getD 0)
            tag := x.fmt, pen := 0 }

/-- How VSTX and VREDX write (R248, R413). -/
def gatherMode (h : Hdr) (x : GatherArg) : WriteMode :=
  { hint := h.hint, al := x.al, sc := x.sc, rel := x.sync, size := 1 + gatherGroup x.fmt }

/-- R413, R414. -/
def execVstx (h : Hdr) (x : GatherArg) (s : State) : Answer :=
  issue s h (notNeutral (.vstx h x) [.L, .S]) fun c q =>
    let v := c.rV x.v
    let n := fmtWidth x.fmt / 8
    match gatherTrap c q x true with
    | some t => .trap s t.1 0 t.2
    | none =>
      if memberParked s c v.pen then .done s .plain Exc.none none
      else
        storeMem s c q (gatherMode h x) ((gatherElems c q x).map fun e => (e.2, leBytes (elem (8 * n) v.data e.1) n))

/-- The operation of VREDX on one element (R415). -/
def redxAtom (op : RedxOp) (f : Fmt) : AtomOp :=
  match op with
  | .add => .add
  | .min => if isSigned f then .smin else .umin
  | .max => if isSigned f then .smax else .umax
  | .and => .and
  | .or => .or
  | .xor => .xor
  | .fadd => .fadd

/-- R413 to R415. -/
def execVredx (h : Hdr) (op : RedxOp) (x : GatherArg) (s : State) : Answer :=
  issue s h (notNeutral (.vredx h op x) [.L, .S]) fun c q =>
    let v := c.rV x.v
    let w := fmtWidth x.fmt
    match gatherTrap c q x true with
    | some t => .trap s t.1 0 t.2
    | none =>
      if memberParked s c v.pen then .done s .plain Exc.none none
      else
        redMem s c q (gatherMode h x) (redxAtom op x.fmt) x.fmt ((gatherElems c q x).map fun e => (e.2, elem w v.data e.1))

end Sys2Proof.Machine
end

