-- ==== Sys2Proof/Machine/Matrix.lean ====
section
/-! DEFINITION. The matrix unit: the checks of its instructions, what they compute, and their completion (R88, R135 to
R149, R154 to R157, R168, R173, R272, R358 to R366). -/

namespace Sys2Proof.Machine

/-! Operands -/

/-- One step of the CRC-64 of ECMA-182: a bit shifted in. -/
def crcBit (r : BitVec 64) (b : Bool) : BitVec 64 :=
  if r.getLsbD 63 != b then (r <<< 1) ^^^ 0x42F0E1EBA9EA3693 else r <<< 1

def crcByte (r : BitVec 64) (x : Byte) : BitVec 64 :=
  (List.range 8).foldl (fun r i => crcBit r (x.getLsbD (7 - i))) r

/-- The CRC-64 of a list of bytes (R272). -/
def crc64 (l : List Byte) : BitVec 64 := l.foldl crcByte 0

/-- The offset in a row of element k of an A operand in scratchpad, before rotation (R143). -/
def aOffset (d : SpDesc) (s k : Nat) : Nat := k / 48 * d.tpitch + k % 48 * s

/-- The bits of A element (r, k) of s bytes (R141, R143). -/
def aElem (c : Ctx) (a : AVal) (s r k : Nat) : Nat :=
  match a with
  | .regs _ g => leNat ((List.range s).map fun i =>
      let o := 192 * r + k * s + i
      BitVec.ofNat 8 (elem 8 (g.getD (o / 512) 0) (o % 512)))
  | .scratch d => leNat (spRead c d r (aOffset d s k) s)

/-- The value of an activation. -/
def actVal (f : ActFmt) (x : Nat) : FVal :=
  decodeF (match f with | .e4m3 => fpE4m3 | .e5m2 => fpE5m2 | .bf16 => fpBf16) x

/-- Bytes of one column's 96 stored elements (R420). -/
def wColBytes : WFmt → Nat
  | .w4g48 => 48 | .w3g48 => 36 | .e4m3 => 96 | .bf16 => 192

/-- Logical K and the scale groups of a column (R135, R420). -/
def formK (f : MForm) : Nat := 48 * formChunks f
def formGroups (f : MForm) : Nat := formChunks f

/-- The bytes of a tile in memory (R420). -/
def tileMeta (f : MForm) : Nat := if f = .dense then 0 else 4608
def tileScales (wf : WFmt) (f : MForm) : Nat :=
  match wf with
  | .w4g48 | .w3g48 => 2 * 96 * formGroups f
  | .e4m3 => 192
  | .bf16 => 0
def tileBytes (wf : WFmt) (f : MForm) : Nat := 96 * wColBytes wf + tileMeta f + tileScales wf f

/-- Stored element m of column n. -/
def wElem (g : StageData) (n m : Nat) : FVal :=
  let b := wColBytes g.wf * n
  let int (w v : Nat) : FVal := if 2 ^ (w - 1) ≤ v then .fin true (2 ^ w - v) 0 else .fin false v 0
  match g.wf with
  | .w4g48 => int 4 (natAt g.tile (b + m / 2) 1 / 16 ^ (m % 2) % 16)
  | .w3g48 => int 3 (natAt g.tile (b + m / 8 * 3) 3 / 8 ^ (m % 8) % 8)
  | .e4m3 => decodeF fpE4m3 (natAt g.tile (b + m) 1)
  | .bf16 => decodeF fpBf16 (natAt g.tile (b + 2 * m) 2)

/-- The IDX4 position of retained element m of column n. -/
def idx4 (tile : List Byte) (wf : WFmt) (n m : Nat) : Nat :=
  natAt tile (96 * wColBytes wf + 48 * n + m / 2) 1 / 16 ^ (m % 2) % 16

/-- Metadata is well-formed: positions below 12, strictly ascending within each group (R31). -/
def metaOk (tile : List Byte) (wf : WFmt) (f : MForm) : Bool :=
  f == .dense ||
    let k := formKept f
    (List.range 96).all fun n => (List.range 96).all fun m =>
      let p := idx4 tile wf n m
      p < 12 && (m % k == 0 || idx4 tile wf n (m - 1) < p)

/-- The positions of chunk j of column n that take part: logical K and stored element (R53, R420). -/
def chunkPositions (g : StageData) (n j : Nat) : List (Nat × Nat) :=
  if g.form = .dense then (List.range 48).map fun i => (48 * j + i, 48 * j + i)
  else
    let k := formKept g.form
    (List.range (4 * k)).map fun i =>
      let m := 4 * k * j + i
      (12 * (m / k) + idx4 g.tile g.wf n m, m)

/-- The scale of chunk j of column n (R30, R53, R420). -/
def wScale (g : StageData) (n j : Nat) : FVal :=
  let o := 96 * wColBytes g.wf + tileMeta g.form
  match g.wf with
  | .w4g48 | .w3g48 => decodeF fpBf16 (natAt g.tile (o + 2 * (formGroups g.form * n + j)) 2)
  | .e4m3 => decodeF fpBf16 (natAt g.tile (o + 2 * n) 2)
  | .bf16 => .fin false 1 0

/-! Masks and pennants -/

/-- R149: masked rows and columns. -/
def rowMasked (m : MatCmd) (r : Nat) : Bool := 32 * m.re + (31 - r) < m.padRows
def colMasked (m : MatCmd) (n : Nat) : Bool := 96 * m.ce + (95 - n) < m.padCols

/-- The columns that no padding masks: the first of the 96 (R149). -/
def openCols (ce padCols : Nat) : Nat := Nat.min 96 (96 * ce + 96 - padCols)

/-- A row takes no part (R148). -/
def rowIdle (t : TileRec) (m : MatCmd) (r : Nat) : Bool := rowMasked m r || t.vacant.getLsbD r || t.parked.getLsbD r

/-- The member that owns a bunting row, and its row within the member (R167). -/
def rowOwnerIn (b : Nat) : Nat → List Member → Option (Nat × Nat)
  | _, [] => none
  | k, m :: l => if m.rowOff ≤ b ∧ b < m.rowOff + m.rows then some (k, b - m.rowOff) else rowOwnerIn b (k + 1) l

def rowOwner (x : Bunting) (b : Nat) : Option (Nat × Nat) := rowOwnerIn b 1 x.members

def buntingRows (x : Bunting) : Nat := x.members.foldl (fun n m => n + m.rows) 0

/-- The row pennants, vacant mask and parked mask that MZERO loads for pass p (R147, R173). -/
def zeroRecord (s : State) (c : Ctx) (w32 : Bool) (p : Nat) : TileRec :=
  let base : TileRec := { TileRec.reset with opened := true, wide := !w32, pass := BitVec.ofNat 3 p, since := c.nextXfer }
  match c.neutral.bind (bunting s) with
  | none => base
  | some x =>
    let own (r : Nat) : Option Nat := (rowOwner x (32 * p + r)).map Prod.fst
    let bits (f : Nat → Bool) : BitVec 32 := (List.range 32).foldl (fun m r => if f r then m ||| (1#32 <<< r) else m) 0
    { base with
      pens := (List.range 32).map fun r => BitVec.ofNat 12 ((own r).getD 0)
      vacant := bits fun r => (own r).isNone
      parked := bits fun r => ((own r).bind (fun m => x.members[m - 1]?)).any fun m => m.parked.isSome }

/-- The adapter slot of a row: its member's ASLOT, or the own slot for pennant 0 (R155). -/
def adapterSlot (s : State) (c : Ctx) (own : Nat) (pen : BitVec 12) : Nat :=
  if pen = 0 then own
  else
    match c.neutral with
    | none => own
    | some b => ((memberOf s b pen.toNat).map fun m => m.aslot).getD 0

/-! What a matrix instruction computes -/

/-- The FP32 bits of an accumulator element. -/
def accElem (c : Ctx) (d : SpDesc) (r n : Nat) : Nat := leNat (spRead c d r (4 * n) 4)

/-- One element of MMA and MMAS (R360). -/
def mmaElem (c : Ctx) (m : MatCmd) (g : StageData) (af : ActFmt) (chunks r n : Nat) : Nat × Exc :=
  let cs := (List.range chunks).map fun j =>
    let ts := (chunkPositions g n j).map fun p =>
      ({ a := actVal af (aElem c m.a (actBytes af) r p.1), w := wElem g n p.2, sel := true } : ChunkTerm)
    applyScale (chunkPartial ts) (wScale g n j)
  bankAdd (accElem c m.acc r n) cs

/-- The BF16 adapter element (k, n) of slot j (R154). -/
def adpElem (c : Ctx) (d : SpDesc) (j k n : Nat) : FVal := decodeF fpBf16 (leNat (spRead c d k (j * d.tpitch + 2 * n) 2))

/-- One element of MMAG (R363). -/
def mmagElem (c : Ctx) (m : MatCmd) (adp : SpDesc) (up : Bool) (af : ActFmt) (rank j r n : Nat) : Nat × Exc :=
  let chunk (q len : Nat) : Nat × Exc :=
    let ts := (List.range len).map fun i =>
      ({ a := actVal af (aElem c m.a (actBytes af) r (48 * q + i)), w := adpElem c adp j (48 * q + i) n
         sel := true } : ChunkTerm)
    applyScale (chunkPartial ts) (.fin false 1 0)
  bankAdd (accElem c m.acc r n) (if up then [chunk 0 rank] else [chunk 0 48, chunk 1 48])

/-- A row that was updated: the row, its pennant, and its exceptions. -/
structure RowRes where
  row  : Nat
  pen  : BitVec 12
  exc  : Exc
  deriving DecidableEq, Repr

/-- The contents of the slot that an instruction reads. -/
def slotData (c : Ctx) (m : MatCmd) : Option StageData :=
  match m.kind with
  | .mma ws _ _ _ _ => (c.slots[if ws then 1 else 0]?).bind fun x => x.data
  | _ => none

/-- The columns of a row that an instruction updates, the adapter slot that it reads, and an element's new bits from the
context as it stands; none for a row that takes no part. -/
def rowSum (s : State) (c : Ctx) (m : MatCmd) (g : Option StageData) (r : Nat) :
    Option (List Nat × Nat × (Ctx → Nat → Nat × Exc)) :=
  let t := c.tile m.trec
  let cols := (List.range 96).filter fun n => !colMasked m n
  if rowIdle t m r then none
  else
    match m.kind with
    | .mma _ af _ _ chunks => g.map fun g => (cols, 0, fun x n => mmaElem x m g af chunks r n)
    | .mmag adp up af rank own =>
      let j := adapterSlot s c own (t.pens.getD r 0)
      if j = 0 then none
      else some (if up then cols else List.range rank, j, fun x n => mmagElem x m adp up af rank j r n)
    | .mzero _ _ => none

/-- One element updated, after those before it (R360, R363). -/
def elemStep (m : MatCmd) (r : Nat) (f : Ctx → Nat → Nat × Exc) (x : Ctx × Exc) (n : Nat) : Ctx × Exc :=
  (spWrite x.1 m.acc r (4 * n) (leBytes (f x.1 n).1 4), x.2.or (f x.1 n).2)

def rowStep (s : State) (m : MatCmd) (g : Option StageData) (x : Ctx × List RowRes) (r : Nat) : Ctx × List RowRes :=
  match rowSum s x.1 m g r with
  | none => x
  | some (cols, _, f) =>
    let y := cols.foldl (elemStep m r f) (x.1, Exc.none)
    (y.1, x.2 ++ [{ row := r, pen := (x.1.tile m.trec).pens.getD r 0, exc := y.2 }])

/-- The tile after the rows in order, each element in order, and the rows that were updated (R360, R363). -/
def matRows (s : State) (c : Ctx) (m : MatCmd) (g : Option StageData) : Ctx × List RowRes :=
  (List.range 32).foldl (rowStep s m g) (c, [])

/-- Element k of a row of A is read: in a sparse form one that no column lists is not (R360). -/
def aRead (m : MatCmd) (g : Option StageData) (cols : List Nat) (k : Nat) : Bool :=
  match m.kind, g with
  | .mma _ _ _ _ chunks, some g =>
    g.form == .dense || chunks ≤ k / 48 || cols.any fun n => (chunkPositions g n (k / 48)).any fun p => p.1 == k
  | _, _ => true

/-- The scratchpad offsets that an instruction reads for a row: A, the accumulators, and the adapter of its slot. A row that
takes no part reads none (DESIGN CHOICE, log entry 93). -/
def rowReads (s : State) (c : Ctx) (m : MatCmd) (g : Option StageData) (r : Nat) : List Nat :=
  match rowSum s c m g r with
  | none => []
  | some (cols, j, _) =>
    let k := match m.kind with
      | .mma _ af _ form _ => (formK form, actBytes af)
      | .mmag _ up af rank _ => ((if up then rank else 96), actBytes af)
      | .mzero _ _ => (0, 1)
    let a := match m.a with
      | .regs _ _ => []
      | .scratch d => ((List.range k.1).filter (aRead m g cols)).flatMap fun i => spOffs d r (aOffset d k.2 i) k.2
    let adp := match m.kind with
      | .mmag d _ _ _ _ => (List.range k.1).flatMap fun i => cols.flatMap fun n => spOffs d i (j * d.tpitch + 2 * n) 2
      | _ => []
    a ++ (cols.flatMap fun n => spOffs m.acc r (4 * n) 4) ++ adp

/-- The bytes that a command reads, for its CRC (R272). -/
def matBytes (s : State) (c : Ctx) (m : MatCmd) (g : Option StageData) : List Byte :=
  (match m.a with
    | .regs _ d => d.flatMap fun x => leBytes x.toNat 512
    | .scratch _ => [])
    ++ (List.range 32).flatMap fun r => (rowReads s c m g r).map fun o => cellGet c.scratch o

/-- Commands joined to a window; the 257th closes it unretained (R156). -/
def TileRec.record (t : TileRec) (l : List WinCmd) : TileRec :=
  if t.wovf then t
  else if 256 < t.win.length + l.length then { t with win := [], wovf := true }
  else { t with win := t.win ++ l }

/-- The WLD that filled a slot, where it came after the record's MZERO and is not in the window yet: it joins with the first
instruction that reads its contents (R156; DESIGN CHOICE, log entry 94). -/
def windowWld (t : TileRec) (x : StageSlot) : List WinCmd :=
  match x.src with
  | some (id, w, crc) =>
    if t.since ≤ id && !t.win.any (fun y => match y with | .wld j _ _ => j == id | _ => false) then [.wld id w crc] else []
  | none => []

/-- The poisoned scratchpad lines that an instruction reads, each with the rows that read it. -/
def matBad (s : State) (c : Ctx) (m : MatCmd) (g : Option StageData) : List (Nat × List Nat) :=
  if c.spoison = [] then []
  else
    let reads := (List.range 32).map fun r => (r, rowReads s c m g r)
    (c.spoison.map fun ln => (ln, (reads.filter fun x => x.2.any fun o => o / 16 == ln).map Prod.fst)).filter fun x => x.2 != []

/-- The tile of an MZERO at 0 (R366). -/
def zeroTile (c : Ctx) (m : MatCmd) (w32 : Bool) : Ctx :=
  (List.range 32).foldl (fun c r => spWrite c m.acc r 0 (List.replicate (4 * (if w32 then 32 else 96)) 0)) c

/-- The effect of a matrix instruction when it completes: the context after it, the exceptions of rows with pennant 0 and
of all rows, and the rows whose members are to be parked (R56, R147, R361, R363). -/
def matApply (s : State) (c : Ctx) (m : MatCmd) : Ctx × Exc × Exc × List Nat :=
  match m.kind with
  | .mzero w32 p =>
    ((zeroTile c m w32).setTile m.trec { zeroRecord s c w32 p with win := [.mat m 0 0 none] }, Exc.none, Exc.none, [])
  | k =>
    let g := slotData c m
    let r := matRows s c m g
    let t := c.tile m.trec
    let all := r.2.foldl (fun e x => e.or x.exc) Exc.none
    let own := r.2.foldl (fun e x => if x.pen = 0 then e.or x.exc else e) Exc.none
    let parks := (r.2.filter fun x => (rowMember s c t x.row).any fun y => enabledExc y.2.enables x.exc != 0).map fun x => x.row
    let src := match k with
      | .mma ws _ _ _ _ => c.slots[if ws then 1 else 0]?
      | _ => none
    let pre := if src.any fun x => x.src.any fun y => t.since ≤ y.1 then none else g
    let t1 := t.record ((src.map (windowWld t)).getD [] ++ [.mat m (crc64 (matBytes s c m g)) t.parked pre])
    (r.1.setTile m.trec { t1 with nanset := t1.nanset ||| all.causes.extractLsb' 1 6 }, own, all, parks)

/-! Issue -/

/-- The matrix unit of a core runs one instruction at a time (R152). -/
def unitBusy (s : State) (core : Nat) : Bool := s.ctxs.any fun x => x.id.core == core && x.matrix != []

/-- An A operand as it is captured at issue (R141, R142). -/
def captureA (c : Ctx) (q : Seqr) : AOp → AVal
  | .group v => .regs v.toNat ((c.rGroup v 12).map fun x => x.data)
  | .scratch p => .scratch (c.rawDesc q p).desc

/-- Check 1 of R359. -/
def aTagsOk (c : Ctx) (af : ActFmt) : AOp → Bool
  | .group v => (c.rGroup v 12).all fun x => x.tag == actFmt af
  | .scratch _ => true

/-- Check 4 of R359: the size test of R141. -/
def aSizeOk (af : ActFmt) (k : Nat) : AOp → Bool
  | .group _ => k * actBytes af ≤ 192
  | .scratch _ => true

/-- R144 on a scratchpad A operand of K elements a row. -/
def aTrap (c : Ctx) (q : Seqr) (af : ActFmt) (k : Nat) : AOp → Option (Nat × Nat)
  | .group _ => none
  | .scratch p =>
    let w := c.rawDesc q p
    descTrap c w ((List.range 32).flatMap fun r => (List.range ((k + 47) / 48)).map fun j =>
      (r, j * w.desc.tpitch, Nat.min 48 (k - 48 * j) * actBytes af))

/-- Check 6 of R359: a pennant of the group that differs from an active row's (R172). -/
def aPenOk (c : Ctx) (t : TileRec) : AOp → Bool
  | .group v =>
    (c.rGroup v 12).all fun x =>
      x.pen == 0 || (List.range 32).all fun r =>
        t.vacant.getLsbD r || t.parked.getLsbD r || t.pens.getD r 0 == x.pen
  | .scratch _ => true

/-- The descriptor traps in the order of R359: alignment of every pair before any bound. -/
def firstDesc (l : List (Option (Nat × Nat))) : Option (Nat × Nat) :=
  match l.find? fun x => match x with | some t => t.1 == 0x09 | none => false with
  | some x => x
  | none => (l.find? fun x => x.isSome).getD none

/-- A matrix instruction joins its unit. -/
def startMatrix (s : State) (c : Ctx) (m : MatCmd) : Act :=
  .done (modCtx s c.id fun c => { c with matrix := c.matrix ++ [m] }) .matrix Exc.none none

/-- R359: checks of MMA and MMAS, then their start. Check 5 covers masked rows and chunks, and no masked column, which is not
touched (R144). -/
def issueMma (s : State) (c : Ctx) (q : Seqr) (m : MmaArg) : Act :=
  let slot := (c.slots[if m.ws then 1 else 0]?).getD { data := none, src := none, grans := [], filling := false }
  let t := c.tile m.trec
  if unitBusy s c.id.core || slot.filling then .wait
  else if !aTagsOk c m.af m.a then .trap s 0x04 0 0
  else if !(slot.data.any fun g => g.wf == m.wf && g.form == m.form) then .trap s 0x04 0 0
  else if !t.opened then .trap s 0x0E 17 0
  else if !t.wide then .trap s 0x0E 18 0
  else if !aSizeOk m.af (formK m.form) m.a then .trap s 0x01 0 0
  else
    match firstDesc [accTrap c (c.rawDesc q m.acc) 96 (openCols m.ce.toNat c.padcols.toNat) (List.range 32), aTrap c q m.af (formK m.form) m.a] with
    | some e => .trap s e.1 0 (BitVec.ofNat 64 e.2)
    | none =>
      if !aPenOk c t m.a then .trap s 0x16 0 0
      else
        startMatrix s c
          { kind := .mma m.ws m.af m.wf m.form (m.kx.toNat + 1), trec := m.trec, acc := (c.rawDesc q m.acc).desc
            a := captureA c q m.a, padRows := c.padrows.toNat, padCols := c.padcols.toNat, re := m.re.toNat
            ce := m.ce.toNat }

/-- R358 to R361. -/
def execMma (h : Hdr) (m : MmaArg) (s : State) : Answer :=
  issue s h (anyCtx (.mma h m) [.C]) fun c q => issueMma s c q m

/-- R358 to R361. -/
def execMmas (h : Hdr) (m : MmaArg) (s : State) : Answer :=
  issue s h (anyCtx (.mmas h m) [.C]) fun c q => issueMma s c q m

/-- The adapter spans of the slots that active rows select (R363). -/
def adpSpans (s : State) (c : Ctx) (d : SpDesc) (cmd : MatCmd) (up : Bool) (rank own : Nat) : List (Nat × Nat × Nat) :=
  let t := c.tile cmd.trec
  let slots := ((List.range 32).filter fun r => !rowIdle t cmd r).map fun r => adapterSlot s c own (t.pens.getD r 0)
  let bytes := if up then 2 * openCols cmd.ce cmd.padCols else 2 * rank
  if bytes = 0 then []
  else
    ((List.range 64).filter fun j => j != 0 && slots.contains j).flatMap fun j =>
      (List.range (if up then rank else 96)).map fun k => (k, j * d.tpitch, bytes)

/-- R362, R363. -/
def execMmag (h : Hdr) (m : MmagArg) (s : State) : Answer :=
  issue s h (anyCtx (.mmag h m) [.C]) fun c q =>
    let t := c.tile m.trec
    let rank := m.nm1.toNat + 1
    let k := if m.up then rank else 96
    let raw := c.rawDesc q m.adp
    let cmd : MatCmd :=
      { kind := .mmag raw.desc m.up m.af rank m.as.toNat, trec := m.trec, acc := (c.rawDesc q m.acc).desc
        a := captureA c q m.a, padRows := c.padrows.toNat, padCols := c.padcols.toNat, re := m.re.toNat
        ce := m.ce.toNat }
    if unitBusy s c.id.core then .wait
    else if !aTagsOk c m.af m.a then .trap s 0x04 0 0
    else if !t.opened then .trap s 0x0E 17 0
    else if t.wide != m.up then .trap s 0x0E 18 0
    else if !aSizeOk m.af k m.a then .trap s 0x01 0 0
    else
      match firstDesc [accTrap c (c.rawDesc q m.acc) (if m.up then 96 else 32) (if m.up then openCols m.ce.toNat c.padcols.toNat else rank) (List.range 32), aTrap c q m.af k m.a,
          descTrap c raw (adpSpans s c raw.desc cmd m.up rank m.as.toNat)] with
      | some e => .trap s e.1 0 (BitVec.ofNat 64 e.2)
      | none => if !aPenOk c t m.a then .trap s 0x16 0 0 else startMatrix s c cmd

/-- R366. -/
def execMzero (h : Hdr) (w32 : Bool) (trec : BitVec 3) (acc : Pair) (p : SReg) (s : State) : Answer :=
  issue s h (anyCtx (.mzero h w32 trec acc p) [.C]) fun c q =>
    let d := c.rawDesc q acc
    if unitBusy s c.id.core then .wait
    else if 7 < (c.rS q p).toNat then .trap s 0x0E 19 0
    else
      match accTrap c d (if w32 then 32 else 96) (if w32 then 32 else 96) (List.range 32) with
      | some e => .trap s e.1 0 (BitVec.ofNat 64 e.2)
      | none =>
        startMatrix s c
          { kind := .mzero w32 (c.rS q p).toNat, trec := trec, acc := d.desc, a := .regs 0 [], padRows := 0, padCols := 0
            re := 0, ce := 0 }

/-- MSTAT's word (R157). -/
def mstatWord (t : TileRec) : Word :=
  if !t.opened then 0
  else
    (t.pass.setWidth 64 <<< 53) ||| ((BitVec.ofBool t.wide).setWidth 64 <<< 52) ||| (1#64 <<< 51)
      ||| ((BitVec.ofBool t.wovf).setWidth 64 <<< 50) ||| (BitVec.ofNat 64 t.win.length <<< 41)
      ||| (t.nanset.setWidth 64 <<< 32) ||| t.parked.setWidth 64

/-- R365. -/
def execMstat (h : Hdr) (trec : BitVec 3) (d : SReg) (s : State) : Answer :=
  issue s h (anyCtx (.mstat h trec d) [.C]) fun c q =>
    if c.matrix.any fun x => x.trec == trec then .wait
    else effect s c.id fun x => x.wS q d (mstatWord (c.tile trec))

/-- Flags and causes set as an instruction completes (R43, R48). -/
def setFlags (e : Exc) (c : Ctx) : Ctx := { c with fpcr := fpcrComplete c.fpcr e.bits e.causes }

/-- The oldest matrix op of C that is not done is done, with the trap that its enabled exceptions raise (R44, R361). -/
def matDoneOps (own : Exc) : List Op → List Op
  | [] => []
  | o :: l =>
    if o.kind = .matrix && !o.done then
      let hit := enabledExc o.ena own
      { o with done := true, trap := if hit = 0 then none else some (mkTrap .C 0x05 hit.toNat 0) } :: l
    else o :: matDoneOps own l

/-- The imprecise trap of the matrix instruction that runs (R252). -/
def matTrap (c : Ctx) (detail : Nat) : TrapReq :=
  let o := c.c.ops.find? fun o => o.kind == .matrix && !o.done
  { mkTrap .C 0x12 detail 0 with depth := (o.map fun o => o.depth).getD 0, age := (o.map fun o => o.age).getD 0 }

/-- The matrix instruction that runs ends without effect. -/
def cutMatrix (s : State) (id : CtxId) : State :=
  modCtx s id fun c =>
    { c.modSeq .C (fun x => { x with ops := matDoneOps Exc.none x.ops }) with matrix := c.matrix.drop 1, replay := none }

/-- A record whose window is retained. -/
def TileRec.retained (t : TileRec) : Bool := t.opened && !t.wovf

/-- A matrix instruction completes with its effect. -/
def finishMatrix (s : State) (c : Ctx) (m : MatCmd) : State :=
  let r := matApply s c m
  let t := c.tile m.trec
  let s1 := modCtx s c.id fun _ =>
    let x := setFlags r.2.2.1 r.1
    { x.modSeq .C (fun y => { y with ops := matDoneOps r.2.1 y.ops }) with
      matrix := c.matrix.drop 1, matDone := x.matDone + 1 }
  r.2.2.2.foldl (fun u row => parkRow u c t row 0x05) s1

/-- A bad line that rows of one member alone read. -/
def ofOneMember (s : State) (c : Ctx) (t : TileRec) (x : Nat × List Nat) : Bool :=
  ((x.2.map fun r => t.pens.getD r 0).eraseDups).length == 1 && x.2.all fun r => (rowMember s c t r).isSome

/-- Poisoned lines that no retained window covers: each that rows of one member alone read parks that member, and the
instruction goes on without its rows; if there is any other, trap 0x12 is raised imprecisely and the instruction updates
nothing (R156, R173, R274; DESIGN CHOICE, log entry 78). -/
def badMatrix (s : State) (c : Ctx) (m : MatCmd) (bad : List (Nat × List Nat)) : State :=
  let t := c.tile m.trec
  let u := (bad.filter (ofOneMember s c t)).foldl (fun u x => x.2.foldl (fun u r => parkRow u c t r 0x12) u) s
  if bad.all (ofOneMember s c t) then
    match getCtx u c.id with
    | none => u
    | some d => finishMatrix u d m
  else raiseLater (cutMatrix u c.id) c.id (matTrap c 0)

/-- A 16-byte line of the tile that a command names: the part of its operands that a window retains (R156, R270). -/
def inTile (c : Ctx) (m : MatCmd) (ln : Nat) : Bool :=
  (List.range 32).any fun r => (List.range (c.tile m.trec).width).any fun n => (m.acc.at r (4 * n)) / 16 == ln

/-- The bad lines of the tile of a record whose window is retained: an error in them is replayed (R270). -/
def replayBad (c : Ctx) (m : MatCmd) (bad : List (Nat × List Nat)) : List (Nat × List Nat) :=
  if (c.tile m.trec).retained then bad.filter fun x => inTile c m x.1 else []

/-- A context's matrix instruction completes (R72, R361). An error that it reads in the tile while its window is retained
starts a replay instead (R270); one in an operand in scratchpad lies outside every window (R274). -/
def completeMatrix (s : State) (c : Ctx) : State :=
  match c.matrix with
  | [] => s
  | m :: _ =>
    match matBad s c m (slotData c m) with
    | [] => finishMatrix s c m
    | bad =>
      if replayBad c m bad ≠ [] then modCtx s c.id fun c => { c with replay := some m.trec }
      else badMatrix s c m bad

/-- R72, R152, R361. -/
def execMatrixComplete (id : CtxId) (s : State) : Answer :=
  match getCtx s id with
  | none => .next s
  | some c => .next (if c.replay.isSome then s else completeMatrix s c)

end Sys2Proof.Machine
end

