-- ==== Sys2Proof/Machine/Resid.lean ====
section
/-! DEFINITION. A core's residency table: what completed transfers set and what clears (R178, R179). -/

namespace Sys2Proof.Machine

/-- The granules of which a core holds data: scratchpad lines of live contexts that a TLD wrote, staging slots, L1 lines. -/
def liveGranules (s : State) (core : Nat) : List (BitVec 4 × Nat) :=
  ((s.ctxs.filter fun c => c.id.core == core && c.life != .retired).flatMap fun c =>
      (c.origin.map fun o => (c.polder, o.2.1)) ++ c.slots.flatMap fun x => x.grans.map fun g => (c.polder, g))
    ++ (getCore s core).l1.filterMap fun x => x.gran.map fun g => (x.polder, g)

/-- The L1 of a core gives up the lines for which it has no room left (R77, log entry 14). -/
def l1Trim (s : State) (core : Nat) : State := modCore s core fun k => { k with l1 := k.l1.take (l1Lines s core) }

/-- The bits of a core's table whose data the core no longer holds clear (R179). -/
def refreshResid (s : State) (core : Nat) : State :=
  let s := l1Trim s core
  let live := (liveGranules s core).map fun x => (resKey x.1 x.2, resBit x.2)
  modCore s core fun k =>
    { k with resid := k.resid.filterMap fun e =>
        let keep := live.foldl (fun m x => if x.1 == resKeyOf e.2 then m ||| x.2 else m) (0 : BitVec 16)
        let mask := resMask e.2 &&& keep
        if mask = 0 then none
        else some (e.1, resWord (resKeyOf e.2) (resPin e.2) mask) }

/-- The granules that a completed block TLD or WLD read, recorded in the core's table (R179). The summaries are set as the
L2s fill. -/
def recordResid (s : State) (c : Ctx) (grans : List Nat) : State :=
  modCore s c.id.core fun k =>
    { k with resid := grans.foldl (fun t g => resSet 64 (pinnedGranule s g) c.polder g t) k.resid }

/-- Lines of the vault that transfers of a context read (R198). -/
def fillVault (s : State) (c : Ctx) (hint : BitVec 2) (a n : Nat) : State :=
  (spanLines a n).foldl (fun t ln => fillLine t (dieOf c.id.core) hint c.polder (some (pubGranule (vaultOff s (64 * ln)))) ln) s

end Sys2Proof.Machine
end

