-- ==== Sys2Proof/Machine/Xfer.lean ====
section
/-! DEFINITION. Asynchronous transfers: the checks and start of TLD, TST, TSCAT, TLD.adp, SCOPY and WLD, and their walks
and completion (R140, R175, R176, R209, R212, R213, R233, R301, R375, R376, R391 to R395, R419, R420, R429, R434). -/

namespace Sys2Proof.Machine

/-! Layout -/

/-- Byte x of a row under a chunked layout, before the row pitch is added (R392). -/
def chunkX (ch : Chunk) (d : SpDesc) (x : Nat) : Nat :=
  match ch with
  | .flat => x
  | .c48 => x / 48 * d.tpitch + x % 48
  | .c96 => x / 96 * d.tpitch + x % 96

/-- The scratchpad offsets of n bytes from byte x of transfer row i. -/
def xferOffs (ch : Chunk) (d : SpDesc) (i x n : Nat) : List Nat :=
  (List.range n).map fun k => d.at i (chunkX ch d (x + k))

/-- The scratchpad spans of rows of B bytes, for the checks of R144. -/
def xferSpans (ch : Chunk) (d : SpDesc) (rows bytes : Nat) : List (Nat × Nat × Nat) :=
  (List.range rows).flatMap fun i =>
    match ch with
    | .flat => [(i, 0, bytes)]
    | .c48 => (List.range ((bytes + 47) / 48)).map fun j => (i, j * d.tpitch, Nat.min 48 (bytes - 48 * j))
    | .c96 => (List.range ((bytes + 95) / 96)).map fun j => (i, j * d.tpitch, Nat.min 96 (bytes - 96 * j))

/-- Row i of a block transfer is masked by a captured padding count (R392). -/
def padMasked (rows pad i : Nat) : Bool := rows - 1 - i < pad

/-- The address of row i. -/
def rowAddr (base : Word) (pitch i : Nat) : Word := base + BitVec.ofNat 64 (i * pitch)

/-- A piece of a transfer within one granule: row, byte in the row, address, length. -/
structure Piece where
  row : Nat
  x   : Nat
  va  : Nat
  len : Nat
  deriving DecidableEq, Repr

/-- The pieces of a block transfer's unmasked rows, in walk order. -/
def blockPieces (base : Word) (pitch rows bytes pad : Nat) : List Piece :=
  (List.range rows).flatMap fun i =>
    if padMasked rows pad i then []
    else
      let a := (rowAddr base pitch i).toNat
      (granules (bytes / 4096 + 2) a bytes).map fun g => { row := i, x := g.1 - a, va := g.1, len := g.2 }

/-- A region in CLOSING lets accesses in flight complete: those that started before it closed (R208). -/
def letClosing (s : State) (x : Transfer) : State :=
  { s with regions := s.regions.map fun r =>
      if r.2.levee = .closing ∧ !x.closing.contains r.1 then (r.1, { r.2 with levee := .opened }) else r }

/-! Operations and transfers of a context -/

def getXfer (c : Ctx) (id : Nat) : Option Transfer := c.xfers.find? fun x => x.id == id

def modXfer (s : State) (cid : CtxId) (id : Nat) (f : Transfer → Transfer) : State :=
  modCtx s cid fun c => { c with xfers := c.xfers.map fun x => if x.id = id then f x else x }

/-- The transfer leaves the engine; with a SCOPY its pages are released. -/
def removeXfer (s : State) (cid : CtxId) (id : Nat) : State :=
  let scopy := ((getCtx s cid).bind fun c => getXfer c id).any fun x => match x.kind with | .scopy .. => true | _ => false
  modCtx (if scopy then unstall s else s) cid fun c => { c with xfers := c.xfers.filter fun x => x.id != id }

/-- An op of a transfer or of a WLD. -/
def Op.ofXfer (id : Nat) (o : Op) : Bool :=
  match o.kind with
  | .transfer i | .wld _ i => i == id
  | _ => false

def modOps (s : State) (cid : CtxId) (q : Seqr) (f : Op → Op) : State :=
  modSeq s cid q fun x => { x with ops := x.ops.map f }

/-- The transfer is complete, and its op with it (R72). -/
def xferDone (s : State) (cid : CtxId) (x : Transfer) : State :=
  modOps (removeXfer s cid x.id) cid x.seq fun o => if o.ofXfer x.id then { o with done := true } else o

/-- The transfer moves nothing further and performs no post (R213, R247, R434). -/
def xferDrop (s : State) (cid : CtxId) (x : Transfer) : State :=
  modOps (removeXfer s cid x.id) cid x.seq fun o => if o.ofXfer x.id then o.drop else o

/-- A trap of the instruction of a transfer. -/
def xferReq (s : State) (cid : CtxId) (x : Transfer) (cause : Nat) (addr : Word) : TrapReq :=
  let o := (getCtx s cid).bind fun c => (c.seq x.seq).ops.find? (Op.ofXfer x.id)
  { mkTrap x.seq cause 0 addr with
    depth := (o.map fun o => o.depth).getD 0, age := (o.map fun o => o.age).getD 0, prompt := cause == 0x0D }

/-- A failed transfer raises its trap at its own instruction. -/
def xferTrap (s : State) (cid : CtxId) (x : Transfer) (cause : Nat) (addr : Word) : State :=
  raiseTrap (xferDrop s cid x) cid { xferReq s cid x cause addr with point := some x.point }

/-- The same imprecisely, at the sequencer's next instruction, and for a pool region at once (R209, R252, R274, R434). -/
def xferLate (s : State) (cid : CtxId) (x : Transfer) (cause : Nat) (addr : Word) : State :=
  raiseLater (xferDrop s cid x) cid (xferReq s cid x cause addr)

/-! Moving -/

/-- Bytes that the context's transfers have moved (R309, counter 6). -/
def countMoved (s : State) (cid : CtxId) (n : Nat) : State := modCtx s cid fun c => { c with moved := c.moved + n }

/-- Scratchpad bytes written by a transfer, with the granule they came from (R179). -/
def spLoad (s : State) (cid : CtxId) (offs : List Nat) (bs : List Byte) (g : Option Nat) : State :=
  modCtx s cid fun c =>
    let c1 := spWriteAt c offs bs
    match g with
    | none => c1
    | some g => { c1 with origin := ((offs.map fun o => o / 16).eraseDups.map fun l => (l, g, spMask offs l)) ++ c1.origin }

/-- One translated piece moved. -/
def movePiece (s : State) (cid : CtxId) (q : Seqr) (tid : Option Nat) (g : Agent) (load : Bool) (d : SpDesc) (ch : Chunk)
    (fab : List Host.Cell) (p : Piece) (segs : List Seg) : State × List Word :=
  let offs := xferOffs ch d p.row p.x p.len
  let s := countMoved s cid p.len
  if load then
    (spLoad (noteAccess s g .xferRead segs) cid offs (segsReadFab s fab segs)
      (segs.head?.map (pieceGranule s)), [])
  else
    match getCtx s cid with
    | none => (s, [])
    | some c =>
      let bs := offs.map fun o => cellGet c.scratch o
      let l := splitWrites segs bs
      let s1 := (l.filter fun y => !y.1.fabric).foldl (fun t y => segsWrite t g [y.1] y.2) (noteAccess s g .xferWrite segs)
      fabWrites s1 cid q tid g.polder ((l.filter fun y => y.1.fabric).map fun y => (y.1.pa, y.2, y.1.va))

def xacc (load : Bool) : Acc := if load then .xferRead else .xferWrite

/-- The first piece of the fabric that its own device does not let out (R302, R305). -/
def fabStop (s : State) (p : BitVec 4) (segs : List Seg) : Option (State × Nat × Nat) :=
  (segs.filter fun x => x.fabric).findSome? fun x =>
    match fabEgress s p x.pa with
    | .ok _ => none
    | .error e => some (e.1, e.2, x.va)

/-- The first piece that fails its checks: its number and how. -/
def dryWalk (s : State) (g : Agent) (acc : Acc) : Nat → List Piece → Option (Nat × Checked)
  | _, [] => none
  | n, p :: l =>
    match checkPages s g acc p.va p.len with
    | .ok segs =>
      match fabStop s g.polder segs with
      | some e => some (n, .trap e.2.1 e.2.2)
      | none => dryWalk s g acc (n + 1) l
    | r => some (n, r)

/-- Pieces that have passed their checks moved, with the bytes that the fabric brought. -/
def moveList (s : State) (cid : CtxId) (q : Seqr) (g : Agent) (load : Bool) (d : SpDesc) (ch : Chunk)
    (fab : List Host.Cell) : List Piece → State
  | [] => s
  | p :: l =>
    let t :=
      match checkPages s g (xacc load) p.va p.len with
      | .ok segs => (movePiece s cid q none g load d ch fab p segs).1
      | _ => s
    moveList t cid q g load d ch fab l

/-- The pieces of the fabric whose bytes a load has not been brought. -/
def fabMissing (s : State) (g : Agent) (fab : List Host.Cell) (ps : List Piece) : List Seg :=
  ps.flatMap fun p =>
    match checkPages s g .xferRead p.va p.len with
    | .ok segs => segs.filter fun y => y.fabric && !fabHas fab y.pa y.len
    | _ => []

/-- A block transfer one of whose pages fails its checks at issue: the pages before it are accessed, and the trap is taken
(R213, R233, R252). ps are their pieces, p the one that fails; bytes of the fabric come first. -/
def blockStop (s : State) (c : Ctx) (q : Seqr) (g : Agent) (load : Bool) (d : SpDesc) (ch : Chunk) (ps : List Piece)
    (p : Piece) (cause va : Nat) : Act :=
  let fab := (c.seq q).fab
  let miss := if load then fabMissing s g fab ps else []
  if miss ≠ [] then fabricHold s c q miss
  else
    .trap (touch (moveList s c.id q g load d ch fab ps) g (xacc load) (granules (p.len / 4096 + 2) p.va p.len)) cause 0
      (BitVec.ofNat 64 va)

/-- How a walk ends: all moved, held, waiting for the fabric or for a page, or failed. -/
inductive Walk where
  | all (s : State) (n : Nat)
  | fault (s : State) (n : Nat) (i : FaultInfo)
  | wait (s : State) (n : Nat)
  | trap (s : State) (cause va : Nat)
  | late (s : State) (cause va : Nat)
  deriving DecidableEq, Repr

/-- The walk of a block transfer from piece n on (R213). A piece that a link or its own device's fabric port does not carry
stops it imprecisely (R252, R275). -/
def walkPieces (cid : CtxId) (x : Transfer) (load : Bool) (d : SpDesc) (ch : Chunk) : Nat → List Piece → State → Walk
  | n, [], s => .all s n
  | n, p :: l, s =>
    let u := touch s x.agent (xacc load) (granules (p.len / 4096 + 2) p.va p.len)
    match checkPages (letClosing s x) x.agent (xacc load) p.va p.len with
    | .ok segs =>
      let fab := (((getCtx s cid).bind fun c => getXfer c x.id).map fun y => y.fab).getD []
      let miss := if load then segs.filter fun y => y.fabric && !fabHas fab y.pa y.len else segs.filter Seg.fabric
      match fabStop s x.agent.polder miss with
      | some (t, 0x12, _) => .late t 0x12 0
      | some (t, cause, va) => .trap t cause va
      | none =>
        if load && miss ≠ [] then
          let r := fabReads s cid x.seq (some x.id) x.agent.polder (miss.map fun y => (y.pa, y.len, y.va))
          .wait (modXfer r.1 cid x.id fun y => { y with rtags := y.rtags ++ r.2 }) n
        else if load && segsPoisoned s (segs.filter fun y => !y.fabric) then .late u 0x12 0
        else if !load && ((getCtx s cid).map fun c => c.spBad (xferOffs ch d p.row p.x p.len)).getD false then .late u 0x12 0
        else
          let r := movePiece s cid x.seq (some x.id) x.agent load d ch fab p segs
          walkPieces cid x load d ch (n + 1) l (modXfer r.1 cid x.id fun y => { y with rtags := y.rtags ++ r.2 })
    | .fault i => .fault u n i
    | .fill _ | .held => .wait u n
    | .trap 0x0D va => .late u 0x0D va
    | .trap 0x12 _ => .late u 0x12 0
    | .trap cause va => .trap u cause va

/-- Masked rows of a TLD become zeros (R392). -/
def zeroMasked (s : State) (cid : CtxId) (rows bytes pad : Nat) (d : SpDesc) (ch : Chunk) : State :=
  (List.range rows).foldl (fun t i =>
    if padMasked rows pad i then spLoad t cid (xferOffs ch d i 0 bytes) (List.replicate bytes 0) none else t) s

/-- The granules that a block TLD read. -/
def blockGranules (s : State) (x : Transfer) (ps : List Piece) : List Nat :=
  ps.flatMap fun p =>
    match checkPages (letClosing s x) x.agent .xferRead p.va p.len with
    | .ok segs => segs.map (pieceGranule s)
    | _ => []

/-- Held transfers wait on a fault entry, or for room in the queue (R213, R246). In a context that was ended a transfer that
meets a fault counts as complete (R259). -/
def holdXfer (s : State) (cid : CtxId) (x : Transfer) (n : Nat) (i : FaultInfo) : State :=
  if (getCtx s cid).any fun c => c.cut then xferDrop s cid x
  else
    let r := queueFault s i (.xfer cid x.id) false
    modXfer r.1 cid x.id fun y => { y with progress := n, fault := some r.2 }

/-- A block transfer runs to its end, to a hold or to its failure. -/
def runBlock (s : State) (cid : CtxId) (x : Transfer) (load : Bool) (base : Word) (pitch rows bytes pad : Nat) (d : SpDesc)
    (ch : Chunk) : State :=
  let ps := blockPieces base pitch rows bytes pad
  match walkPieces cid x load d ch x.progress (ps.drop x.progress) s with
  | .all t n =>
    let open_ := (((getCtx t cid).bind fun c => getXfer c x.id).map fun y => y.rtags != []).getD false
    if open_ then modXfer t cid x.id fun y => { y with progress := n }
    else
      let t1 := if load then zeroMasked t cid rows bytes pad d ch else t
      let t2 := xferDone t1 cid x
      if load then
        match getCtx t2 cid with
        | some c => recordResid t2 c (blockGranules s x ps)
        | none => t2
      else t2
  | .fault t n i => holdXfer t cid x n i
  | .wait t n => modXfer t cid x.id fun y => { y with progress := n }
  | .trap t cause va => xferTrap t cid x cause (BitVec.ofNat 64 va)
  | .late t cause va => xferLate t cid x cause (BitVec.ofNat 64 va)

/-- A block TLD of a neutral context: its rows come from the weight vault (R393). -/
def runVault (s : State) (cid : CtxId) (x : Transfer) (base : Word) (pitch rows bytes pad : Nat) (d : SpDesc) (ch : Chunk) :
    State :=
  let live := (List.range rows).filter fun i => !padMasked rows pad i
  let phys := live.filterMap fun i => (vaultPhys s (rowAddr base pitch i) bytes).map fun a => (i, a)
  if phys.any fun p => poisoned s p.2 bytes || !linkUp s (dieOf cid.core) (farDie p.2) then xferLate s cid x 0x12 0
  else
    let t := phys.foldl (fun t p =>
      (granules (bytes / 4096 + 2) p.2 bytes).foldl (fun u g =>
        spLoad u cid (xferOffs ch d p.1 (g.1 - p.2) g.2) (cellsRead s.mem g.1 g.2) (some (pubGranule (vaultOff s g.1)))) t) s
    let t1 := countMoved (xferDone (zeroMasked t cid rows bytes pad d ch) cid x) cid (bytes * phys.length)
    match getCtx t1 cid with
    | some c =>
      recordResid (phys.foldl (fun u p => fillVault u c x.agent.hint p.2 bytes) t1) c (phys.flatMap fun p =>
        (granules (bytes / 4096 + 2) p.2 bytes).map fun g => pubGranule (vaultOff s g.1))
    | none => t1

/-- A transfer through the cluster window (R194, R195). -/
def runWindow (s : State) (cid : CtxId) (x : Transfer) (load : Bool) (base : Word) (pitch rows bytes pad : Nat)
    (d : SpDesc) (ch : Chunk) : State :=
  match getCtx s cid with
  | none => s
  | some c =>
    let live := (List.range rows).filter fun i => !padMasked rows pad i
    match winCheck s c base (live.map fun i => (rowAddr base pitch i, bytes)) with
    | .error e => xferTrap s cid x e.1 e.2
    | .ok t =>
      let far (i : Nat) : List Nat := (List.range bytes).map fun k => winOff (rowAddr base pitch i) + k
      let near (i : Nat) : List Nat := xferOffs ch d i 0 bytes
      if live.any fun i => if load then t.spBad (far i) else c.spBad (near i) then xferLate s cid x 0x12 0
      else
        let s1 := live.foldl (fun u i =>
          if load then
            spLoad u cid (near i) (((getCtx u t.id).map fun y => (far i).map (cellGet y.scratch)).getD []) none
          else
            modCtx u t.id fun y =>
              spWriteAt y (far i) (((getCtx u cid).map fun z => (near i).map (cellGet z.scratch)).getD [])) s
        countMoved (xferDone (if load then zeroMasked s1 cid rows bytes pad d ch else s1) cid x) cid (bytes * live.length)

/-! The sluice (R175, R176, R395) -/

/-- The agent of a member's rows, on the core that runs its bunting. A row's write counts as its task's own. -/
def memberAgent (m : Member) (core : Nat) (hint : BitVec 2 := 0) : Agent :=
  { asid := m.asid, polder := m.task.polder, task := true, launch := some (m.task.polder, m.task.seq), die := dieOf core
    core := some core, who := some { task := m.task, seq := .S, depth := 0, age := 0, va := 0, moves := true }, hint := hint }

/-- A row's checks: the pieces, or the cause its member is parked with (R173, R175). A row whose page is held or whose
buffer fills is not moved yet (waits, below). -/
def rowCheck (s : State) (x : Transfer) (g : Agent) (acc : Acc) (a n : Nat) : Except (BitVec 8) (List Seg) :=
  if !spanOk a n then .error 0x08
  else
    match checkPages (letClosing s x) g acc a n with
    | .ok segs =>
      if segs.any Seg.fabric then .error 0x0B
      else if acc == .xferRead && segsPoisoned s segs then .error 0x12
      else .ok segs
    | .trap cause _ => .error (BitVec.ofNat 8 cause)
    | .fault _ | .fill _ | .held => .error 0x0A

/-- What a row that failed leaves of its translations. -/
def rowTouch (s : State) (g : Agent) (acc : Acc) (a n : Nat) : State :=
  if spanOk a n then touch s g acc (granules (n / 4096 + 2) a n) else s

/-- The owner of a bunting row: its number, the row within it, and the member. -/
def rowOf (s : State) (b row : Nat) : Option ((Nat × Nat) × Member) :=
  (bunting s b).bind fun x => (rowOwner x row).bind fun o => (x.members[o.1 - 1]?).map fun m => (o, m)

/-- The address of a member's row in memory (R175). -/
def rowVa (m : Member) (gather : Bool) (r off : Nat) : Nat :=
  if gather then (m.inRow0 + BitVec.ofNat 64 (r * m.inStride.toNat + off)).toNat
  else (m.outRow0 + BitVec.ofNat 64 (r * m.outStride.toNat + off)).toNat

/-- Bytes of the audit buffer that a sample takes: its member table at 128 bytes an entry, its version and code hash, and
the bytes logged. The layout is not given (DESIGN CHOICE, log entry 22). -/
def sampleBytes (members : List Member) (gathered scattered : List (Nat × List Byte)) : Nat :=
  128 * members.length + 64 + (gathered ++ scattered).foldl (fun n r => n + r.2.length) 0

/-- Bytes of the audit buffer in use. -/
def auditUsed (s : State) : Nat :=
  (s.audits.foldl (fun n a => n + sampleBytes a.members a.gathered []) 0)
    + (s.buntings.filter fun b => b.sample.isSome).foldl (fun n b => n + sampleBytes b.members b.gathered b.scattered) 0

def auditSize (s : State) : Nat := (s.audbuf.extractLsb' 0 16).toNat * 65536

/-- The audit buffer written over what is in use: the layout of its records is not given, so each byte is free (R276, log
entry 22). -/
def writeAudit (s : State) : State :=
  physWrite { s with freeCtr := s.freeCtr + 1 } 4 0 ((s.audbuf.extractLsb' 16 36).toNat * 65536)
    ((List.range (auditUsed s)).map (Config.auditByte s.freeCtr))

/-- Bytes of a sampled unit logged in the audit buffer; a unit that the buffer cannot hold is not sampled (R276). -/
def noteSample (s : State) (b : Nat) (f : Bunting → Bunting) : State :=
  if !s.buntings.any fun x => x.id == b && x.sample.isSome then s
  else
    let t := { s with buntings := s.buntings.map fun x => if x.id = b ∧ x.sample.isSome then f x else x }
    if auditUsed t ≤ auditSize t then t
    else { s with buntings := s.buntings.map fun x =>
      if x.id = b then { x with sample := none, gathered := [], scattered := [] } else x }

/-- The bytes that the sluice gave the original run for a row, or for a member's adapter, and that its replay has not taken
yet (R277). -/
def loggedBytes (s : State) (b key n : Nat) : Option (List Byte) :=
  (bunting s b).bind fun x => (x.gathered.find? fun e => e.1 == key && e.2.length == n).map Prod.snd

/-- The replay has taken them. -/
def takeLogged (s : State) (b key n : Nat) : State :=
  { s with buntings := s.buntings.map fun x =>
      if x.id = b then { x with gathered := x.gathered.eraseP fun e => e.1 == key && e.2.length == n } else x }

/-- The key under which a member's adapter rows are logged, past the bunting's rows. -/
def adapterKey (m : Nat) : Nat := 256 + m

/-- One row of a gather in a replay: the bytes logged; where the original parked the member instead, so does the replay. -/
def replayGather (s : State) (cid : CtxId) (b m key : Nat) (offs : List Nat) : State :=
  match loggedBytes s b key offs.length with
  | none => spLoad (parkMember s b m 0x17 0) cid offs (List.replicate offs.length 0) none
  | some bs => countMoved (spLoad (takeLogged s b key offs.length) cid offs bs none) cid offs.length

/-- One row of a gather. -/
def gatherRow (s : State) (cid : CtxId) (t : Transfer) (b i row off bytes : Nat) (d : SpDesc) (ch : Chunk) : State :=
  let zero (u : State) : State := spLoad u cid (xferOffs ch d i 0 bytes) (List.replicate bytes 0) none
  match rowOf s b row with
  | none => zero s
  | some (o, m) =>
    if m.parked.isSome then zero s
    else if isReplay s b then replayGather s cid b o.1 row (xferOffs ch d i 0 bytes)
    else
      let a := rowVa m true o.2 off
      let g := memberAgent m cid.core t.agent.hint
      match rowCheck s t g .xferRead a bytes with
      | .error e => zero (parkMember (rowTouch s g .xferRead a bytes) b o.1 e o.2)
      | .ok segs =>
        let bs := segsRead s segs
        let s1 := noteSample (noteAccess s g .xferRead segs) b fun x => { x with gathered := x.gathered ++ [(row, bs)] }
        countMoved (spLoad s1 cid (xferOffs ch d i 0 bytes) bs none) cid bytes

/-- A scattered row's bytes noted for the audit's signature (R277). -/
def noteScatter (s : State) (b row : Nat) (bs : List Byte) : State :=
  noteSample s b fun x => { x with scattered := x.scattered ++ [(row, bs)] }

/-- The original run scattered the row as often as its replay would with this one more. -/
def scatteredBefore (s : State) (b row : Nat) : Bool :=
  let times (l : List (Nat × List Byte)) : Nat := (l.filter fun e => e.1 == row).length
  (bunting s b).any fun x =>
    (s.audits.find? fun a => x.replay == some a.index).any fun a => times x.scattered < times a.scattered

/-- One row of a scatter in a replay: its bytes are kept for the signature alone; where the original parked the member
instead, so does the replay (log entry 22). -/
def replayScatter (s : State) (b m row : Nat) (bs : List Byte) : State :=
  if scatteredBefore s b row then
    { s with buntings := s.buntings.map fun x =>
        if x.id = b then { x with scattered := x.scattered ++ [(row, bs)] } else x }
  else parkMember s b m 0x17 0

/-- One row of a scatter. -/
def scatterRow (s : State) (cid : CtxId) (t : Transfer) (b i row off bytes : Nat) (d : SpDesc) (ch : Chunk) : State :=
  match rowOf s b row with
  | none => s
  | some (o, m) =>
    if m.parked.isSome then s
    else if isReplay s b then
      match getCtx s cid with
      | none => s
      | some c =>
        let offs := xferOffs ch d i 0 bytes
        if c.spBad offs then parkMember s b o.1 0x12 o.2
        else replayScatter s b o.1 row (offs.map fun k => cellGet c.scratch k)
    else
      let a := rowVa m false o.2 off
      let g := memberAgent m cid.core t.agent.hint
      match rowCheck s t g .xferWrite a bytes with
      | .error e => parkMember (rowTouch s g .xferWrite a bytes) b o.1 e o.2
      | .ok segs =>
        match getCtx s cid with
        | none => s
        | some c =>
          let offs := xferOffs ch d i 0 bytes
          if c.spBad offs then parkMember s b o.1 0x12 o.2
          else
            let bs := offs.map fun k => cellGet c.scratch k
            let s1 := segsWrite (noteAccess s g .xferWrite segs) g segs bs
            let s2 := { s1 with buntings := s1.buntings.map fun x =>
              if x.id = b then
                { x with members := x.members.modify (o.1 - 1) fun y =>
                    { y with written := y.written ||| (1#32 <<< o.2) } }
              else x }
            countMoved (noteScatter s2 b row bs) cid bytes

def runRows (s : State) (cid : CtxId) (x : Transfer) (gather : Bool) (b0 n off bytes : Nat) (d : SpDesc) (ch : Chunk) :
    State :=
  match (getCtx s cid).bind fun c => c.neutral with
  | none => xferDone s cid x
  | some b =>
    xferDone ((List.range n).foldl (fun t i =>
      if gather then gatherRow t cid x b i (b0 + i) off bytes d ch else scatterRow t cid x b i (b0 + i) off bytes d ch) s)
      cid x

/-- The rows of a member's adapter; the first failure parks the member (R395). -/
def runAdp (s : State) (cid : CtxId) (x : Transfer) (m pitch off rows bytes : Nat) (d : SpDesc) (ch : Chunk) : State :=
  match (getCtx s cid).bind fun c => c.neutral with
  | none => xferDone s cid x
  | some b =>
    xferDone ((List.range rows).foldl (fun t i =>
      match memberOf t b m with
      | none => t
      | some y =>
        let offs := xferOffs ch { d with base := d.base + y.aslot * d.tpitch } i 0 bytes
        if y.parked.isSome || y.aslot == 0 then t
        else if isReplay t b then replayGather t cid b m (adapterKey m) offs
        else
          let a := (y.adpBase + BitVec.ofNat 64 (off + i * pitch)).toNat
          let g := memberAgent y cid.core x.agent.hint
          match rowCheck t x g .xferRead a bytes with
          | .error e => parkMember (rowTouch t g .xferRead a bytes) b m e 0
          | .ok segs =>
            let bs := segsRead t segs
            let u := noteSample (noteAccess t g .xferRead segs) b fun z => { z with gathered := z.gathered ++ [(adapterKey m, bs)] }
            countMoved (spLoad u cid offs bs none) cid bytes) s) cid x

/-! SCOPY (R301, R375, R376, R429) -/

def beBytes (x n : Nat) : List Byte := (leBytes x n).reverse

/-- The IV: salt and counter, most significant bytes first (R375). -/
def scopyIv (salt : BitVec 32) (ctr : Word) : List Byte := beBytes salt.toNat 4 ++ beBytes ctr.toNat 8

/-- The spans of a SCOPY translated, both before anything else is asked of them: destination and source pieces, or how they
fail (step 2 of R376). -/
def scopySpans (s : State) (g : Agent) (dst src : Word) (len : Nat) : Except Checked (List Seg × List Seg) :=
  match transAll s g .xferWrite (granules (len / 4096 + 2) dst.toNat len) with
  | .error e => .error e
  | .ok ds =>
    match transAll s g .xferRead (granules ((len + 16) / 4096 + 2) src.toNat (len + 16)) with
    | .error e => .error e
    | .ok ss =>
      let own (x : Seg) : Bool :=
        segPermitted s g .xferWrite x && populated s x.pa && x.leaf2.isSome && (match physKind x.pa with | .hbm _ => true | _ => false)
      match firstBad own ds with
      | some v => .error (.trap 0x0B v)
      | none =>
        match firstBad (fun x => segPermitted s g .xferRead x && physKind x.pa == .host) ss with
        | some v => .error (.trap 0x0B v)
        | none =>
          if (ds ++ ss).any fun x => !linkUp s g.die (farDie x.pa) then .error (.trap 0x12 0)
          else if ds.any fun x => pageHeld s x.pa then .error .held
          else .ok (ds, ss)

/-- What the translations leave. -/
def scopyTouch (s : State) (g : Agent) (dst src : Word) (len : Nat) : State :=
  touch (touch s g .xferWrite (granules (len / 4096 + 2) dst.toNat len)) g .xferRead
    (granules ((len + 16) / 4096 + 2) src.toNat (len + 16))

/-- Steps 3 and 4 of R376 up to the counter: the state and the status if it is decided, and the captured key. -/
def scopyAccept (s : State) (p : BitVec 4) (k : Nat) (ctr : Word) :
    State × Option Nat × Option (BitVec 256 × BitVec 32) :=
  let y := getKey s k
  if !(getPolder s p).keys.getLsbD k || y.sealKey.isNone then (s, some 3, none)
  else if ctr.toNat ≤ y.lastctr.toNat then (s, some 2, none)
  else ({ s with keys := s.keys.modify k fun z => { z with lastctr := ctr } }, none, y.sealKey)

/-- SCOPYs by cycle of issue, then core, then slot (R301). -/
def issuedBefore (a : CtxId) (x : Transfer) (b : CtxId) (y : Transfer) : Bool :=
  x.since < y.since
    || (x.since == y.since && (a.core < b.core || (a.core == b.core && (a.slot < b.slot || (a.slot == b.slot && x.id < y.id)))))

/-- A SCOPY that names key slot k and has not passed its first step. -/
def Transfer.unaccepted (k : Nat) (x : Transfer) : Bool :=
  match x.kind with
  | .scopy _ _ _ _ _ j none _ none => j == k
  | _ => false

/-- No SCOPY of the key slot that issued earlier has still to pass its first step (R301). -/
def scopyFirst (s : State) (k : Nat) (cid : CtxId) (x : Transfer) : Bool :=
  !(s.ctxs ++ s.saved.map fun v => v.ctx).any fun c => c.xfers.any fun y => y.unaccepted k && issuedBefore c.id y cid x

/-- A SCOPY ends: the data if it was accepted, its status, and its traps. Its pages are released with it. Status 1 given
beforehand is a copy whose function left RUN (R429). -/
def scopyFinish (s : State) (cid : CtxId) (x : Transfer) (d : SReg) (len : Nat) (ctr : Word)
    (key : Option (BitVec 256 × BitVec 32)) (spans : List Seg × List Seg) (status : Option Nat) : State :=
  let report (t : State) (n : Nat) : State :=
    xferDone (modCtx t cid fun c => c.wSAt x.seq (c.xferDepth x.seq x.id) d (BitVec.ofNat 64 n)) cid x
  let write (t : State) (bs : List Byte) : State := segsWrite (noteAccess t x.agent .xferWrite spans.1) x.agent spans.1 bs
  let failed (cause : Nat) : State :=
    raiseLater (report (write s (List.replicate len 0)) 1) cid (xferReq s cid x cause 0)
  match status, key with
  | some n, none => report s n
  | _, none => report s 3
  | some _, some _ => failed 0x0B
  | none, some (k, salt) =>
    if segsPoisoned s spans.2 then failed 0x12
    else
      let bs := segsRead s spans.2
      match gcmDecrypt (leBytes k.toNat 32) (scopyIv salt ctr) (bs.take len) (bs.drop len) with
      | some pt => countMoved (report (write s pt) 0) cid len
      | none => report (write s (List.replicate len 0)) 1

/-- A SCOPY that was held at issue is accepted in its turn once its spans translate, and holds its pages from then on; one
that is accepted ends. -/
def runScopy (s : State) (cid : CtxId) (x : Transfer) (d : SReg) (dst src : Word) (len : Nat) (ctr : Word) (k : Nat)
    (key : Option (BitVec 256 × BitVec 32)) (spans : List Seg × List Seg) (status : Option Nat) : State :=
  if key.isSome || status.isSome then scopyFinish s cid x d len ctr key spans status
  else
    let u := scopyTouch s x.agent dst src len
    match scopySpans s x.agent dst src len with
    | .error (.fault i) => holdXfer u cid x 0 i
    | .error (.trap 0x12 _) => xferLate u cid x 0x12 0
    | .error (.trap cause va) => xferTrap u cid x cause (BitVec.ofNat 64 va)
    | .error _ => u
    | .ok sp =>
      if !scopyFirst s k cid x then s
      else
      let r := scopyAccept u x.agent.polder k ctr
      modXfer r.1 cid x.id fun y => { y with kind := .scopy d dst src len ctr k r.2.2 sp r.2.1 }

/-! Completion -/

/-- An access that waits for a rename buffer or a held page (R117, R301). -/
def waits (s : State) (g : Agent) (acc : Acc) (a n : Nat) : Bool :=
  match checkPages s g acc a n with
  | .fill _ | .held => true
  | _ => false

/-- A transfer cannot go on: what it moves next waits. -/
def xferStuck (s : State) (cid : CtxId) (x : Transfer) : Bool :=
  let b := (getCtx s cid).bind fun c => c.neutral
  let near := b.filter fun b => !isReplay s b
  match x.kind with
  | .block load base pitch rows bytes pad _ _ =>
    ((blockPieces base pitch rows bytes pad)[x.progress]?).any fun p => waits (letClosing s x) x.agent (xacc load) p.va p.len
  | .wld w => b.isNone && waits (letClosing s x) x.agent .xferRead w.addr.toNat (tileBytes w.wf w.form)
  | .rows gather b0 n off bytes _ _ =>
    (List.range n).any fun i =>
      (near.bind fun b => rowOf s b (b0 + i)).any fun (o, m) =>
        m.parked.isNone && waits (letClosing s x) (memberAgent m cid.core) (xacc gather) (rowVa m gather o.2 off) bytes
  | .adp m pitch off rows bytes _ _ =>
    (near.bind fun b => memberOf s b m).any fun y =>
      y.parked.isNone && y.aslot != 0 && (List.range rows).any fun i =>
        waits (letClosing s x) (memberAgent y cid.core) .xferRead (y.adpBase + BitVec.ofNat 64 (off + i * pitch)).toNat bytes
  | .scopy _ dst src len _ k key _ status =>
    key.isNone && status.isNone &&
      (match scopySpans s x.agent dst src len with
       | .error (.fill _) | .error .held => true
       | .ok _ => !scopyFirst s k cid x
       | _ => false)
  | _ => false

/-- The transfer can go on: not held, and no fabric response or acknowledgement outstanding. -/
def xferReady (s : State) (cid : CtxId) (x : Transfer) : Bool := x.fault.isNone && x.rtags == [] && !xferStuck s cid x

/-- R212, R213: a transfer walks its pages to its end, or to what holds or ends it. -/
def runXfer (s : State) (cid : CtxId) (x : Transfer) : State :=
  match x.kind with
  | .block load base pitch rows bytes pad sp ch => runBlock s cid x load base pitch rows bytes pad sp ch
  | .vault base pitch rows bytes pad sp ch => runVault s cid x base pitch rows bytes pad sp ch
  | .window load base pitch rows bytes pad sp ch => runWindow s cid x load base pitch rows bytes pad sp ch
  | .rows gather b0 n off bytes sp ch => runRows s cid x gather b0 n off bytes sp ch
  | .adp m pitch off rows bytes sp ch => runAdp s cid x m pitch off rows bytes sp ch
  | .scopy d dst src len ctr slot key spans status => runScopy s cid x d dst src len ctr slot key spans status
  | .wld _ => s

/-- R72, R212. -/
def execTransferComplete (q : SeqId) (k : Nat) (s : State) : Answer :=
  match (getCtx s (ctxOf q)).bind fun c => getXfer c k with
  | none => notNow s
  | some x =>
    match x.kind with
    | .wld _ => notNow s
    | _ =>
      if x.seq = q.seq && xferReady s (ctxOf q) x then .next (runXfer s (ctxOf q) x)
      else notNow s

/-! Issue -/

/-- Transfers in flight of a context and of its core leave room for one more (R212). -/
def engineRoom (s : State) (c : Ctx) : Bool :=
  let isXfer (x : Transfer) : Bool := match x.kind with | .wld _ => false | _ => true
  (c.xfers.filter isXfer).length < 8
    && ((s.ctxs.filter fun y => y.id.core == c.id.core).flatMap fun y => y.xfers.filter isXfer).length < 16

/-- A transfer starts. -/
def startXfer (s : State) (c : Ctx) (q : Seqr) (sc : Scope) (k : XferKind) (hint : BitVec 2 := 0) : Act :=
  let id := c.nextXfer
  let g := writeAgent s c q hint
  let x : Transfer :=
    { id := id, seq := q, point := (c.seq q).pc, scope := sc
      agent := { g with who := g.who.map fun w => { w with moves := true } }, kind := k, progress := 0
      fault := none, since := s.cycle, closing := (s.regions.filter fun r => r.2.levee == .closing).map Prod.fst, fab := [], rtags := [] }
  .done (modCtx s c.id fun c => { c with xfers := c.xfers ++ [x], nextXfer := id + 1 }) (.transfer id) Exc.none none

def trapAt (s : State) (t : Nat × Nat) : Act := .trap s t.1 0 (BitVec.ofNat 64 t.2)

/-- Rows and bytes of a block form (R391). -/
def blockRows (g : Word) : Nat := (g.extractLsb' 32 12).toNat + 1
def blockBytes (g : Word) : Nat := 16 * ((g.extractLsb' 0 12).toNat + 1)
def blockReservedOk (p g : Word) : Bool :=
  p.extractLsb' 32 32 == 0 && g.extractLsb' 12 20 == 0 && g.extractLsb' 44 20 == 0

/-- Row i of a window transfer stays inside the OFF field of its base (R393). -/
def winRowOk (base : Word) (pitch i n : Nat) : Bool := winOff base + i * pitch + n ≤ 2 ^ 22

/-- TLD and TST: the checks of R393 in order, then the start; a page that fails leaves the earlier pages moved (R233). -/
def issueBlock (s : State) (c : Ctx) (q : Seqr) (load : Bool) (t : BlockArg) (hint : BitVec 2) : Act :=
  let raw := c.rawDesc q t.sp
  let d := raw.desc
  let base := c.rS q t.b
  let p := c.rS q t.p
  let g := c.rS q t.g
  let pitch := p.toNat % 2 ^ 32
  let rows := blockRows g
  let bytes := blockBytes g
  let pad := if t.pad then c.padrows.toNat else 0
  let live := (List.range rows).filter fun i => !padMasked rows pad i
  if !engineRoom s c then .wait
  else if base.toNat % 16 ≠ 0 ∨ p.toNat % 16 ≠ 0 then .trap s 0x09 0 base
  else if !blockReservedOk p g then .trap s 0x08 0 base
  else if t.win && live.any (fun i => !winRowOk base pitch i bytes) then .trap s 0x08 0 base
  else
    match descTrap c raw ((xferSpans t.ch d rows bytes).filter fun y => load || live.contains y.1) with
    | some e => trapAt s e
    | none =>
      if t.win then
        match winCheck s c base (live.map fun i => (rowAddr base pitch i, bytes)) with
        | .error e => .trap s e.1 0 e.2
        | .ok _ => startXfer s c q t.sc (.window load base pitch rows bytes pad d t.ch) hint
      else if c.neutral.isSome then
        match live.find? fun i => (vaultPhys s (rowAddr base pitch i) bytes).isNone with
        | some i => .trap s 0x08 0 (rowAddr base pitch i)
        | none =>
          startXfer s c q t.sc (.vault base pitch rows bytes pad d t.ch) hint
      else
        match live.find? fun i => !spanOk (rowAddr base pitch i).toNat bytes with
        | some i => .trap s 0x08 0 (rowAddr base pitch i)
        | none =>
          let ps := blockPieces base pitch rows bytes pad
          let start := startXfer s c q t.sc (.block load base pitch rows bytes pad d t.ch) hint
          match dryWalk s (agentOf s c) (xacc load) 0 ps with
          | some (n, .trap cause va) =>
            match ps[n]? with
            | some p =>
              if cause = 0x12 then start else blockStop s c q (writeAgent s c q hint) load d t.ch (ps.take n) p cause va
            | none => start
          | _ => start

/-- R391 to R394. -/
def execTld (h : Hdr) (t : BlockArg) (s : State) : Answer :=
  issue s h (anyCtx (.tld h t) [.L]) fun c q => issueBlock s c q true t h.hint

/-- R391 to R394; in a neutral context a permission trap (R168). -/
def execTst (h : Hdr) (t : BlockArg) (s : State) : Answer :=
  issue s h (notNeutral (.tst h t) [.S]) fun c q => issueBlock s c q false t h.hint

/-- Only in a neutral context (R391). -/
def onlyNeutral (i : Instr) (seqs : List Seqr) : Ctx → Form := fun c =>
  { wf := checkOne i, regs := scalarRegs i, seqs := seqs, queue := true, perm := c.neutral.isSome }

/-- TLD.rows and TSCAT: the checks of R393, then the start. -/
def issueRows (s : State) (c : Ctx) (q : Seqr) (gather : Bool) (t : RowArg) (hint : BitVec 2) : Act :=
  let raw := c.rawDesc q t.sp
  let b0 := c.rS q t.b
  let n := c.rS q t.n
  let g := c.rS q t.g
  let bytes := blockBytes g
  let off := (g.extractLsb' 32 32).toNat
  if !engineRoom s c then .wait
  else if off % 16 ≠ 0 then .trap s 0x09 0 b0
  else if g.extractLsb' 12 20 != 0 || n == 0 || 256 < b0.toNat + n.toNat then .trap s 0x08 0 b0
  else
    match descTrap c raw (xferSpans t.ch raw.desc n.toNat bytes) with
    | some e => trapAt s e
    | none => startXfer s c q .ctx (.rows gather b0.toNat n.toNat off bytes raw.desc t.ch) hint

/-- R175, R176, R391 to R394. -/
def execTldRows (h : Hdr) (t : RowArg) (s : State) : Answer :=
  issue s h (onlyNeutral (.tldRows h t) [.L]) fun c q => issueRows s c q true t h.hint

/-- R175, R176, R391 to R394. -/
def execTscat (h : Hdr) (t : RowArg) (s : State) : Answer :=
  issue s h (onlyNeutral (.tscat h t) [.S]) fun c q => issueRows s c q false t h.hint

/-- R395. -/
def execTldAdp (h : Hdr) (t : RowArg) (s : State) : Answer :=
  issue s h (onlyNeutral (.tldAdp h t) [.L]) fun c q =>
    let raw := c.rawDesc q t.sp
    let m := c.rS q t.b
    let p := c.rS q t.n
    let g := c.rS q t.g
    let rows := blockRows g
    let bytes := blockBytes g
    let members := ((c.neutral.bind (bunting s)).map fun x => x.members.length).getD 0
    let aslot := ((c.neutral.bind fun b => memberOf s b m.toNat).map fun y => y.aslot).getD 0
    let d := { raw.desc with base := raw.desc.base + aslot * raw.desc.tpitch }
    if !engineRoom s c then .wait
    else if p.toNat % 2 ^ 32 % 16 ≠ 0 ∨ (p.extractLsb' 32 32).toNat % 16 ≠ 0 then .trap s 0x09 0 m
    else if g.extractLsb' 12 20 != 0 || g.extractLsb' 44 20 != 0 || m == 0 || members < m.toNat then .trap s 0x08 0 m
    else
      match (if !raw.desc.aligned then some (0x09, raw.desc.base)
             else if !raw.reservedOk then some (0x10, raw.desc.base)
             else ((xferSpans t.ch d rows bytes).find? fun x => !c.spanIn d x.1 x.2.1 x.2.2).map fun x =>
               (0x10, d.base + x.1 * d.rpitch + x.2.1)) with
      | some e => trapAt s e
      | none =>
        startXfer s c q .ctx (.adp m.toNat (p.toNat % 2 ^ 32) (p.extractLsb' 32 32).toNat rows bytes raw.desc t.ch) h.hint

/-- R375, R376. -/
def execScopy (h : Hdr) (k : BitVec 5) (d a b l e : SReg) (s : State) : Answer :=
  issue s h (notNeutral (.scopy h k d a b l e) [.L]) fun c q =>
    let dst := c.rS q a
    let src := c.rS q b
    let len := (c.rS q l).toNat
    let ctr := c.rS q e
    let g := agentOf s c
    if !engineRoom s c then .wait
    else if (getPolder s g.polder).tdi = 3 then .trap s 0x0B 0 src
    else if dst.toNat % 16 ≠ 0 then .trap s 0x09 0 dst
    else if src.toNat % 16 ≠ 0 then .trap s 0x09 0 src
    else if len % 16 ≠ 0 then .trap s 0x09 0 dst
    else if len = 0 ∨ 2 ^ 24 < len then .trap s 0x08 0 dst
    else if !spanOk dst.toNat len then .trap s 0x08 0 dst
    else if !spanOk src.toNat (len + 16) then .trap s 0x08 0 src
    else
      let u := scopyTouch s g dst src len
      let k := k.toNat
      match scopySpans s g dst src len with
      | .error (.trap cause va) =>
        if cause = 0x12 then startXfer s c q .ctx (.scopy d dst src len ctr k none ([], []) none)
        else .trap u cause 0 (BitVec.ofNat 64 va)
      | .error _ => startXfer s c q .ctx (.scopy d dst src len ctr k none ([], []) none)
      | .ok sp =>
        if (s.ctxs ++ s.saved.map fun v => v.ctx).any fun c => c.xfers.any (Transfer.unaccepted k) then
          startXfer s c q .ctx (.scopy d dst src len ctr k none ([], []) none)
        else
          let r := scopyAccept u g.polder k ctr
          startXfer r.1 c q .ctx (.scopy d dst src len ctr k r.2.2 sp r.2.1)

/-! WLD (R419, R420) -/

/-- The source bytes of a WLD: with its granules, or how it stops. -/
def wldRead (s : State) (c : Ctx) (g : Agent) (fab : List Host.Cell) (w : WldCmd) :
    Except Checked (List Byte × List Nat × List Seg) :=
  let n := tileBytes w.wf w.form
  if c.neutral.isSome then
    match vaultPhys s w.addr n with
    | none => .error (.trap 0x08 w.addr.toNat)
    | some a =>
      if !linkUp s (dieOf c.id.core) (farDie a) then .error (.trap 0x12 0)
      else if poisoned s a n then .error (.trap 0x12 0)
      else .ok (cellsRead s.mem a n, (granules (n / 4096 + 2) a n).map fun x => pubGranule (vaultOff s x.1), [])
  else
    match checkPages s g .xferRead w.addr.toNat n with
    | .ok segs =>
      if segsPoisoned s (segs.filter fun x => !x.fabric) then .error (.trap 0x12 0)
      else .ok (segsReadFab s fab segs, segs.map (pieceGranule s), segs)
    | r => .error r

/-- What the reading of a WLD leaves. -/
def wldNote (s : State) (c : Ctx) (g : Agent) (w : WldCmd) (segs : List Seg) : State :=
  let n := tileBytes w.wf w.form
  if c.neutral.isSome then
    match vaultPhys s w.addr n with
    | some a => fillVault s c g.hint a n
    | none => s
  else noteAccess s g .xferRead segs

def wldTouch (s : State) (c : Ctx) (g : Agent) (w : WldCmd) : State :=
  let n := tileBytes w.wf w.form
  if c.neutral.isSome then s else touch s g .xferRead (granules (n / 4096 + 2) w.addr.toNat n)

def modSlot (s : State) (cid : CtxId) (ws : Bool) (f : StageSlot → StageSlot) : State :=
  modCtx s cid fun c => { c with slots := c.slots.modify (if ws then 1 else 0) f }

/-- R419: the fill starts; what can be found wrong at once is. An uncorrectable error traps imprecisely when the fill meets
it (R252). -/
def execWld (h : Hdr) (w : WldArg) (a : SReg) (s : State) : Answer :=
  issue s h (anyCtx (.wld h w a) [.L]) fun c q =>
    let addr := c.rS q a
    let n := tileBytes w.wf w.form
    let cmd : WldCmd := { addr := addr, ws := w.ws, wf := w.wf, form := w.form }
    let g := writeAgent s c q h.hint
    let start : Act :=
      match startXfer s c q w.sc (.wld cmd) h.hint with
      | .done t (.transfer id) e x => .done (modSlot t c.id w.ws fun y => { y with filling := true }) (.wld w.ws id) e x
      | x => x
    if (if c.neutral.isSome then (vaultPhys s addr n).isNone else !spanOk addr.toNat n) then .trap s 0x08 0 addr
    else if addr.toNat % 16 ≠ 0 then .trap s 0x09 0 addr
    else
      match wldRead s c g [] cmd with
      | .ok (bs, _, segs) =>
        if segs.any Seg.fabric then
          match fabBlocked s c segs with
          | some (t, cause, va) => if cause = 0x12 then start else .trap t cause 0 (BitVec.ofNat 64 va)
          | none => start
        else if metaOk bs w.wf w.form then start
        else .trap (wldTouch s c g cmd) 0x04 0 0
      | .error (.trap cause va) =>
        if cause = 0x12 then start else .trap (wldTouch s c g cmd) cause 0 (BitVec.ofNat 64 va)
      | .error _ => start

/-- The oldest fill in flight of a slot. -/
def wldXfer (c : Ctx) (ws : Bool) : Option (Transfer × WldCmd) :=
  c.xfers.findSome? fun x =>
    match x.kind with
    | .wld w => if w.ws = ws then some (x, w) else none
    | _ => none

/-- The slots of a context whose fills are gone are filling no longer. -/
def Ctx.settleSlots (c : Ctx) : Ctx :=
  { c with slots := c.slots.mapIdx fun i y => { y with filling := y.filling && (wldXfer c (i == 1)).isSome } }

/-- The slot of a fill that ends keeps filling while another fill of it is in flight. -/
def slotFree (s : State) (cid : CtxId) (ws : Bool) : State :=
  match getCtx s cid with
  | none => s
  | some c => if (wldXfer c ws).isSome then s else modSlot s cid ws fun y => { y with filling := false }

/-- A fill runs to its end, to a hold or to its failure (R138, R140). -/
def runWld (s : State) (c : Ctx) (x : Transfer) (w : WldCmd) : State :=
  let u := wldTouch s c x.agent w
  match wldRead (letClosing s x) c x.agent x.fab w with
  | .error (.fault i) => holdXfer u c.id x 0 i
  | .error (.trap 0x12 _) => slotFree (xferLate u c.id x 0x12 0) c.id w.ws
  | .error (.trap 0x0D va) => slotFree (xferLate u c.id x 0x0D (BitVec.ofNat 64 va)) c.id w.ws
  | .error (.trap cause va) => slotFree (xferTrap u c.id x cause (BitVec.ofNat 64 va)) c.id w.ws
  | .error _ => s
  | .ok (bs, grans, segs) =>
    let miss := segs.filter fun y => y.fabric && !fabHas x.fab y.pa y.len
    match fabStop s x.agent.polder miss with
    | some (t, 0x12, _) => slotFree (xferLate t c.id x 0x12 0) c.id w.ws
    | some (t, cause, va) => slotFree (xferTrap t c.id x cause (BitVec.ofNat 64 va)) c.id w.ws
    | none =>
      if miss ≠ [] then
        let r := fabReads s c.id x.seq (some x.id) x.agent.polder (miss.map fun y => (y.pa, y.len, y.va))
        modXfer r.1 c.id x.id fun y => { y with rtags := r.2 }
      else if !metaOk bs w.wf w.form then slotFree (xferTrap u c.id x 0x04 0) c.id w.ws
      else
        let s1 := modSlot (wldNote s c x.agent w segs) c.id w.ws fun y =>
          { y with
            data := some { wf := w.wf, form := w.form, tile := bs }
            src := some (x.id, w, crc64 bs)
            grans := grans }
        let s2 := countMoved (slotFree (xferDone s1 c.id x) c.id w.ws) c.id bs.length
        match getCtx s2 c.id with
        | some c2 => recordResid s2 c2 grans
        | none => s2

/-- A matrix instruction that reads the slot is in flight. -/
def slotRead (c : Ctx) (ws : Bool) : Bool :=
  c.matrix.any fun m => match m.kind with | .mma w _ _ _ _ => w == ws | _ => false

def wldReady (s : State) (c : Ctx) (ws : Bool) : Bool :=
  match wldXfer c ws with
  | none => false
  | some (x, _) => xferReady s c.id x && !slotRead c ws

/-- R72, R140, R153: the slot is filled. -/
def execWldFillComplete (id : CtxId) (ws : Bool) (s : State) : Answer :=
  match getCtx s id with
  | none => notNow s
  | some c =>
    match wldXfer c ws with
    | none => notNow s
    | some (x, w) =>
      if wldReady s c ws then .next (runWld s c x w) else notNow s

/-! RROT (R214, R374) -/

/-- R374: the checks and the arrival. -/
def execRrot (h : Hdr) (dst src : Pair) (l : SReg) (s : State) : Answer :=
  issue s h (fun c => { wf := checkOne (.rrot h dst src l)
                        regs := scalarRegs (.rrot h dst src l), seqs := [.L], queue := true
                        perm := c.gang.isSome && c.neutral.isNone }) fun c q =>
    let rd := c.rawDesc q dst
    let rs := c.rawDesc q src
    let n := (c.rS q l).toNat
    let d := rd.desc.base
    let e := rs.desc.base
    if d % 16 ≠ 0 ∨ e % 16 ≠ 0 ∨ n % 16 ≠ 0 then .trap s 0x09 0 (BitVec.ofNat 64 d)
    else if !rd.reservedOk || !rs.reservedOk || n == 0 || 16384 < n || c.spBytes < d + n || c.spBytes < e + n then
      .trap s 0x10 0 (BitVec.ofNat 64 d)
    else if !releaseReady s c q .cluster then .waitRel .cluster
    else .done (modCtx s c.id fun c => { c with rrot := some (e, d, n), rrotWait := true }) .rrot Exc.none none

/-- The members of a gang that are resident. -/
def gangMembers (s : State) (g : GangRef) : List Ctx :=
  s.ctxs.filter fun c =>
    match c.gang with
    | some h => h.polder == g.polder && h.seq == g.seq && h.gang == g.gang
    | none => false

/-- A member counts as arrived at every later collective: its context was ended, or its X has retired END, whatever handler
runs in it now (R64, R214). -/
def memberEnded (c : Ctx) : Bool := c.cut || c.life == .retired || c.baseRun .X == .ended

/-- A member of the gang is saved. -/
def gangSaved (s : State) (g : GangRef) : Bool := s.saved.any fun v => v.ctx.gang.any fun h =>
  h.polder == g.polder && h.seq == g.seq && h.gang == g.gang

/-- The gang of the context has arrived at a rotation. -/
def rrotReady (s : State) (g : GangRef) : Bool :=
  !gangSaved s g && (gangMembers s g).any (fun c => c.rrotWait) && (gangMembers s g).all (fun c => c.rrotWait || memberEnded c)

def Op.isRrot (o : Op) : Bool := match o.kind with | .rrot => true | _ => false

/-- R214: every member's source moves to the next position's destination. Each completion is an acquire at cluster scope
(R196, R223). -/
def runRrot (s : State) (g : GangRef) : State :=
  let ms := gangMembers s g
  let sent (p : Nat) : Option (List Byte) :=
    (ms.find? fun c => (c.gang.map fun h => h.pos) == some p).bind fun c =>
      c.rrot.map fun r => cellsRead c.scratch r.1 r.2.2
  let bad := ms.any fun c => (c.rrot.map fun r => c.spBad ((List.range r.2.2).map (r.1 + ·))).getD false
  let s1 := ms.foldl (fun t c =>
    match c.gang.bind fun h => sent ((h.pos + 7) % 8), c.rrot with
    | some bs, some r =>
      let k := Nat.min bs.length r.2.2
      modCtx t c.id fun y => spWriteAt y ((List.range k).map (r.2.1 + ·)) (bs.take k)
    | _, _ => t) s
  let s2 := ms.foldl (fun t c =>
    acquireL1 (modCtx t c.id fun y =>
      { y.modSeq .L (fun x => { x with ops := x.ops.map fun o => if o.isRrot then { o with done := true } else o }) with
        rrotWait := false }) c c.rrotWait .cluster) s1
  let late (t : State) (c : Ctx) : State :=
    let o := c.l.ops.find? Op.isRrot
    raiseLater t c.id { mkTrap .L 0x12 0 0 with depth := (o.map fun o => o.depth).getD 0, age := (o.map fun o => o.age).getD 0 }
  if bad then (ms.filter fun c => c.rrotWait).foldl late s2 else s2

/-- R214. -/
def execRrotComplete (id : CtxId) (s : State) : Answer :=
  match (getCtx s id).bind fun c => c.gang with
  | none => notNow s
  | some g => if rrotReady s g then .next (runRrot s g) else notNow s

end Sys2Proof.Machine
end

