-- ==== Sys2Proof/Machine/Launch.lean ====
section
/-! DEFINITION. Launches: records and their checks, queues, dependences, rename buffers and their fills, commit and
completion tokens (R59, R60, R62, R78, R101 to R103, R109 to R123, R127, R131, R133, R160). -/

namespace Sys2Proof.Machine

/-! Launch records (R101, R102) -/

def matchKeyAt (t : List Byte) : MatchKey :=
  { hash := BitVec.ofNat 128 (natAt t 0 16), model := BitVec.ofNat 96 (natAt t 16 12)
    tensor := BitVec.ofNat 16 (natAt t 28 2), version := BitVec.ofNat 16 (natAt t 30 2)
    shape := BitVec.ofNat 8 (natAt t 32 1) }

/-- Range j at an offset of the task header: offset and length in granules. -/
def rangeAt (t : List Byte) (off : Nat) : Nat × Nat := (natAt t off 3, natAt t (off + 3) 1)

/-- A window binding: base and length in words. -/
def windowAt (h : List Byte) (w : Nat) : Window :=
  let x := natAt h (32 + 8 * w) 8
  { base := x / 1024 * 1024, words := 256 * (x % 1024) }

/-- The fields of a 256-byte record. -/
def parseRecord (r : List Byte) : LaunchRec :=
  let h := bytesAt r 0 128
  let t := bytesAt r 128 128
  let flags := natAt h 28 1
  let target := natAt h 30 2
  { image := BitVec.ofNat 64 (natAt h 0 8)
    base := BitVec.ofNat 64 (natAt h 8 8)
    fields := BitVec.ofNat 39 (natAt h 16 8)
    count := natAt h 24 3 + 1
    gang := flags % 2 = 1
    prio := flags / 2 % 4
    priv := BitVec.ofNat 2 (flags / 8)
    carve := natAt h 29 1
    target := if 2 ^ 15 ≤ target then some (BitVec.ofNat 4 (target / 512), BitVec.ofNat 9 target) else none
    windows := (List.range 8).map (windowAt h)
    coal := 128 ≤ natAt t 33 1
    key := matchKeyAt t
    rows := natAt t 33 1 % 64
    adapter := BitVec.ofNat 6 (natAt t 34 1)
    patience := natAt t 36 2
    inBase := BitVec.ofNat 64 (natAt t 40 8)
    inStride := BitVec.ofNat 32 (natAt t 48 4)
    outBase := BitVec.ofNat 64 (natAt t 56 8)
    outStride := BitVec.ofNat 32 (natAt t 52 4)
    tileBase := BitVec.ofNat 64 (natAt t 64 8)
    reads := (List.range 8).map fun j => rangeAt t (72 + 4 * j)
    writes := (List.range 4).map fun j => rangeAt t (104 + 4 * j)
    adpBase := BitVec.ofNat 64 (natAt t 120 8) }

/-- Check 1 of R103 on the bytes of the record. The parts that R102 says are not read are not checked. -/
def recordWellFormed (r : List Byte) : Bool :=
  let h := bytesAt r 0 128
  let t := bytesAt r 128 128
  let target := natAt h 30 2
  let x := parseRecord r
  natAt h 16 8 < 2 ^ 39 && natAt h 27 1 == 0 && natAt h 28 1 < 32
    && (if 2 ^ 15 ≤ target then target / 2 ^ 13 % 4 == 0 else target == 0)
    && natAt h 96 32 == 0 && natAt h 0 8 % 64 == 0 && natAt t 64 8 % 4096 == 0
    && (List.range 8).all (fun w => natAt h (32 + 8 * w) 2 % 1024 ≤ 512)
    && (x.reads ++ x.writes).all (fun g => g.2 != 0 || g.1 == 0)
    && (!x.coal || (natAt t 35 1 == 0 && natAt t 38 2 == 0 && natAt t 33 1 / 64 % 2 == 0 && natAt t 34 1 < 64
          && (x.adapter != 0 || x.adpBase == 0)))

/-- Σ of the field widths (R59). -/
def fieldSum (f : BitVec 39) : Nat := fieldsBelow f (fieldCount f)

/-- FIELDS as SYS.WFIELDS holds it: the width of an absent field reads 0 (R61). -/
def presentFields (f : BitVec 39) : BitVec 39 :=
  f &&& ((List.range 6).foldl (fun m k => if k < fieldCount f then m ||| (0x3F#39 <<< (6 * k)) else m) (7#39 <<< 36))

/-- Field widths and count that R59 and R60 accept. -/
def workIdsOk (x : LaunchRec) : Bool :=
  fieldCount x.fields ≤ 6 && fieldSum x.fields ≤ 64
    && x.base.toNat % 2 ^ fieldSum x.fields + x.count - 1 < 2 ^ fieldSum x.fields

/-- The clusters whose eight cores all lie in a core set. -/
def wholeClusters (cores : BitVec 160) : List Nat :=
  (List.range 20).filter fun k => (cores.extractLsb' (8 * k) 8) == 0xFF

def privCode : Priv → BitVec 2
  | .task => 0 | .steward => 1 | .reeve => 2

def privOf (b : BitVec 2) : Priv := if b = 0 then .task else if b = 1 then .steward else .reeve

/-- Who submits: its polder, address space and privilege, and whether by a TSUB (R112). -/
structure Submitter where
  polder : BitVec 4
  asid   : BitVec 9
  priv   : Priv
  tsub   : Bool
  deriving DecidableEq, Repr

def targetPolder (y : Submitter) (x : LaunchRec) : BitVec 4 := (x.target.map Prod.fst).getD y.polder
def targetAsid (y : Submitter) (x : LaunchRec) : BitVec 9 := (x.target.map Prod.snd).getD y.asid

/-- A TARGET that R112 accepts. -/
def targetOk (s : State) (y : Submitter) (x : LaunchRec) : Bool :=
  match x.target with
  | none => true
  | some (p, a) =>
    y.tsub && y.priv == .reeve && (getPolder s p).state == 2 && (getAsid s a).valid && asidPolder s a == p

/-- Check 2 of R103. -/
def recordCheck2 (s : State) (y : Submitter) (x : LaunchRec) : Bool :=
  workIdsOk x
    && (!x.gang || (x.count % 8 == 0 && !x.coal && wholeClusters (getPolder s (targetPolder y x)).cores != []))
    && x.priv != 3 && x.priv.toNat ≤ privNat y.priv && (x.priv == 0 || !x.coal)
    && (x.priv != 2 || targetPolder y x == 0) && targetOk s y x

/-- Check 3 (R78). -/
def recordCheck3 (s : State) (y : Submitter) (x : LaunchRec) : Bool :=
  x.carve ≤ 43 && (x.carve ≤ 24 || !(getPolder s (targetPolder y x)).tslice)

/-- The admitted image of a hash. -/
def admitted (s : State) (h : BitVec 128) : Option VaultImage := s.images.find? fun v => v.hash == h && !v.withdrawn

/-- Check 4, over the bytes of the image header at IMAGE. -/
def recordCheck4 (s : State) (x : LaunchRec) (header : List Byte) : Bool :=
  1 ≤ x.rows && x.rows ≤ 32 && (admitted s x.key.hash).isSome && natAt header 28 16 == x.key.hash.toNat
    && (x.adapter == 0 || (x.adpBase != 0 && x.adpBase.toNat % 16 == 0))

/-- Check 5. An unbound window is not tested (DESIGN CHOICE, log entry 90). -/
def recordCheck5 (x : LaunchRec) : Bool :=
  x.windows.all (fun w => w.words == 0 || spanOk w.base (4 * w.words))
    && (x.reads ++ x.writes).all (fun g => g.2 == 0 || spanOk (x.tileBase.toNat + 4096 * g.1) (4096 * g.2))
    && (!(x.coal && x.adapter != 0) || canonical x.adpBase.toNat)

/-- Checks 1 to 3 on a record at an address: cause and DETAIL of the first that fails (R103). -/
def recordHead (s : State) (y : Submitter) (a : Word) (r : List Byte) : Option (Nat × Nat) :=
  if a.toNat % 256 ≠ 0 || !recordWellFormed r then some (0x0E, 1)
  else if !recordCheck2 s y (parseRecord r) then some (0x0E, 2)
  else if !recordCheck3 s y (parseRecord r) then some (0x11, 0)
  else none

/-- Checks 4 and 5. -/
def recordTail (s : State) (x : LaunchRec) (header : List Byte) : Option (Nat × Nat) :=
  if x.coal && !recordCheck4 s x header then some (0x0E, 4)
  else if !recordCheck5 x then some (0x0E, 5)
  else none

/-- The launch of a record that passed its checks, not yet numbered. -/
def newLaunch (s : State) (y : Submitter) (x : LaunchRec) (enables : BitVec 5) (compl : Word) : Launch :=
  { polder := targetPolder y x, seq := 0, asid := targetAsid y x, complAsid := y.asid, compl := compl
    priv := privOf x.priv, enables := enables, rcd := x
    image := if x.coal then (admitted s x.key.hash).map fun v => v.id else none
    tasks := List.replicate x.count .queued, eligible := none, started := false, renames := [], abnormal := false
    rejectLogged := false, committed := false, commitFault := none, tokenHeld := false }

/-! Queues (R109, R110) -/

/-- Arrivals already wait for an entry of the polder's queue. -/
def arrivalsWait (s : State) (p : BitVec 4) : Bool :=
  s.heldSubs.any (fun h => h.launch.polder == p) || s.heldFires.any fun h => h.polder == p

def queueFull (s : State) (p : BitVec 4) : Bool := (getPolder s p).qdepth.toNat ≤ (getPolder s p).queue.length

def launchHandle (p : BitVec 4) (q : BitVec 48) : Word := (0#12 ++ p ++ q).cast (by decide)

/-- A launch takes an entry and the next sequence number: the state and its handle. -/
def enterQueue (s : State) (l : Launch) : State × Word :=
  let q := (getPolder s l.polder).nextSeq
  (modPolder s l.polder fun d => { d with queue := d.queue ++ [{ l with seq := q }], nextSeq := d.nextSeq + 1 },
    launchHandle l.polder q)

/-- SYS.SUBLOG (R133). -/
def subWord (kind wpid cause data : Nat) : Word :=
  BitVec.ofNat 64 (kind % 8 * 2 ^ 59 + wpid % 1024 * 2 ^ 48 + cause % 256 * 2 ^ 40 + data % 2 ^ 40)

def logSub (s : State) (p : BitVec 4) (kind wpid cause data : Nat) : State :=
  modPolder s p fun d => { d with sublog := d.sublog.push 16 (subWord kind wpid cause data, 0) }

def setAbnormal (s : State) (p : BitVec 4) (q : BitVec 48) : State :=
  modLaunch s p q fun l => { l with abnormal := true }

/-! Dependences (R115, R116, R118) -/

/-- Used ranges as first granule and length. -/
def LaunchRec.spans (x : LaunchRec) (l : List (Nat × Nat)) : List (Nat × Nat) :=
  (l.filter fun g => g.2 != 0).map fun g => (x.tileBase.toNat / 4096 + g.1, g.2)

def Launch.readSpans (l : Launch) : List (Nat × Nat) := l.rcd.spans l.rcd.reads
def Launch.writeSpans (l : Launch) : List (Nat × Nat) := l.rcd.spans l.rcd.writes

def spansMeet (a b : List (Nat × Nat)) : Bool :=
  a.any fun x => b.any fun y => x.1 < y.1 + y.2 && y.1 < x.1 + x.2

def inSpans (a : List (Nat × Nat)) (g : Nat) : Bool := a.any fun x => x.1 ≤ g && g < x.1 + x.2

def spanGranules (a : List (Nat × Nat)) : List Nat :=
  (a.flatMap fun x => (List.range x.2).map (x.1 + ·)).eraseDups

def taskOver : TaskState → Bool
  | .retired | .done | .cancelled | .rejected => true
  | _ => false

/-- Every task is RETIRED, CANCELLED or REJECTED. -/
def Launch.retired (l : Launch) : Bool := l.tasks.all taskOver

/-- Earlier launches of the queue that run in the same address space. -/
def earlierLaunches (s : State) (l : Launch) : List Launch :=
  ((getPolder s l.polder).queue.takeWhile fun a => a.seq != l.seq).filter fun a => a.asid == l.asid

/-- A read-after-write dependence is not yet satisfied (R116). -/
def rawWait (s : State) (l : Launch) : Bool :=
  (earlierLaunches s l).any fun a => !a.committed && spansMeet l.readSpans a.writeSpans

/-- The granules that need renaming (R117). -/
def renameNeeds (s : State) (l : Launch) : List Nat :=
  let es := earlierLaunches s l
  (spanGranules l.writeSpans).filter fun g =>
    es.any fun a => (!a.retired && inSpans a.readSpans g) || (!a.committed && inSpans a.writeSpans g)

/-- Buffers in use in a polder's rename pool. -/
def buffersUsed (s : State) (p : BitVec 4) : List Nat :=
  (getPolder s p).queue.flatMap fun l => l.renames.map fun r => r.buf

/-- Free buffers of the pool, lowest first; none while a write of SYS.RNPOOL waits (R119). -/
def buffersFree (s : State) (p : BitVec 4) : List Nat :=
  let d := getPolder s p
  if d.rnNext.isSome then []
  else
    let used := buffersUsed s p
    ((List.range (16 * d.rnSize.toNat)).map fun i => d.rnBase.toNat * 2 ^ 16 + 4096 * i).filter fun b => !used.contains b

/-- The launch waits at its dependences. -/
def Launch.blocked (s : State) (l : Launch) : Bool :=
  l.eligible.isSome || l.committed || l.retired || rawWait s l
    || (buffersFree s l.polder).length < (renameNeeds s l).length

/-- R118: the launch takes its buffers and is eligible. -/
def meetDependences (s : State) (l : Launch) : State :=
  let rs := ((renameNeeds s l).zip (buffersFree s l.polder)).map fun x =>
    ({ granule := x.1, buf := x.2, written := 0, fill := .unfilled } : Rename)
  modLaunch s l.polder l.seq fun l => { l with eligible := some s.cycle, renames := rs }

/-- R66, R115 to R118. -/
def execDependencesMet (p : BitVec 4) (seq : BitVec 48) (s : State) : Answer :=
  match findLaunch s p seq with
  | none => notNow s
  | some l =>
    if l.blocked s then notNow s else .next (meetDependences s l)

/-! Rename fills (R117) -/

/-- An agent of the device that acts for a launch, at no task level. It stands on the I/O die, die 4. -/
def devAgent (asid : BitVec 9) (p : BitVec 4) : Agent :=
  { asid := asid, polder := p, task := false, launch := none, die := 4, core := none, who := none }

def modRename (s : State) (p : BitVec 4) (q : BitVec 48) (g : Nat) (f : Rename → Rename) : State :=
  modLaunch s p q fun l => { l with renames := l.renames.map fun r => if r.granule = g then f r else r }

/-- A buffer lies in a page that a SCOPY holds (R301). -/
def bufHeld (s : State) (p : BitVec 4) (r : Rename) : Bool :=
  match stage2 s 4 p true r.buf with
  | .error e => e.kind == walkHeld
  | .ok t => pageHeld s t.pa

/-- The contents put into a buffer, and which of its lines are poisoned (R274). A buffer whose page has no stage-2 translation
holds nothing: a fill of it leaves memory as it is and counts as done (DESIGN CHOICE, log entry 91). -/
def putBuffer (s : State) (p : BitVec 4) (r : Rename) (bs : List Byte) (bad : List Nat) : State :=
  match stage2 s 4 p true r.buf with
  | .error _ => s
  | .ok t =>
    let s1 := physWrite s 4 t.key t.pa bs
    { s1 with poison := bad.map (t.pa / 64 + ·) ++ s1.poison }

/-- A buffer filled with zeros is reported (R117). -/
def fillZeros (s : State) (l : Launch) (r : Rename) (cause : Nat) : State :=
  let s1 := putBuffer s l.polder r (List.replicate 4096 0) []
  let s2 := modRename s1 l.polder l.seq r.granule fun r => { r with fill := .filled }
  setAbnormal (logSub s2 l.polder 5 0 cause l.seq.toNat) l.polder l.seq

/-- The poisoned lines of a granule. -/
def badLines (s : State) (segs : List Seg) : List Nat :=
  (List.range 64).filter fun i => segs.any fun x => poisoned s (x.pa + 64 * i) 64

/-- One buffer's fill: done (with zeros where the read fails, over a die link or a table that cannot be read as well; DESIGN
CHOICE, log entry 91), or queued on a fault, or not yet made while a page that it reads or writes is held. -/
def fillBuffer (s : State) (l : Launch) (r : Rename) : State :=
  let g := devAgent l.asid l.polder
  let u := touch s g .xferRead [(4096 * r.granule, 4096)]
  match (if bufHeld s l.polder r then .held else checkPages s g .xferRead (4096 * r.granule) 4096) with
  | .ok segs =>
    if segs.any Seg.fabric then fillZeros s l r 0x0B
    else
      let s1 := putBuffer (noteAccess s g .xferRead segs) l.polder r (segsRead s segs) (badLines s segs)
      modRename s1 l.polder l.seq r.granule fun r => { r with fill := .filled }
  | .fault i =>
    let q := queueFault u i (.fill l.polder l.seq r.granule) false
    modRename q.1 l.polder l.seq r.granule fun r => { r with fill := .faulted q.2 }
  | .trap cause _ => fillZeros u l r cause
  | .fill _ | .held => s

/-- A fill that waited for a held page can be made. -/
def fillDueIn (s : State) : Option (Launch × Rename) :=
  s.polders.findSome? fun d => (d.queue.filter fun l => l.started).findSome? fun l =>
    (l.renames.find? fun r => r.fill == .unfilled && !bufHeld s l.polder r
      && !waits s (devAgent l.asid l.polder) .xferRead (4096 * r.granule) 4096).map fun r => (l, r)

/-- The launch's first task is dispatched: its buffers are filled (R117). -/
def startLaunch (s : State) (p : BitVec 4) (q : BitVec 48) : State :=
  match findLaunch s p q with
  | none => s
  | some l =>
    if l.started then s
    else
      let s1 := modLaunch s p q fun l => { l with started := true }
      l.renames.foldl (fun t r => fillBuffer t l r) s1

/-! Completion tokens (R121, R122) -/

/-- One atomic addition to a completion word, or none if it fails translation or permission. -/
def addToken (s : State) (asid : BitVec 9) (a : Word) (abnormal : Bool) : Option State :=
  let g := devAgent asid (asidPolder s asid)
  match checkAccess s g .atomic a.toNat 8 8 with
  | .ok [x] =>
    if x.fabric then none
    else
      let s1 := flushRdc s
      let add : Nat := if abnormal then 1 + 2 ^ 32 else 1
      some (rmw (noteAccess s1 g .atomic [x]) g x fun old => some ((old + add) % 2 ^ 64)).1
  | _ => none

/-- A queue entry is freed. -/
def freeEntry (s : State) (p : BitVec 4) (q : BitVec 48) : State :=
  modPolder s p fun d => { d with queue := d.queue.filter fun l => l.seq != q }

/-- The token of a committed launch: posted, or held with its entry. -/
def postToken (s : State) (l : Launch) : State :=
  if l.compl = 0 then freeEntry s l.polder l.seq
  else
    match addToken s l.complAsid l.compl l.abnormal with
    | some t => freeEntry t l.polder l.seq
    | none =>
      modLaunch (logSub s l.polder 2 0 0 l.seq.toNat) l.polder l.seq fun l => { l with tokenHeld := true }

/-- A held token retried; no further entry is logged (R122). -/
def retryToken (s : State) (l : Launch) : State :=
  match addToken s l.complAsid l.compl l.abnormal with
  | some t => freeEntry t l.polder l.seq
  | none => s

/-- A token of a destroyed polder retried. -/
def retryLate (s : State) (x : BitVec 4 × BitVec 9 × Word) : State :=
  match addToken s x.2.1 x.2.2 true with
  | some t => { t with lateTokens := t.lateTokens.erase x }
  | none => s

/-- Held tokens that a TLBINV names, by their polder and address space, retried when it completes (R122). -/
def retryTokens (s : State) (pick : BitVec 4 → BitVec 9 → Bool) : State :=
  let t := (s.polders.flatMap fun d => d.queue.filter fun l => l.tokenHeld && pick l.polder l.complAsid).foldl retryToken s
  (t.lateTokens.filter fun x => pick x.1 x.2.1).foldl retryLate t

/-! Commit (R120, R127) -/

/-- A page that the launch's commit reads or writes, or that of its completion word, is held (R301). -/
def commitHeld (s : State) (l : Launch) : Bool :=
  (l.renames.any fun r => r.written != 0
      && (bufHeld s l.polder r || waits s (devAgent l.asid l.polder) .xferWrite (4096 * r.granule) 4096))
    || (l.compl != 0 && waits s (devAgent l.complAsid (asidPolder s l.complAsid)) .atomic l.compl.toNat 8)

/-- The launch may commit. One of a polder that is being destroyed commits no more (R288). -/
def commitReady (s : State) (l : Launch) : Bool :=
  (getPolder s l.polder).state != 3 && !l.committed && l.retired && l.commitFault.isNone && !commitHeld s l
    && (earlierLaunches s l).all fun a =>
      (a.retired || !l.renames.any fun r => inSpans a.readSpans r.granule)
        && (a.committed || !spansMeet a.writeSpans l.writeSpans)

/-- The lines of a buffer that tasks wrote: index, contents, and whether it is poisoned; none where the buffer's page has no
stage-2 translation (DESIGN CHOICE, log entry 91). -/
def renameLines (s : State) (p : BitVec 4) (r : Rename) : List (Nat × List Byte × Bool) :=
  ((List.range 64).filter fun i => r.written.getLsbD i).filterMap fun i =>
    match stage2 s 4 p false (r.buf + 64 * i) with
    | .ok t => some (i, physRead s t.key t.pa 64, poisoned s t.pa 64)
    | .error _ => none

/-- One line copied home; a poisoned line leaves its home poisoned (R274). -/
def copyLine (s : State) (x : Seg) (y : Nat × List Byte × Bool) : State :=
  let t := physWrite s 4 x.key (x.pa + 64 * y.1) y.2.1
  if y.2.2 then { t with poison := (lineOf x.pa + y.1) :: t.poison.filter (· != lineOf x.pa + y.1) } else t

/-- Lines of a page are discarded and reported once for the page (R120). -/
def discardPage (s : State) (l : Launch) (page cause : Nat) : State :=
  let s1 := modLaunch s l.polder l.seq fun l =>
    { l with abnormal := true, renames := l.renames.map fun r => if r.granule / 16 = page then { r with written := 0 } else r }
  logSub s1 l.polder 5 0 cause l.seq.toNat

/-- The first buffer that still holds written lines is copied home, discarded, or left on a fault. -/
def commitOne (s : State) (l : Launch) (r : Rename) : State :=
  let done (t : State) : State := modRename t l.polder l.seq r.granule fun r => { r with written := 0 }
  let g := devAgent l.asid l.polder
  match checkPages s g .xferWrite (4096 * r.granule) 4096 with
  | .ok [x] =>
    if x.fabric then discardPage s l (r.granule / 16) 0x0B
    else
      done ((renameLines s l.polder r).foldl (fun t y => copyLine t x y) (noteAccess s g .xferWrite [x]))
  | .ok _ => done s
  | .fault i =>
    let q := queueFault (touch s g .xferWrite [(4096 * r.granule, 4096)]) i (.commit l.polder l.seq) false
    modLaunch q.1 l.polder l.seq fun l => { l with commitFault := some q.2 }
  | .trap cause _ => discardPage s l (r.granule / 16) cause
  | .fill _ | .held => done s

/-- Copies go on until none is left or one faults. -/
def commitCopies (p : BitVec 4) (q : BitVec 48) : Nat → State → State
  | 0, s => s
  | n + 1, s =>
    match findLaunch s p q with
    | none => s
    | some l =>
      if l.commitFault.isSome then s
      else
        match l.renames.find? fun r => r.written != 0 with
        | none => s
        | some r => commitCopies p q n (commitOne s l r)

/-- A pending write of SYS.RNPOOL takes effect once no buffer is allocated (R119). -/
def applyRnpool (s : State) (p : BitVec 4) : State :=
  match (getPolder s p).rnNext with
  | none => s
  | some v =>
    if buffersUsed s p != [] then s
    else modPolder s p fun d => { d with rnBase := v.extractLsb' 16 36, rnSize := v.extractLsb' 0 16, rnNext := none }

/-- The launch commits: copies, buffers freed, tasks DONE, token. Where every task was cancelled nothing is copied
(R127). A copy that faults stops it until the entry is resolved. -/
def commitLaunch (s : State) (l : Launch) : State :=
  let none_ := l.tasks.all fun t => t == .cancelled
  let s1 := if none_ then s else commitCopies l.polder l.seq (l.renames.length + 1) s
  match findLaunch s1 l.polder l.seq with
  | none => s1
  | some m =>
    if m.commitFault.isSome then s1
    else
      let s2 := modLaunch s1 l.polder l.seq fun l =>
        { l with committed := true, renames := [], tasks := l.tasks.map fun t => if t = .retired then .done else t }
      match findLaunch s2 l.polder l.seq with
      | none => s2
      | some m => postToken (applyRnpool s2 l.polder) m

/-- R120, R121, R127. -/
def execLaunchCommit (p : BitVec 4) (seq : BitVec 48) (s : State) : Answer :=
  match findLaunch s p seq with
  | none => notNow s
  | some l => if commitReady s l then .next (commitLaunch s l) else notNow s

/-! SYS.QSTAT and SYS.RNPOOL (R119, R123) -/

def qstatWord (s : State) (p : BitVec 4) : Word :=
  let d := getPolder s p
  let held := (d.queue.filter fun l => l.tokenHeld).length
  let freeBuf := 16 * d.rnSize.toNat - (buffersUsed s p).length
  BitVec.ofNat 64 (freeBuf / 16 % 2 ^ 16 * 2 ^ 48 + min held 255 * 2 ^ 32 + d.queue.length % 2 ^ 16 * 2 ^ 16 + d.qdepth.toNat)

/-- A write of SYS.RNPOOL; its reserved bits are not kept. -/
def writeRnpool (s : State) (p : BitVec 4) (v : Word) : State :=
  applyRnpool (modPolder s p fun d => { d with rnNext := some v }) p

/-- R119. -/
def execRnpool (p : BitVec 4) (v : Word) (s : State) : Answer := .next (writeRnpool s p v)

end Sys2Proof.Machine
end

