-- ==== Sys2Proof/Machine/Weir.lean ====
section
/-! DEFINITION. The weir: match keys, buckets and their release, adapters, the auditor's samples, versions and images that
nothing uses any more, cancellation, and the routing of tasks (R16, R17, R66, R113, R114, R124 to R127, R160 to R167, R186,
R188, R276, R287, R388). -/

namespace Sys2Proof.Machine

/-! Versions and images in use (R160, R161, R183, R186) -/

/-- The CURRENT version of a tensor. -/
def currentVersion (s : State) (model : BitVec 96) (tensor : BitVec 16) : Option Version :=
  s.versions.find? fun v => v.model == model && v.tensor == tensor && v.state == .current

def sameVersion (v : Version) (model : BitVec 96) (tensor version : BitVec 16) : Bool :=
  v.model == model && v.tensor == tensor && v.version == version

/-- The version that a key is bound to. -/
def keyVersion (s : State) (k : MatchKey) : Option Version :=
  s.versions.find? fun v => sameVersion v k.model k.tensor k.version

/-- An open bucket, a released or running bunting, or an audit is bound to the version (R186, R276). -/
def versionInUse (s : State) (v : Version) : Bool :=
  s.dies.any (fun d => d.buckets.any fun b => sameVersion v b.key.model b.key.tensor b.key.version)
    || s.buntings.any (fun b => sameVersion v b.key.model b.key.tensor b.key.version)
    || s.audits.any fun a => match a.version with | some (m, t, n) => sameVersion v m t n | none => false

/-- Pages of a die's vault join its scrub queue (R160, R186, R250). -/
def scrubVault (s : State) (d page pages : Nat) : State :=
  modDie s d fun x =>
    { x with vaultUse := x.vaultUse.filter fun u => u != (page, pages)
             scrub := x.scrub ++ (List.range pages).map fun i => vaultBase s d + 65536 * (page + i) }

/-- RETIRING versions that nothing uses leave the vault (R186). -/
def retireVersions (s : State) : State :=
  let gone := s.versions.filter fun v => v.state == .retiring && !versionInUse s v
  gone.foldl (fun t v => scrubVault { t with versions := t.versions.filter (· != v) } v.home v.page v.pages) s

/-- A launch, a submission that waits, a bunting or an audit still holds the image (R160, R277). -/
def imageInUse (s : State) (id : Nat) : Bool :=
  s.polders.any (fun p => p.queue.any fun l => l.image == some id && !l.retired)
    || s.heldSubs.any (fun h => h.launch.image == some id) || s.heldFires.any (fun h => h.launch.image == some id)
    || s.buntings.any (fun b => b.image == id) || s.audits.any (fun a => a.image == id) || s.ctxs.any fun c => c.vault == some id && c.life != .retired

/-- Withdrawn images that nothing holds leave the vault (R160). -/
def retireImages (s : State) : State :=
  let gone := s.images.filter fun v => v.withdrawn && !imageInUse s v.id
  gone.foldl (fun t v =>
    ((List.range 4).zip v.places).foldl (fun u x => scrubVault u x.1 x.2.1 x.2.2)
      { t with images := t.images.filter fun w => w.id != v.id }) s

/-! Buckets (R162 to R165, R167) -/

def memberRows (l : List Member) : Nat := l.foldl (fun n m => n + m.rows) 0

/-- Tasks pending in a die's weir (R162). -/
def weirPending (s : State) (d : Nat) : Nat :=
  (getDie s d).buckets.foldl (fun n b => n + b.members.length) 0
    + (s.buntings.filter fun b => b.die == d && b.running.isNone).foldl (fun n b => n + b.members.length) 0

/-- Distinct adapters of members. -/
def memberAdapters (l : List Member) : List (BitVec 4 × Word) :=
  ((l.filter fun m => m.adapter != 0).map fun m => (m.task.polder, m.adpBase)).eraseDups

/-- A task fits an open bucket (R164). -/
def bucketFits (b : Bucket) (m : Member) : Bool :=
  memberRows b.members + m.rows ≤ 256 && b.members.length < 64 && (memberAdapters (b.members ++ [m])).length ≤ 63

/-- The member that a task becomes (R102, R163, R167). -/
def newMember (s : State) (l : Launch) (i : Nat) : Member :=
  let x := l.rcd
  { task := { polder := l.polder, seq := l.seq, index := i }, asid := l.asid
    deadline := s.cycle + 16 * x.patience, rowOff := 0, rows := x.rows
    inRow0 := x.inBase + BitVec.ofNat 64 (i * x.rows * x.inStride.toNat), inStride := x.inStride
    outRow0 := x.outBase + BitVec.ofNat 64 (i * x.rows * x.outStride.toNat), outStride := x.outStride
    adapter := x.adapter, adpBase := x.adpBase, aslot := 0, enables := l.enables, parked := none, firstRow := 0
    written := 0 }

/-- Row offsets without a gap (R167). -/
def placeRows : Nat → List Member → List Member
  | _, [] => []
  | n, m :: l => { m with rowOff := n } :: placeRows (n + m.rows) l

/-- Adapter slots in entry order (R167): an earlier member's slot for the same adapter, else the lowest unused one. -/
def placeAdapters : List Member → List Member → List Member
  | _, [] => []
  | done, m :: l =>
    let a :=
      if m.adapter = 0 then 0
      else
        match done.find? fun x => x.adapter != 0 && x.task.polder == m.task.polder && x.adpBase == m.adpBase with
        | some x => x.aslot
        | none => ((List.range 64).find? fun k => k != 0 && !done.any fun x => x.aslot == k).getD 0
    { m with aslot := a } :: placeAdapters (done ++ [{ m with aslot := a }]) l

/-- Whether the auditor samples a released unit (R276): sampling enabled, room in its buffer for what is known of it, and
the free choice. -/
def auditSample (s : State) (ms : List Member) : State × Option Nat :=
  if s.audEn && auditUsed s + sampleBytes ms [] [] ≤ auditSize s then
    if Config.auditSampled s.audRate.toNat s.freeCtr then
      ({ s with freeCtr := s.freeCtr + 1, nextAudit := s.nextAudit + 1 }, some s.nextAudit)
    else ({ s with freeCtr := s.freeCtr + 1 }, none)
  else (s, none)

/-- A bucket is released as a bunting (R125, R164, R167). -/
def releaseBucket (s : State) (d : Nat) (b : Bucket) : State :=
  let ms := placeAdapters [] (placeRows 0 b.members)
  let img := ((b.members.head?).bind fun m => (findLaunch s m.task.polder m.task.seq).bind fun l => l.image).getD 0
  let r := auditSample s ms
  let x : Bunting :=
    { id := s.nextBunting, die := d, slot := b.slot, released := s.cycle, key := b.key, members := ms, image := img
      running := none, sample := r.2, gathered := [], scattered := [] }
  let s1 := modDie { r.1 with buntings := r.1.buntings ++ [x], nextBunting := s.nextBunting + 1 } d fun y =>
    { y with buckets := y.buckets.filter fun z => z.slot != b.slot, releases := s.cycle :: y.releases }
  ms.foldl (fun t m => startLaunch (setTask t m.task .released) m.task.polder m.task.seq) s1

def insertBucket (b : Bucket) : List Bucket → List Bucket
  | [] => [b]
  | c :: l => if b.slot ≤ c.slot then b :: c :: l else c :: insertBucket b l

/-- Buckets in order of their key slots. -/
def sortBuckets (l : List Bucket) : List Bucket := l.foldr insertBucket []

/-- Every bucket whose rows reach the height is released. -/
def heightReleases (s : State) (d : Nat) : State :=
  (sortBuckets ((getDie s d).buckets.filter fun b => (getDie s d).height ≤ memberRows b.members)).foldl
    (fun t b => releaseBucket t d b) s

/-- The least deadline of the members. -/
def bucketDeadline (b : Bucket) : Nat :=
  match b.members with
  | [] => 0
  | m :: l => l.foldl (fun n x => min n x.deadline) m.deadline

/-- Releases of a test cycle (R163). -/
def deadlineReleases (s : State) (d : Nat) : State :=
  (sortBuckets ((getDie s d).buckets.filter fun b => bucketDeadline b ≤ s.cycle)).foldl (fun t b => releaseBucket t d b) s

/-- The releases of a test cycle on every die, which come before a cancellation of that cycle (R165). -/
def dueReleases (s : State) : State :=
  if s.cycle % 64 = 0 then (List.range 4).foldl deadlineReleases s else s

/-- R163 to R165. -/
def execWeirTestCycle (die : BitVec 2) (s : State) : Answer :=
  if s.cycle % 64 = 0 then .next (deadlineReleases s die.toNat)
  else notNow s

def freeSlotOf (l : List Bucket) : Option Nat := (List.range 256).find? fun k => !l.any fun b => b.slot == k

/-- The weir has room for a task of a key (R114, R162). -/
def weirRoom (s : State) (d : Nat) (k : MatchKey) : Bool :=
  (getDie s d).present && weirPending s d < 1024
    && ((getDie s d).buckets.any (fun b => b.key == k) || (freeSlotOf (getDie s d).buckets).isSome)

/-- A task enters the weir: it joins its bucket, or opens one, and heights are tested (R164, R165). -/
def enterWeir (s : State) (d : Nat) (k : MatchKey) (m : Member) : State :=
  let open_ (t : State) : State :=
    match freeSlotOf (getDie t d).buckets with
    | none => t
    | some n => modDie t d fun y => { y with buckets := y.buckets ++ [{ slot := n, key := k, members := [m] }] }
  let s1 :=
    match (getDie s d).buckets.find? fun b => b.key == k with
    | none => open_ s
    | some b =>
      if bucketFits b m then
        modDie s d fun y => { y with buckets := y.buckets.map fun z =>
          if z.slot = b.slot then { z with members := z.members ++ [m] } else z }
      else
        let t := releaseBucket s d b
        modDie t d fun y => { y with buckets := y.buckets ++ [{ slot := b.slot, key := k, members := [m] }] }
  heightReleases (setTask s1 m.task (.held d)) d

/-- SYS.WEIRCFG (R188). -/
def weircfgWord (s : State) (d : Nat) : Word :=
  BitVec.ofNat 64 (weirPending s d * 2 ^ 32 + (getDie s d).buckets.length * 2 ^ 23 + (getDie s d).height)

/-- A write of HEIGHT: out of range it is ignored, else the buckets that reach it are released (R188). -/
def writeHeight (s : State) (d h : Nat) : State :=
  if 32 ≤ h ∧ h ≤ 256 then heightReleases (modDie s d fun x => { x with height := h }) d else s

/-- R188. -/
def execWeircfgHeight (die : BitVec 2) (v : BitVec 9) (s : State) : Answer := .next (writeHeight s die.toNat v.toNat)

/-! Cancelling (R124 to R127) -/

/-- The state of a task. -/
def taskState (l : Launch) (i : Nat) : TaskState := l.tasks.getD i .done

/-- A task leaves its bucket; a bucket without members is free (R164). -/
def leaveBucket (s : State) (t : TaskRef) : State :=
  { s with dies := s.dies.map fun d =>
      { d with buckets := (d.buckets.map fun b => { b with members := b.members.filter fun m => m.task != t }).filter
                 fun b => b.members != [] } }

/-- The task's context, outside a bunting. -/
def taskCtx (s : State) (t : TaskRef) : Option Ctx := s.ctxs.find? fun c => c.task == some t

/-- What a cancellation does to one task: the state, whether it was cancelled, and whether it has begun. -/
def cancelTask (s : State) (t : TaskRef) (x : TaskState) : State × Bool × Bool :=
  match x with
  | .queued | .routed _ | .held _ =>
    (setAbnormal (setTask (leaveBucket s t) t .cancelled) t.polder t.seq, true, false)
  | .released => (s, false, true)
  | .running | .ending | .saved =>
    let set (c : Ctx) : Ctx := if c.task = some t then { c with cancel := true } else c
    ({ s with ctxs := s.ctxs.map set, saved := s.saved.map fun v => { v with ctx := set v.ctx } }, false, true)
  | _ => (s, false, false)

/-- The buffers of a launch whose tasks have all been cancelled are free (R127). -/
def freeCancelled (s : State) (p : BitVec 4) (q : BitVec 48) : State :=
  applyRnpool (modLaunch s p q fun l => if l.tasks.all fun t => t == .cancelled then { l with renames := [] } else l) p

def cancelAll (s : State) (p : BitVec 4) (q : BitVec 48) : List (Nat × TaskState) → State × Nat × Bool
  | [] => (s, 0, false)
  | (i, x) :: l =>
    let r := cancelTask s { polder := p, seq := q, index := i } x
    let t := cancelAll r.1 p q l
    (t.1, (if r.2.1 then t.2.1 + 1 else t.2.1), r.2.2 || t.2.2)

/-- TCAN on a handle and an index, or all: the state and the word it writes (R124, R388). -/
def cancelLaunch (s : State) (p : BitVec 4) (handle i : Word) (all : Bool) : State × Word :=
  let s := dueReleases s
  if handle.extractLsb' 52 12 != 0 || handle.extractLsb' 48 4 != p then (s, 3)
  else
    match findLaunch s p (handle.extractLsb' 0 48) with
    | none => (s, 3)
    | some l =>
      if l.rcd.count ≤ i.toNat then (s, 3)
      else
        let ts := if all then (List.range l.rcd.count).map fun k => (k, taskState l k) else [(i.toNat, taskState l i.toNat)]
        let r := cancelAll s p l.seq ts
        let status := if r.2.1 ≠ 0 then 0 else if r.2.2 then 1 else 2
        let u := retireImages (retireVersions r.1)
        (if r.2.1 ≠ 0 then freeCancelled u p l.seq else u, BitVec.ofNat 64 (r.2.1 * 2 ^ 32 + status))

/-! Routing (R16, R113, R114, R161, R166, R287) -/

/-- The effective class of an eligible launch; ageing stops while its tasks are HELD, which routing never asks (R113). -/
def effClass (s : State) (l : Launch) : Nat := l.rcd.prio - (s.cycle - l.eligible.getD s.cycle) / 65536

/-- The next task of a launch to be routed: the lowest QUEUED index. -/
def nextTask (l : Launch) : Option Nat := l.tasks.findIdx? fun t => t == .queued

/-- The version that a coalescable launch would bind to (R161). -/
def boundVersion (s : State) (x : LaunchRec) : Option Version :=
  match currentVersion s x.key.model x.key.tensor with
  | none => none
  | some v => if x.key.version = 0 ∨ x.key.version = v.version then some v else none

/-- A die has a commons core. -/
def dieCommons (s : State) (d : Nat) : Bool := s.commons.extractLsb' (40 * d) 40 != 0

/-- The task is REJECTED; the launch reports it once (R66, R121, R133, R161). -/
def rejectTask (s : State) (t : TaskRef) : State :=
  match findLaunch s t.polder t.seq with
  | none => s
  | some l =>
    let s1 := setAbnormal (setTask s t .rejected) t.polder t.seq
    retireImages <|
    if l.rejectLogged then s1
    else modLaunch (logSub s1 t.polder 4 0 0x15 t.seq.toNat) t.polder t.seq fun l => { l with rejectLogged := true }

/-- What routing does with a coalescable task: rejected, entered, or left QUEUED. -/
inductive WeirRoute where
  | reject | enter (d : Nat) (k : MatchKey) | stay
  deriving DecidableEq, Repr

def weirRoute (s : State) (l : Launch) : WeirRoute :=
  if (getPolder s l.polder).share = 0 then .stay
  else
    match boundVersion s l.rcd with
    | none => .reject
    | some v =>
      if !dieCommons s v.home then .reject
      else
        let k := { l.rcd.key with version := v.version }
        if weirRoom s v.home k then .enter v.home k else .stay

end Sys2Proof.Machine
end

