-- ==== Sys2Proof/Machine/Place.lean ====
section
/-! DEFINITION. Placement, the start of contexts, and their retirement (R16, R62, R64 to R69, R77, R80, R84, R90, R113, R114,
R160, R166, R168 to R170, R174, R179, R181, R182, R186, R261, R266, R269, R276, R277, R280, R287, R350, R424, R425). -/

namespace Sys2Proof.Machine

/-! Scores (R181, R182) -/

/-- The granules that a table's entry marks. -/
def entryGranules (w : Word) : List Nat :=
  ((List.range 16).filter fun i => (resMask w).getLsbD i).map fun i => 16 * (resKeyOf w).tag.toNat + i

/-- Granules of the spans that entries of the polder, or PUB entries, mark; each counts once. -/
def residentCount (t : ResTable) (p : Option (BitVec 4)) (spans : List (Nat × Nat)) : Nat :=
  (((t.filter fun e => (resKeyOf e.2).pub || some (resKeyOf e.2).polder == p).flatMap fun e => entryGranules e.2).filter
    (inSpans spans)).eraseDups.length

/-- Twice the score of R181 in units of 4,096 bytes. -/
def placeScore (s : State) (core : Nat) (p : Option (BitVec 4)) (spans : List (Nat × Nat)) : Nat :=
  2 * residentCount (getCore s core).resid p spans + residentCount (getDie s (dieOf core)).summary p spans

/-- Read spans as the tables tag them: virtual address bits 54:12. -/
def tagSpans (l : List (Nat × Nat)) : List (Nat × Nat) := l.map fun x => (x.1 % 2 ^ 43, x.2)

/-! Room (R77, R269, R280) -/

def coreCtxs (s : State) (core : Nat) : List Ctx := s.ctxs.filter fun c => c.id.core == core

def slotUsed (s : State) (core slot : Nat) : Bool := s.ctxs.any fun c => c.id == { core := core, slot := slot }

def freeSlot (s : State) (core : Nat) : Option Nat := (List.range 4).find? fun k => !slotUsed s core k

def unitsOn (s : State) (core : Nat) : Nat := (coreCtxs s core).foldl (fun n c => n + c.units) 0

/-- L1 stays at 256 KiB or more with c slots occupied and U units (R77). -/
def l1Fits (c units : Nat) : Bool := 256 * 1024 + 18944 * c + 65536 * units ≤ 3072 * 1024

/-- Units that a polder's contexts hold on a core. -/
def polderUnits (s : State) (core : Nat) (p : BitVec 4) : Nat :=
  ((coreCtxs s core).filter fun c => c.polder == p && c.neutral.isNone).foldl (fun n c => n + c.units) 0

/-- The slot that a context of u units would take on a core; a die held in reset has none (R24), and one whose link is down
has (DESIGN CHOICE, log entry 87). -/
def slotFor (s : State) (core u : Nat) (p : Option (BitVec 4)) : Option Nat :=
  let n := (coreCtxs s core).length
  if !(getDie s (dieOf core)).present || (getCore s core).quar || !l1Fits (n + 1) (unitsOn s core + u) then none
  else
    match p with
    | none => freeSlot s core
    | some p =>
      if (getPolder s p).swapped || ((getPolder s p).tslice && 24 < polderUnits s core p + u) then none
      else freeSlot s core

/-- A core and slot that is better: higher score, fewer occupied slots, lower number (R181). -/
structure Place where
  core  : Nat
  slot  : Nat
  score : Nat
  used  : Nat
  deriving DecidableEq, Repr

def betterPlace (a b : Place) : Bool :=
  b.score < a.score || (a.score == b.score && (a.used < b.used || (a.used == b.used && a.core < b.core)))

def bestPlace : List Place → Option Place
  | [] => none
  | a :: l =>
    match bestPlace l with
    | none => some a
    | some b => if betterPlace b a then some b else some a

/-- Candidates among cores. -/
def candidates (s : State) (cores : List Nat) (u : Nat) (p : Option (BitVec 4)) (spans : List (Nat × Nat)) : List Place :=
  cores.filterMap fun k =>
    (slotFor s k u p).map fun x => { core := k, slot := x, score := placeScore s k p spans, used := (coreCtxs s k).length }

/-- Where a task would be placed, on one die or on any. -/
def taskPlace (s : State) (l : Launch) (die : Option Nat) : Option Place :=
  let cores := (List.range 160).filter fun k =>
    (getPolder s l.polder).cores.getLsbD k && (die.isNone || die == some (dieOf k))
  bestPlace (candidates s cores l.rcd.carve (some l.polder) (tagSpans l.readSpans))

/-! Contexts (R69, R74, R424) -/

def Seq.fresh : Seq :=
  { sreg := Vector.replicate 32 0, guards := 0, banks := [], pc := { line := 0, slot := 0, bad := false }, line := none
    skip := false, relWait := none, waited := none, atEnd := false, run := .running, bars := 0, hold := none, age := 0
    ops := [], fab := [], rtags := []
    retired := 0 }

def StageSlot.empty : StageSlot := { data := none, src := none, grans := [], filling := false }

/-- The state of R69, with nothing yet said of what the context runs. -/
def Ctx.fresh (id : CtxId) : Ctx :=
  { id := id, polder := 0, asid := 0, priv := .task, neutral := none, gang := none, task := none, life := .running
    cut := false, x := .fresh, l := .fresh, c := .fresh, s := .fresh, shared := Vector.replicate 32 0
    vreg := Vector.replicate 32 .reset, preg := Vector.replicate 8 0, tokens := Vector.replicate 12 0, image := 0
    lines := 0, entries := [], vault := none, headerBad := true, windows := [], units := 0, scratch := [], origin := []
    spoison := [], fpcr := 0, workid := 0, wfields := 0, handle := 0, cancel := false, padrows := 0, padcols := 0
    trec := 0, taddr := 0, fltaddr := 0, asselP := 0, asselA := 0, prsel := 0, pdsel := 0, fpsel := 0, frames := []
    pending := [], preempt := none, slots := [.empty, .empty], tiles := List.replicate 8 .reset, matrix := []
    xfers := [], nextXfer := 0, replay := none, rrot := none, rrotWait := false, cbars := 0, watchdog := 0, stalls := []
    resident := 0, issued := 0, matDone := 0, moved := 0, dqLost := false }

/-- A context takes its slot, at the back of every port's order (R80). -/
def addCtx (s : State) (c : Ctx) : State :=
  modCore { s with ctxs := s.ctxs ++ [c] } c.id.core fun k =>
    { k with ports := (List.range 4).map fun i => k.ports.getD i [] ++ [c.id.slot] }

/-- Its header has passed: each sequencer stands at slot 0 of its entry line (R90). -/
def Ctx.begin (c : Ctx) (len : Nat) (ents : List Nat) : Ctx :=
  let go (x : Seq) (i : Nat) : Seq := { x with pc := { line := ents.getD i 1, slot := 0, bad := false }, line := none }
  { c with lines := len, entries := ents, headerBad := false, x := go c.x 0, l := go c.l 1, c := go c.c 2, s := go c.s 3 }

/-- Its own image's header: a line of it waits for a rename buffer or a held page, or the result of the check. -/
inductive HeaderCheck where
  | wait | bad | good (len : Nat) (ents : List Nat)
  deriving DecidableEq, Repr

def ownHeader (s : State) (c : Ctx) : HeaderCheck :=
  match c.vault with
  | some v =>
    match checkImageBytes (((s.images.find? fun x => x.id == v).map fun x => x.bytes).getD []) with
    | some (len, ents) => .good len ents
    | none => .bad
  | none =>
    let g := agentOf s c
    let waits_ (line : Nat) : Bool := waits s g .fetch (c.image + BitVec.ofNat 64 (64 * line)).toNat 64
    let ents := ((headerFields (fetchLine s g c.image 0).2).map Prod.snd).getD []
    if waits_ 0 || ents.any waits_ then .wait
    else
      match checkImage s g c.image with
      | some (len, ents) => .good len ents
      | none => .bad

/-- The check of R90, at the start and again after each TRET while it fails. -/
def headerCheck (s : State) (id : CtxId) : State :=
  match getCtx s id with
  | none => s
  | some c =>
    let t := if c.vault.isSome then s else noteImage s (agentOf s c) c.image
    match ownHeader s c with
    | .wait => s
    | .good len ents => modCtx t id fun c => c.begin len ents
    | .bad => takeTrap t c { mkTrap .X 0x18 0 0 with point := some { line := 0, slot := 0, bad := false } }

/-- A task starts in a slot (R65, R69, R111, R117). -/
def startTask (s : State) (l : Launch) (i : Nat) (id : CtxId) (gang : Option GangRef) : State :=
  let s1 := startLaunch s l.polder l.seq
  let t : TaskRef := { polder := l.polder, seq := l.seq, index := i }
  let c : Ctx :=
    { Ctx.fresh id with
      polder := l.polder, asid := l.asid, priv := l.priv, gang := gang, task := some t, image := l.rcd.image
      windows := l.rcd.windows, units := l.rcd.carve, workid := l.rcd.base + BitVec.ofNat 64 i
      wfields := presentFields l.rcd.fields
      handle := (launchHandle l.polder l.seq).extractLsb' 0 52 }
  headerCheck (setTask (addCtx s1 c) t .running) id

/-! Order of routing and dispatch (R113, R114) -/

/-- A task that could move: its launch, index, die and effective class. -/
structure Cand where
  polder : BitVec 4
  seq    : BitVec 48
  index  : Nat
  die    : Option Nat
  ec     : Nat
  deriving DecidableEq, Repr

/-- The rotation by polder number. -/
def polderTurn (s : State) (p : BitVec 4) : Nat := (p.toNat + 15 - s.lastServed) % 16

def candBefore (s : State) (a b : Cand) : Bool :=
  a.ec < b.ec || (a.ec == b.ec && (polderTurn s a.polder < polderTurn s b.polder
    || (a.polder == b.polder && (a.seq.toNat < b.seq.toNat || (a.seq == b.seq && a.index < b.index)))))

/-- The clusters of a die that can take a gang, with its places. -/
structure GangPlace where
  cluster : Nat
  slots   : List (Nat × Nat)
  score   : Nat
  used    : Nat
  deriving DecidableEq, Repr

/-- The die to which a task is routed. -/
def routedDie : TaskState → Option Nat
  | .routed d => some d
  | _ => none

/-- The positions of gang m that are not cancelled, QUEUED or ROUTED. -/
def gangLive (l : Launch) (m : Nat) : List Nat :=
  (List.range 8).filter fun p => taskState l (8 * m + p) == .queued || (routedDie (taskState l (8 * m + p))).isSome

/-- The die to which members of gang m are already routed. -/
def gangDie (l : Launch) (m : Nat) : Option Nat := (List.range 8).findSome? fun p => routedDie (taskState l (8 * m + p))

/-- Every live member of gang m is ROUTED. -/
def gangRouted (l : Launch) (m : Nat) : Bool :=
  (gangLive l m).all fun p => (routedDie (taskState l (8 * m + p))).isSome

def clusterPlace (s : State) (l : Launch) (live : List Nat) (k : Nat) : Option GangPlace :=
  let found := live.filterMap fun p => (slotFor s (8 * k + p) l.rcd.carve (some l.polder)).map fun x => (p, x)
  if found.length ≠ live.length then none
  else
    some { cluster := k, slots := found
           score := live.foldl (fun n p => n + placeScore s (8 * k + p) (some l.polder) (tagSpans l.readSpans)) 0
           used := (List.range 8).foldl (fun n p => n + (coreCtxs s (8 * k + p)).length) 0 }

def betterGang (a b : GangPlace) : Bool :=
  b.score < a.score || (a.score == b.score && (a.used < b.used || (a.used == b.used && a.cluster < b.cluster)))

def bestGang : List GangPlace → Option GangPlace
  | [] => none
  | a :: l =>
    match bestGang l with
    | none => some a
    | some b => if betterGang b a then some b else some a

/-- Where gang m would be placed: once a member is routed, on its die (R16, R62). -/
def gangPlace (s : State) (l : Launch) (m : Nat) : Option GangPlace :=
  if gangLive l m = [] then none
  else
    bestGang (((wholeClusters (getPolder s l.polder).cores).filter fun k =>
      (gangDie l m).isNone || gangDie l m == some (k / 5)).filterMap (clusterPlace s l (gangLive l m)))

/-- A launch's next QUEUED task, if it can move, with the die that it would go to. -/
def routeCand (s : State) (l : Launch) : Option Cand :=
  if l.eligible.isNone || l.committed || (getPolder s l.polder).swapped || (getPolder s l.polder).state != 2 then none
  else
    match nextTask l with
    | none => none
    | some i =>
      let mk (d : Option Nat) : Cand := { polder := l.polder, seq := l.seq, index := i, die := d, ec := effClass s l }
      if l.rcd.gang then (gangPlace s l (i / 8)).map fun g => mk (some (g.cluster / 5))
      else if l.rcd.coal then
        match weirRoute s l with
        | .stay => none
        | .reject => some (mk none)
        | .enter d _ => some (mk (some d))
      else (taskPlace s l none).map fun x => mk (some (dieOf x.core))

def routeCands (s : State) : List Cand := s.polders.flatMap fun p => p.queue.filterMap (routeCand s)

/-- No candidate of the same polder, or for the same die, goes before it. -/
def goesFirst (s : State) (all : List Cand) (c : Cand) : Bool :=
  all.all fun o => !(candBefore s o c && (o.polder == c.polder || (o.die.isSome && o.die == c.die)))

def serve (s : State) (p : BitVec 4) : State := { s with lastServed := p.toNat }

/-- R16, R66, R161, R164, R166: the next task of an eligible launch goes to its die or to a weir, or is REJECTED. -/
def routeTask (s : State) (l : Launch) (i : Nat) : Option State :=
  let t : TaskRef := { polder := l.polder, seq := l.seq, index := i }
  if l.rcd.coal then
    match weirRoute s l with
    | .stay => none
    | .reject => some (rejectTask s t)
    | .enter d k => some (serve (enterWeir s d k (newMember s l i)) l.polder)
  else if l.rcd.gang then (gangPlace s l (i / 8)).map fun g => serve (setTask s t (.routed (g.cluster / 5))) l.polder
  else (taskPlace s l none).map fun x => serve (setTask s t (.routed (dieOf x.core))) l.polder

/-- R16, R113, R114, R161, R164. -/
def execTaskRoute (p : BitVec 4) (seq : BitVec 48) (ix : Nat) (s : State) : Answer :=
  match findLaunch s p seq with
  | none => notNow s
  | some l =>
    match routeCand s l with
    | none => notNow s
    | some c =>
      if c.index != ix || !goesFirst s (routeCands s) c then notNow s
      else
        match routeTask s l ix with
        | none => notNow s
        | some t => .next t

/-- Routed tasks that have a place on their die: of a gang its first live member, for all. -/
def dispatchCands (s : State) : List Cand :=
  (s.polders.filter fun p => p.state == 2).flatMap fun p => p.queue.flatMap fun l =>
    if l.rcd.gang then
      ((List.range (l.rcd.count / 8)).filter fun m => gangRouted l m).filterMap fun m =>
        (gangPlace s l m).map fun g =>
          { polder := l.polder, seq := l.seq, index := 8 * m + (gangLive l m).headD 0, die := some (g.cluster / 5)
            ec := effClass s l }
    else (((List.range l.tasks.length).zip l.tasks).filterMap fun x =>
      match x.2 with
      | .routed d =>
        (taskPlace s l (some d)).map fun _ =>
          { polder := l.polder, seq := l.seq, index := x.1, die := some d, ec := effClass s l }
      | _ => none)

/-- R62, R65, R69, R90, R117, R181: a routed task starts in the best slot of its die. -/
def execTaskDispatch (p : BitVec 4) (seq : BitVec 48) (ix : Nat) (s : State) : Answer :=
  let all := dispatchCands s
  match findLaunch s p seq, all.find? fun c => c.polder == p && c.seq == seq && c.index == ix with
  | some l, some c =>
    match taskPlace s l c.die with
    | some x =>
      if !l.rcd.gang && goesFirst s all c then .next (serve (startTask s l ix { core := x.core, slot := x.slot } none) p)
      else notNow s
    | none => notNow s
  | _, _ => notNow s

/-- R62: every context of a gang starts in one cycle. -/
def execGangDispatch (p : BitVec 4) (seq : BitVec 48) (gang : Nat) (s : State) : Answer :=
  let all := dispatchCands s
  match findLaunch s p seq, all.find? fun c => c.polder == p && c.seq == seq && c.index / 8 == gang with
  | some l, some c =>
    match gangPlace s l gang with
    | none => notNow s
    | some g =>
      if !l.rcd.gang || !goesFirst s all c then notNow s
      else
        .next (serve (g.slots.foldl (fun t x =>
          startTask t l (8 * gang + x.1) { core := 8 * g.cluster + x.1, slot := x.2 }
            (some { polder := p, seq := seq, gang := gang, pos := x.1 })) s) p)
  | _, _ => notNow s

/-! Buntings (R166, R168, R182, R424) -/

/-- The granules of the bound version's stored extent, as PUB tags name them. -/
def versionSpan (v : Version) : List (Nat × Nat) :=
  let a := v.home * 2 ^ 37 + v.page * 65536
  [(a / 4096, (a % 4096 + v.bytes + 4095) / 4096)]

def bunPlace (s : State) (b : Bunting) : Option Place :=
  let u := ((s.images.find? fun x => x.id == b.image).map fun x => x.carve).getD 0
  let cores := (List.range 160).filter fun k => s.commons.getLsbD k && dieOf k == b.die
  bestPlace (candidates s cores u none (((keyVersion s b.key).map versionSpan).getD []))

/-- The released bunting of a die that goes first: release cycle, then key slot (R166). -/
def firstBunting (s : State) (d : Nat) : Option Bunting :=
  (s.buntings.filter fun b => b.die == d && b.running.isNone).foldl (fun m b =>
    match m with
    | none => some b
    | some a => if b.released < a.released ∨ (b.released = a.released ∧ b.slot < a.slot) then some b else some a) none

/-- Commons metering lets it start (R287). -/
def meterOk (s : State) (b : Bunting) : Bool := b.members.all fun m => 0 < (getPolder s m.task.polder).bal

/-- The neutral context of a bunting starts (R168, R424). -/
def startNeutral (s : State) (b : Bunting) (x : Place) : State :=
  let id : CtxId := { core := x.core, slot := x.slot }
  let img := s.images.find? fun v => v.id == b.image
  let c : Ctx :=
    { Ctx.fresh id with neutral := some b.id, vault := some b.image, units := (img.map fun v => v.carve).getD 0 }
  headerCheck (addCtx { s with
    buntings := s.buntings.map fun y => if y.id = b.id then { y with running := some id } else y } c) id

/-- A bunting starts, and its members run (R66, R166). -/
def startBunting (s : State) (b : Bunting) (x : Place) : State :=
  startNeutral (b.members.foldl (fun t m => setTask t m.task .running) s) b x

/-- R166, R182, R287, R424. -/
def execBuntingStart (die : BitVec 2) (s : State) : Answer :=
  match firstBunting s die.toNat with
  | none => notNow s
  | some b =>
    match bunPlace s b with
    | some x => if meterOk s b then .next (startBunting s b x) else notNow s
    | none => notNow s

/-! END and retirement (R64, R66 to R68, R170, R350) -/

/-- A pending trap that keeps END from retiring: any but an imprecise one whose sequencer stands at BAR, which X's END may
release (DEDUCED, log entry 80). -/
def Ctx.endWaits (c : Ctx) : Bool :=
  c.pending.any fun t => !t.imprec || (match (c.seq t.seq).run with | .bar _ => false | _ => true)

/-- R260, R350: END retires only when no trap is taken or pending; the task is then ENDING. A request that is pending then
is dropped: it reaches contexts in RUNNING alone (R260, R262). -/
def endNow (s : State) (c : Ctx) (q : Seqr) : Act :=
  if c.endWaits then .wait
  else
    let s2 := modCtx s c.id fun c => { c.modSeq q (fun x => { x with run := .ended }) with life := .ending, preempt := none }
    let s3 :=
      match c.task with
      | some t => setTask s2 t .ending
      | none => s2
    .done s3 .plain Exc.none none

/-- R66, R67, R260, R350: only on X, not in handler mode. -/
def execEndTask (h : Hdr) (s : State) : Answer :=
  issue s h (fun c => { wf := checkOne (.endTask h), regs := [], seqs := [.X], queue := true, perm := !c.inHandler s.cur.seq })
    fun c q => endNow s c q

/-- A pre-emption request of the reeve goes on without a context (R260, R261). -/
def preqLeave (s : State) (id : CtxId) (saved forced : Bool) : State :=
  match s.preq with
  | none => s
  | some r =>
    if !r.left.contains id then s
    else
      let r' := { r with left := r.left.filter (· != id), saved := if saved then r.saved + 1 else r.saved
                         forced := if forced then r.forced + 1 else r.forced }
      if r'.left = [] ∧ r'.mode ≠ 2 then
        { s with preq := none, pstatStatus := 0, pstatSaved := BitVec.ofNat 16 r'.saved
                 pstatForced := BitVec.ofNat 16 r'.forced }
      else { s with preq := some r' }

/-- Contexts that are gone leave the request (R260). -/
def preqPrune (s : State) : State :=
  match s.preq with
  | none => s
  | some r => (r.left.filter fun id => (getCtx s id).isNone).foldl (fun t id => preqLeave t id false false) s

/-- R68: the context has left ENDING. -/
def retireReady (s : State) (c : Ctx) : Bool :=
  let quiet (x : Seq) : Bool := x.ops.all fun o => o.done && o.trap.isNone
  c.life == .ending && c.frames == []
    && (c.cut || (c.l.run == .streamEnd && c.c.run == .streamEnd && c.s.run == .streamEnd
          && c.pending == []))
    && quiet c.x && quiet c.l && quiet c.c && quiet c.s
    && c.xfers == [] && c.matrix == [] && (ctxSide s c.id).isEmpty && !c.rrotWait

/-- The park log entry is the member's (R174). -/
def ofMember (m : Member) (e : Word × Word) : Bool :=
  e.1.setWidth 48 == m.task.seq && (e.2 >>> 32).setWidth 24 == BitVec.ofNat 24 m.task.index

/-- WRITTEN of a parked member goes into its park log entry (R174). -/
def fillParkLog (s : State) (m : Member) : State :=
  let f (e : Word × Word) : Word × Word := (e.fst, if ofMember m e then m.parkInfo else e.snd)
  modPolder s m.task.polder fun d => { d with parklog := { d.parklog with entries := d.parklog.entries.map f } }

/-- Scattered rows in row order. -/
def insertRow (x : Nat × List Byte) : List (Nat × List Byte) → List (Nat × List Byte)
  | [] => [x]
  | y :: l => if x.1 ≤ y.1 then x :: y :: l else y :: insertRow x l

/-- The signature of a sampled unit: its scattered rows in order, and the mask of parked rows (R277). -/
def auditSignature (b : Bunting) : Word :=
  let rows := (b.scattered.foldr insertRow []).flatMap Prod.snd
  let mask := (List.range 32).flatMap fun i =>
    [BitVec.ofNat 8 ((List.range 8).foldl (fun n k =>
      if ((rowOwner b (8 * i + k)).bind fun o => b.members[o.1 - 1]?).any fun m => m.parked.isSome then n + 2 ^ k else n) 0)]
  crc64 (rows ++ mask)

/-- A replay's parked rows: those that it parked, and those of members whom something outside the unit parked in the original
run (log entry 22). -/
def replayed (b : Bunting) (a : AuditSample) : Bunting :=
  { b with members := (b.members.zip a.members).map fun x => if x.2.parked = some 0x17 then { x.1 with parked := x.2.parked } else x.1 }

/-- An audit's replay ends with its neutral context: its signature is to be compared, where it was neither pre-empted nor
faulted; its scatters have gone to the audit buffer (R277, R278). -/
def endAuditRun (s : State) (b : Bunting) (c : Ctx) (k : Nat) : State :=
  writeAudit { s with
    buntings := s.buntings.filter fun x => x.id != b.id
    audits := s.audits.map fun a =>
      if a.index = k then { a with ended := some (c.id.core, if c.cut then none else some (auditSignature (replayed b a))) } else a }

/-- A bunting ends with its neutral context (R164, R170, R174, R186, R276). -/
def endBunting (s : State) (b : Bunting) (core : Nat) : State :=
  let s1 := b.members.foldl (fun t m =>
    let t := setTask t m.task .retired
    if m.parked.isSome then fillParkLog t m else t) s
  let s2 := { s1 with buntings := s1.buntings.filter fun x => x.id != b.id }
  let s3 :=
    match b.sample with
    | none => s2
    | some k =>
      writeAudit { s2 with audits := s2.audits ++
          [{ index := k, core := core, die := b.die, signature := auditSignature b, gathered := b.gathered
             members := b.members, hash := b.key.hash, image := b.image, key := b.key, scattered := b.scattered
             second := none, ended := none
             version := (keyVersion s b.key).map fun v => (v.model, v.tensor, v.version) }] }
  retireVersions s3

/-- A context leaves its slot (R64). -/
def dropCtx (s : State) (id : CtxId) : State :=
  refreshResid (modCore { s with ctxs := s.ctxs.filter fun c => c.id != id } id.core fun k =>
    { k with ports := k.ports.map fun p => p.filter (· != id.slot) }) id.core

/-- A gang's slots are freed with its last member (R64). -/
def freeGang (s : State) (g : GangRef) : State :=
  let ms := gangMembers s g
  if !gangSaved s g && ms.all (fun c => c.life == .retired) then ms.foldl (fun t c => dropCtx t c.id) s else s

/-- A deque loses its owner and is emptied (R84). -/
def dropDeque (s : State) (id : CtxId) : State :=
  modCore s id.core fun k => if k.owner = some id.slot then { k with owner := none, deque := [] } else k

/-- Residency entries of a polder leave every table before another polder's task is placed (R179). -/
def dropResid (s : State) (p : BitVec 4) : State :=
  let keep (e : Nat × Word) : Bool := (resKeyOf e.2).pub || (resKeyOf e.2).polder != p
  { s with
    cores := s.cores.map fun k => { k with resid := k.resid.filter keep }
    dies := s.dies.map fun d => { d with summary := d.summary.filter keep } }

/-- R64, R68, R84, R170, R425: a context retires; one of a polder that is being destroyed takes the polder's residency entries
with it (R179). -/
def retireCtx (s : State) (c : Ctx) : State :=
  let s1 := modCtx (dropDeque s c.id) c.id fun c =>
    { c with life := .retired, slots := [.empty, .empty], pending := [], preempt := none }
  let s2 :=
    match c.task with
    | some t => setTask s1 t .retired
    | none => s1
  let s3 :=
    match c.neutral.bind (bunting s2) with
    | some b =>
      match b.replay with
      | some k => endAuditRun s2 b c k
      | none => endBunting s2 b c.id.core
    | none => s2
  let s3 := if (getPolder s3 c.polder).state = 3 then dropResid s3 c.polder else s3
  let s4 := refreshResid s3 c.id.core
  retireImages (preqPrune (match c.gang with
    | some g => freeGang s4 g
    | none => dropCtx s4 c.id))

/-- R64, R68. -/
def execContextRetire (id : CtxId) (s : State) : Answer :=
  match getCtx s id with
  | none => notNow s
  | some c => if retireReady s c then .next (retireCtx s c) else notNow s

end Sys2Proof.Machine
end

