-- ==== Sys2Proof/Machine/Task.lean ====
section
/-! DEFINITION. Submission and cancellation, work-stealing deques, watchpoints, RESQ, CARVE, NOTIFY and the counters (R79,
R84 to R86, R103, R109, R110, R124, R128 to R132, R134, R180, R309, R341, R342, R348, R349, R368, R371 to R373, R388,
R398 to R400). -/

namespace Sys2Proof.Machine

/-! TSUB (R399) -/

/-- The issuer as a submitter (R112, R256). -/
def submitterOf (s : State) (c : Ctx) : Submitter :=
  { polder := effPolder s c, asid := (agentOf s c).asid, priv := c.effPriv, tsub := true }

/-- Steps 4 to 6 of R399 after the reads. A die link that is down stops no header on its way (R20; DESIGN CHOICE, log entry
87). -/
def tsubEnter (s : State) (c : Ctx) (q : Seqr) (d : SReg) (x : LaunchRec) (header : List Byte) (compl : Word) : Act :=
  match recordTail s x header with
  | some e => .trap s e.1 e.2 0
  | none =>
    let s1 := releaseEffect s .sys
    let l := newLaunch s1 (submitterOf s c) x (fpcrEnables c.fpcr) compl
    if queueFull s1 l.polder || arrivalsWait s1 l.polder then
      .hold { s1 with heldSubs := s1.heldSubs ++ [{ ctx := c.id, dest := d, launch := l, since := s.cycle }] } .queue
    else
      let r := enterQueue s1 l
      .done (modCtx r.1 c.id fun c => c.wS q d r.2) .plain Exc.none none

/-- A fault that holds a TSUB is marked as its own. -/
def subHold : Act → Act
  | .hold s (.fault r) => .hold s (.fault { r with sub := true })
  | a => a

/-- R101 to R103, R109 to R112, R398, R399. -/
def execTsub (h : Hdr) (d a e : SReg) (s : State) : Answer :=
  issue s h (notNeutral (.tsub h d a e) [.X]) fun c q =>
    let addr := c.rS q a
    let compl := c.rS q e
    if compl.toNat % 8 ≠ 0 then .trap s 0x09 0 compl
    else if !releaseReady s c q .sys then .waitRel .sys
    else if addr.toNat % 256 ≠ 0 then .trap s 0x0E 1 0
    else
      match readMem s c q addr.toNat 256 1 with
      | .error act => (subHold act).noLoad
      | .ok (s1, bs) =>
        match recordHead s1 (submitterOf s c) addr bs with
        | some t => .trap s1 t.1 t.2 0
        | none =>
          let x := parseRecord bs
          if x.coal then
            match readMem s1 c q x.image.toNat 64 1 with
            | .error act => (subHold act).noLoad
            | .ok (s2, hd) => tsubEnter s2 c q d x hd compl
          else tsubEnter s1 c q d x [] compl

/-- Order of arrivals of one cycle: TSUBs by core and slot, before fires (R110). -/
def subBefore (a b : HeldSub) : Bool :=
  a.since < b.since || (a.since == b.since && (a.ctx.core < b.ctx.core || (a.ctx.core == b.ctx.core && a.ctx.slot < b.ctx.slot)))

/-- The submission is the first arrival that waits for its polder's queue. -/
def subFirst (s : State) (h : HeldSub) : Bool :=
  s.heldSubs.all (fun o => o.launch.polder != h.launch.polder || !subBefore o h)
    && s.heldFires.all fun f => f.polder != h.launch.polder || h.since ≤ f.since

def fireFirst (s : State) (f : HeldFire) : Bool :=
  s.heldSubs.all (fun o => o.launch.polder != f.polder || f.since < o.since)
    && s.heldFires.all fun o => o.polder != f.polder || f.since < o.since || (f.since == o.since && f.wpid ≤ o.wpid)

/-- The header of the instruction at which a sequencer stands. -/
def headerAt (x : Seq) : Option Hdr :=
  (x.line.bind fun l => match decode (slotWord l x.pc.slot) with | .ok (.tsub h ..) => some h | _ => none)

/-- The held TSUB takes an entry and completes (R399). -/
def subEntry (s : State) (h : HeldSub) (hd : Hdr) : State :=
  let r := enterQueue { s with heldSubs := s.heldSubs.filter fun o => o.ctx != h.ctx } h.launch
  let s1 := modCtx r.1 h.ctx fun c => (c.modSeq .X fun x => { x with hold := none }).wS .X h.dest r.2
  finish s1 h.ctx .X hd .plain Exc.none none none

/-- A held TSUB can take an entry now. -/
def subReady (s : State) (h : HeldSub) : Option Hdr :=
  match getCtx s h.ctx with
  | none => none
  | some c =>
    if c.x.hold == some .queue && !queueFull s h.launch.polder && subFirst s h then headerAt c.x else none

/-- R109, R110, R399. -/
def execTsubQueueEntry (id : CtxId) (s : State) : Answer :=
  match s.heldSubs.find? fun h => h.ctx == id with
  | none => notNow s
  | some h =>
    match subReady s h with
    | some hd => .next (subEntry s h hd)
    | none => notNow s

/-- R124 to R127, R388. -/
def execTcan (h : Hdr) (all : Bool) (d hd i : SReg) (s : State) : Answer :=
  issue s h (notNeutral (.tcan h all d hd i) [.X]) fun c q =>
    let r := cancelLaunch s (effPolder s c) (c.rS q hd) (c.rS q i) all
    .done (modCtx r.1 c.id fun c => c.wS q d r.2) .plain Exc.none none

/-! Deques (R84 to R86) -/

/-- The owner's operation on its core's deque: the deque afterwards, the status and the entry. -/
def dequeOp (s : State) (c : Ctx) (f : List Word → List Word × Nat × Option Word) : State × Nat × Option Word :=
  if c.dqLost then (modCtx s c.id fun c => { c with dqLost := false }, 3, none)
  else
    let k := getCore s c.id.core
    match k.owner with
    | some n =>
      if n ≠ c.id.slot then (s, 2, none)
      else
        let r := f k.deque
        (modCore s c.id.core fun k => { k with deque := r.1 }, r.2)
    | none =>
      let r := f k.deque
      (modCore s c.id.core fun k => { k with owner := some c.id.slot, deque := r.1 }, r.2)

/-- R84, R86, R348, R349: a release at die scope. -/
def execDqpush (h : Hdr) (d a : SReg) (s : State) : Answer :=
  issue s h (anyCtx (.dqpush h d a) [.X]) fun c q =>
    if !releaseReady s c q .die then .waitRel .die
    else
      let v := c.rS q a
      let r := dequeOp s c fun l => if l.length < 64 then (l ++ [v], 0, none) else (l, 1, none)
      .done (modCtx r.1 c.id fun c => c.wS q d (BitVec.ofNat 64 r.2.1)) .plain Exc.none none

/-- The status is written first, so that one register for both receives the entry on status 0 (R348). -/
def putEntry (q : Seqr) (d e : SReg) (status : Nat) (x : Option Word) (c : Ctx) : Ctx :=
  let c := c.wS q d (BitVec.ofNat 64 status)
  match x with
  | some v => c.wS q e v
  | none => c

/-- R84, R86, R348; taking an entry is an acquire at die scope (R196, R349). -/
def execDqpop (h : Hdr) (d e : SReg) (s : State) : Answer :=
  issue s h (anyCtx (.dqpop h d e) [.X]) fun c q =>
    let r := dequeOp s c fun l =>
      match l.getLast? with
      | none => (l, 1, none)
      | some v => (l.dropLast, 0, some v)
    .done (modCtx (acquireL1 r.1 c r.2.2.isSome .die) c.id (putEntry q d e r.2.1 r.2.2)) .plain Exc.none none

/-- The entries of a core's deque, if a context of the polder owns it (R85, R349). -/
def victim (s : State) (p : BitVec 4) (core : Nat) : List Word :=
  let k := getCore s core
  match k.owner.bind fun n => getCtx s { core := core, slot := n } with
  | none => []
  | some c => if c.neutral.isNone && c.polder == p then k.deque else []

/-- The core whose deque has the most entries, the lower number among equals; none if every one is empty. -/
def fullest (s : State) (p : BitVec 4) (cores : List Nat) : Option Nat :=
  cores.foldl (fun m k =>
    let n := (victim s p k).length
    if n = 0 then m
    else
      match m with
      | none => some k
      | some j => if (victim s p j).length < n then some k else some j) none

/-- The victim that "any" picks. -/
def anyVictim (s : State) (p : BitVec 4) (core : Nat) : Option Nat :=
  let near := ((List.range 8).map fun i => 8 * clusterOf core + i).filter (· != core)
  let far := ((List.range 40).map fun i => 40 * dieOf core + i).filter fun k => clusterOf k != clusterOf core
  (fullest s p near).or (fullest s p far)

/-- R85, R86, R348, R349; taking an entry is an acquire at die scope (R196). -/
def execDqstl (h : Hdr) (d e : SReg) (v : Option SReg) (s : State) : Answer :=
  issue s h (anyCtx (.dqstl h d e v) [.X]) fun c q =>
    let core := c.id.core
    let pick : Option Nat :=
      if c.neutral.isSome then none
      else
        match v with
        | none => anyVictim s c.polder core
        | some r =>
          let k := (c.rS q r).toNat
          if k < 160 ∧ dieOf k = dieOf core then some k else none
    match pick.map fun k => (k, victim s c.polder k) with
    | some (k, x :: l) =>
      .done (modCtx (acquireL1 (modCore s k fun y => { y with deque := l }) c true .die) c.id (putEntry q d e 0 (some x)))
        .plain Exc.none none
    | _ => effect s c.id (putEntry q d e 1 none)

/-! Watchpoints (R128 to R132, R400) -/

/-- At steward privilege or above, and not in a neutral context (R129, R168). -/
def stewardForm (i : Instr) : Ctx → Form := fun c =>
  { wf := checkOne i, regs := scalarRegs i, seqs := [.X], queue := true, perm := 1 ≤ privNat c.effPriv && c.neutral.isNone }

/-- Registers in use on a die. -/
def watchRegs (s : State) (d : Nat) : List Nat := (s.watches.flatMap fun w => w.regs).filterMap fun r =>
  if r.1 = d then some r.2 else none

/-- The lowest free register of each die, or none where a die has none (R18). -/
def takeRegs (s : State) : List Nat → Option (List (Nat × Nat))
  | [] => some []
  | d :: l =>
    match (List.range 256).find? fun k => !(watchRegs s d).contains k, takeRegs s l with
    | some k, some r => some ((d, k) :: r)
    | _, _ => none

/-- The pieces of a watched range: physical address, length, virtual address; or the status that says why not. A range that
is not canonical or wraps has no translation: status 3 (DEDUCED, log entry 74). -/
def watchPieces (s : State) (g : Agent) (a n : Nat) : Except Nat (List (Nat × Nat × Nat)) :=
  if !spanOk a n then .error 3
  else
    match transAll s g .read (granules (n / 4096 + 2) a n) with
    | .error _ => .error 3
    | .ok segs =>
      if segs.any fun x => !segPermitted s g .read x then .error 3
      else if segs.any fun x => !isHbm s x.pa || inVault s x.pa then .error 2
      else .ok (segs.map fun x => (x.pa, x.len, x.va))

def diesOf (ps : List (Nat × Nat × Nat)) : List Nat :=
  (List.range 4).filter fun d => ps.any fun p => p.1 / 2 ^ 37 == d

/-- The watchpoint that a descriptor asks for, or the status (R128, R129). A COMPL with nonzero bits 2:0 gives status 4 (DESIGN
CHOICE, log entry 92). -/
def makeWatch (s : State) (c : Ctx) (b : List Byte) : Except Nat Watch :=
  let n := natAt b 8 4
  let a := natAt b 0 8
  let g := { agentOf s c with launch := none }
  if a % 8 ≠ 0 ∨ n % 8 ≠ 0 ∨ n < 8 ∨ 2 ^ 20 < n ∨ 2 ≤ natAt b 12 1 ∨ natAt b 13 3 ≠ 0 ∨ natAt b 32 8 % 256 ≠ 0
      ∨ natAt b 40 8 % 8 ≠ 0 ∨ natAt b 48 16 ≠ 0 then .error 4
  else
    match watchPieces s g a n with
    | .error e => .error e
    | .ok ps =>
      match takeRegs s (diesOf ps) with
      | none => .error 1
      | some regs =>
        .ok { serial := s.nextWatch, polder := g.polder, asid := g.asid, regs := regs, pieces := ps, rearm := natAt b 12 1 = 1
              mask := BitVec.ofNat 64 (natAt b 16 8), value := BitVec.ofNat 64 (natAt b 24 8)
              rcd := BitVec.ofNat 64 (natAt b 32 8), compl := BitVec.ofNat 64 (natAt b 40 8), heldFire := false
              counted := 0 }

/-- R128, R129, R400. -/
def execWatch (h : Hdr) (d a : SReg) (s : State) : Answer :=
  issue s h (stewardForm (.watch h d a)) fun c q =>
    let addr := (c.rS q a).toNat
    if addr % 64 ≠ 0 then effect s c.id fun c => c.wS q d 4
    else
      match readMem s c q addr 64 64 with
      | .error act => act.noLoad
      | .ok (s1, b) =>
        match makeWatch s1 c b with
        | .error e => effect s1 c.id fun c => c.wS q d (BitVec.ofNat 64 e)
        | .ok w =>
          effect { s1 with watches := s1.watches ++ [w], nextWatch := s1.nextWatch + 1 } c.id fun c => c.wS q d (BitVec.ofNat 64 (wpIdOf w * 2 ^ 32))

/-- A watchpoint removed; a fire that it still holds keeps its count (R132, R400). -/
def dropWatch (s : State) (w : Watch) : State :=
  { s with
    watches := s.watches.filter (· != w)
    heldFires := if !w.heldFire then s.heldFires else s.heldFires.map fun f =>
      if f.serial = w.serial then { f with counted := w.counted } else f }

/-- R129, R400. -/
def execUnwatch (h : Hdr) (d a : SReg) (s : State) : Answer :=
  issue s h (stewardForm (.unwatch h d a)) fun c q =>
    let v := (c.rS q a).toNat
    match s.watches.find? fun w => wpIdOf w == v && w.polder == effPolder s c with
    | none => effect s c.id fun c => c.wS q d 1
    | some w => effect (dropWatch s w) c.id fun c => c.wS q d 0

/-- The bytes that a fire reads, or the cause of its failure; no fault is queued (R131). -/
def fireRead (s : State) (f : Fire) (a n : Nat) : Except Nat (State × List Byte) :=
  let g := devAgent f.asid f.polder
  match checkAccess s g .read a n 1 with
  | .ok segs =>
    if segs.any Seg.fabric then .error 0x0B
    else if segsPoisoned s segs then .error 0x12
    else .ok (noteAccess s g .read segs, segsRead s segs)
  | .trap cause _ => .error cause
  | .fault _ | .fill _ | .held => .error 0x0A

/-- The launch of a fire, or the cause with which its checks fail (R103, R131). -/
def fireLaunch (s : State) (f : Fire) : Except Nat (State × Launch) :=
  let y : Submitter := { polder := f.polder, asid := f.asid, priv := .steward, tsub := false }
  match fireRead s f f.rcd.toNat 256 with
  | .error e => .error e
  | .ok (s1, bs) =>
    match recordHead s1 y f.rcd bs with
    | some e => .error e.1
    | none =>
      let x := parseRecord bs
      let tail (t : State) (hd : List Byte) : Except Nat (State × Launch) :=
        match recordTail t x hd with
        | some e => .error e.1
        | none => .ok (t, newLaunch t y x 0 f.compl)
      if x.coal then
        match fireRead s1 f x.image.toNat 64 with
        | .error e => .error e
        | .ok (s2, hd) => tail s2 hd
      else tail s1 []

/-- An entry of a side log that a fire's release waits for is not yet replayed, in its core or with its saved context. -/
def sidePending (s : State) (x : Nat × Nat) : Bool :=
  (getCore s x.1).side.any (fun e => e.id == x.2)
    || s.saved.any fun v => v.ctx.id.core == x.1 && v.side.any fun e => e.id == x.2

/-- A reduction that a fire's release waits for still waits for credits. -/
def redPending (s : State) (x : CtxId × Seqr × Nat) : Bool :=
  (getCtx s x.1).any fun c => (c.seq x.2.1).owed.contains x.2.2

/-- The release of the write that fired is done, and no page that the fire reads is held by a SCOPY (R223, R301). -/
def fireReady (s : State) (f : Fire) : Bool :=
  let g := devAgent f.asid f.polder
  !f.side.any (sidePending s) && !f.reds.any (redPending s) && !f.acks.any (fun t => s.fabReqs.any fun r => r.rtag == t) && !waits s g .read f.rcd.toNat 256
    && (match fireRead s f f.rcd.toNat 256 with
        | .ok (_, bs) => !(parseRecord bs).coal || !waits s g .read (parseRecord bs).image.toNat 64
        | .error _ => true)
    && (f.compl == 0 || !waits s g .atomic f.compl.toNat 8)

/-- The first fire that can go on; the fires of one watchpoint keep their order (R130). -/
def nextFire (s : State) : List Fire → List Nat → Option Fire
  | [], _ => none
  | f :: l, seen => if !seen.contains f.serial && fireReady s f then some f else nextFire s l (f.serial :: seen)

/-- A fire submits its launch, is held on a full queue, or is reported as failed (R131, R132). Its write has released at sys
scope (R223). The fire of a polder that is not ACTIVE is dropped (R288). -/
def runFire (s : State) (f : Fire) : State :=
  let s := releaseEffect s .sys
  if (getPolder s f.polder).state != 2 then s
  else if s.watches.any fun w => w.serial == f.serial && w.heldFire && f.rearm then
    { s with watches := s.watches.map fun w => if w.serial = f.serial then { w with counted := w.counted + 1 } else w }
  else
    match fireLaunch s f with
    | .error cause =>
      let s1 := logSub s f.polder 0 f.wpid cause 0
      if f.compl = 0 then s1 else (addToken s1 f.asid f.compl true).getD s1
    | .ok (s1, l) =>
      if queueFull s1 l.polder || arrivalsWait s1 l.polder then
        { s1 with
          heldFires := s1.heldFires ++
            [{ polder := f.polder, wpid := f.wpid, serial := f.serial, launch := l, counted := 0, rearm := f.rearm
               since := s.cycle }]
          watches := s1.watches.map fun w =>
            if w.serial = f.serial ∧ w.rearm then { w with heldFire := true, counted := 0 } else w }
      else (enterQueue s1 l).1

/-- A held fire can be submitted now; one of a polder that is not ACTIVE is not (R288). -/
def heldFireReady (s : State) (f : HeldFire) : Bool :=
  (getPolder s f.polder).state == 2 && !queueFull s f.polder && fireFirst s f

/-- The held fire is submitted, and the count of a re-arm watchpoint reported (R132). -/
def submitHeld (s : State) (f : HeldFire) : State :=
  let mine (w : Watch) : Bool := w.serial == f.serial && w.heldFire
  let n := ((s.watches.find? mine).map fun w => w.counted).getD f.counted
  let s1 := (enterQueue { s with heldFires := s.heldFires.filter (· != f) } f.launch).1
  let s2 := { s1 with watches := s1.watches.map fun w => if mine w then { w with heldFire := false, counted := 0 } else w }
  if f.rearm then logSub s2 f.polder 3 f.wpid 0 (min n (2 ^ 40 - 1)) else s2

/-- R109, R132. -/
def execHeldFireSubmit (k : Nat) (s : State) : Answer :=
  match s.heldFires[k]? with
  | none => notNow s
  | some f => if heldFireReady s f then .next (submitHeld s f) else notNow s

/-- The range of a watchpoint no longer leads where it led (R132). -/
def watchMoved (s : State) (w : Watch) : Bool :=
  w.pieces.any fun p =>
    match transOne s (devAgent w.asid w.polder) .read p.2.2 p.2.1 with
    | .ok x => x.pa != p.1
    | .error _ => true

/-- Watchpoints over pages that were unmapped or remapped are removed and reported (R132). -/
def recheckWatches (s : State) : State :=
  (s.watches.filter (watchMoved s)).foldl (fun t w => logSub (dropWatch t w) w.polder 1 (wpIdOf w) 0 0) s

/-! RESQ (R180, R372, R373) -/

def tableEntry (t : ResTable) (p : Option (BitVec 4)) (k : Nat) : Word :=
  match t.find? fun e => e.1 == k with
  | none => 0
  | some e => if (resKeyOf e.2).pub || some (resKeyOf e.2).polder == p then e.2 else 0

/-- R180, R372, R373. -/
def execResq (h : Hdr) (sum : Bool) (d a b : SReg) (s : State) : Answer :=
  issue s h (anyCtx (.resq h sum d a b) [.X]) fun c q =>
    let p := if c.neutral.isSome then none else some c.polder
    let k := (c.rS q b).toNat
    let core := (c.rS q a).toNat
    let v :=
      if sum then tableEntry (getDie s (dieOf c.id.core)).summary p k
      else if core < 160 ∧ dieOf core = dieOf c.id.core ∧ k < 512 then tableEntry (getCore s core).resid p k
      else 0
    effect s c.id fun c => c.wS q d v

/-! CARVE (R79, R341, R342) -/

/-- R79, R333, R341: the arrival; its status comes when the barrier's conditions are met. -/
def execCarve (h : Hdr) (d a : SReg) (s : State) : Answer :=
  issue s h (anyCtx (.carve h d a) [.X]) fun c q =>
    if c.neutral.isSome || c.inHandler q then .trap s 0x11 0 0
    else if !releaseReady s c q .ctx then .waitRel .ctx
    else
      let n := (c.seq q).bars + 1
      .done (modSeq s c.id q fun x => { x with bars := n, run := .carve d (c.rS q a) n }) (.bar n .ctx) Exc.none none

/-- The status of R342. -/
def carveStatus (s : State) (c : Ctx) (u : Nat) : Nat :=
  if 43 < u || (24 < u && (getPolder s c.polder).tslice) then 2
  else if !l1Fits (coreCtxs s c.id.core).length (unitsOn s c.id.core - c.units + u) then 1
  else 0

/-- The scratchpad cut or grown to u units (R79, R179). -/
def resizeScratch (u : Nat) (c : Ctx) : Ctx :=
  { c with units := u, scratch := c.scratch.filter fun x => x.1 < 65536 * u
           origin := c.origin.filter fun x => 16 * x.1 < 65536 * u
           spoison := c.spoison.filter fun x => 16 * x < 65536 * u }

/-! Counters (R309, R371) -/

/-- What a counter of a core or die has counted before a cycle. What it counts in each cycle is free (log entry 9). -/
def countedBy (n who : Nat) : Nat → Nat
  | 0 => 0
  | t + 1 => countedBy n who t + Config.sharedStep n who t

/-- The value of a shared counter at a cycle: of the context's core, or of its die. The count of buntings released is the
die's own. -/
def sharedAt (s : State) (core n t : Nat) : Nat :=
  if n = 37 then ((getDie s (dieOf core)).releases.filter fun r => r ≤ t).length
  else if n < 32 then countedBy n core t
  else countedBy n (dieOf core) t

/-- A shared counter as the context reads it: the reeve exactly, others quantised and delayed. -/
def sharedRead (s : State) (c : Ctx) (n : Nat) : Word :=
  if c.effPriv = .reeve then BitVec.ofNat 64 (sharedAt s c.id.core n s.cycle)
  else if s.cycle < 180000 then 0
  else BitVec.ofNat 64 (sharedAt s c.id.core n (s.cycle - 180000) / 1024 * 1024)

/-- The private counters. -/
def privateRead (c : Ctx) (n : Nat) : Nat :=
  match n with
  | 0 => c.resident | 1 => c.x.retired | 2 => c.l.retired | 3 => c.c.retired | 4 => c.s.retired | 5 => c.matDone
  | 6 => c.moved
  | _ => 0

/-- R309, R371. -/
def execRdcnt (h : Hdr) (d : SReg) (n : BitVec 32) (s : State) : Answer :=
  issue s h (anyCtx (.rdcnt h d n) allSeqs) fun c q =>
    let k := n.toNat
    if (16 ≤ k ∧ k ≤ 19) ∨ (32 ≤ k ∧ k ≤ 37) then effect s c.id fun x => x.wS q d (sharedRead s c k)
    else effect s c.id fun x => x.wS q d (BitVec.ofNat 64 (privateRead c k))

/-- R309, R371. -/
def execRdtime (h : Hdr) (d : SReg) (s : State) : Answer :=
  issue s h (anyCtx (.rdtime h d) allSeqs) fun c q => effect s c.id fun c => c.wS q d (BitVec.ofNat 64 s.cycle)

/-! MSI-X (R134, R291, R368) -/

def getFn (s : State) (f : Nat) : HostFn := s.fns.getD f .reset

def modFn (s : State) (f : Nat) (g : HostFn → HostFn) : State := { s with fns := s.fns.modify f g }

def msixEntry (f : HostFn) (n : Nat) : MsixEntry := (alGet f.table n).getD .reset

/-- The message of an entry sent. -/
def sendMsi (s : State) (f : Nat) (e : MsixEntry) : State := { s with outbox := s.outbox ++ [.msi f e.addr e.data] }

/-- Entry n raised: sent, or left pending (R134). -/
def raiseMsi (s : State) (f n : Nat) : State :=
  let x := getFn s f
  let e := msixEntry x n
  if x.fmask || e.mask then modFn s f fun x => { x with table := alSet x.table n { e with pend := true } }
  else sendMsi s f e

/-- R134, R294, R368. -/
def execNotify (h : Hdr) (d a : SReg) (s : State) : Answer :=
  issue s h (notNeutral (.notify h d a) [.X]) fun c q =>
    let p := effPolder s c
    let f := (getPolder s p).vf.toNat
    let n := (c.rS q a).toNat
    if !releaseReady s c q .sys then .waitRel .sys
    else if (getPolder s p).tdi = 3 then .trap s 0x0B 0 0
    else
      let s1 := releaseEffect s .sys
      let done (t : State) (v : Word) : Act := effect t c.id fun c => c.wS q d v
      if 64 ≤ n then done s1 1
      else if !(getFn s1 f).enable then done s1 2
      else done (raiseMsi s1 f n) 0

/-- A function's pending entries that are no longer masked send their one message (R134). -/
def unpend (s : State) (f : Nat) : State :=
  (List.range 64).foldl (fun t n =>
    let x := getFn t f
    let e := msixEntry x n
    if x.enable && !x.fmask && e.pend && !e.mask then
      sendMsi (modFn t f fun x => { x with table := alSet x.table n { e with pend := false } }) f e
    else t) s

/-- R134: the host unmasks an entry. -/
def execMsixUnmask (fn : BitVec 4) (vec : Nat) (s : State) : Answer :=
  if 64 ≤ vec then notNow s
  else
    .next (unpend (modFn s fn.toNat fun x =>
      { x with table := alSet x.table vec { msixEntry x vec with mask := false } }) fn.toNat)

end Sys2Proof.Machine
end

