-- ==== Sys2Proof/Machine/Complete.lean ====
section
/-! DEFINITION. What issued instructions and held sequencers go on to: token posts, completion, barriers, the stream end,
pending traps, pre-emption taken, and the watchdog (R43, R44, R67, R71, R72, R79, R83, R90, R228, R255, R260, R262, R264,
R333, R342, R343). -/

namespace Sys2Proof.Machine

/-! Token posts (R71) -/

/-- An op that nothing waits for any more. -/
def Op.spent (o : Op) : Bool := o.done && o.post == 0 && o.trap.isNone && !o.ends

/-- Spent ops at the head of the order leave it. -/
def trimOps : List Op → List Op
  | [] => []
  | o :: l => if o.spent then trimOps l else o :: l

/-! Runs and holds, outside and inside handlers -/

/-- Something q does now or goes back to. -/
def Ctx.anyRun (c : Ctx) (q : Seqr) (p : SeqRun → Bool) : Bool :=
  p (c.seq q).run || c.frames.any fun f => f.saves.any fun v => v.seq == q && p v.run

/-- The same changed. -/
def Ctx.mapRun (c : Ctx) (q : Seqr) (f : SeqRun → SeqRun) : Ctx :=
  let c := c.modSeq q fun x => { x with run := f x.run }
  { c with frames := c.frames.map fun r => { r with saves := r.saves.map fun v =>
      if v.seq = q then { v with run := f v.run } else v } }

/-- A hold of q that p names is gone: the instruction issues again. -/
def Ctx.freeHold (c : Ctx) (q : Seqr) (p : Hold → Bool) : Ctx :=
  let g (h : Option Hold) : Option Hold := if h.any p then none else h
  let c := c.modSeq q fun x => { x with hold := g x.hold }
  { c with frames := c.frames.map fun r => { r with saves := r.saves.map fun v =>
      if v.seq = q then { v with hold := g v.hold } else v } }

/-! Barriers (R79, R333, R342, R343) -/

/-- q has arrived at instance n, or counts as arrived (R333). -/
def arrived (c : Ctx) (n : Nat) (q : Seqr) : Bool :=
  n ≤ (c.seq q).bars || (match c.baseRun q with | .streamEnd | .ended => true | _ => false)

def SeqRun.isCarve (n : Nat) : SeqRun → Bool
  | .carve _ _ k => k == n
  | _ => false

/-- Instance n of the context's barrier is released. -/
def barReady (c : Ctx) (n : Nat) : Bool :=
  [Seqr.X, .L, .C, .S].all (arrived c n) && !c.anyRun .X (SeqRun.isCarve n)

/-- An arrival of a barrier. -/
def Op.isBar (o : Op) : Bool := match o.kind with | .bar .. => true | _ => false

/-- Every operation of R68 has completed. -/
def quiescent (s : State) (c : Ctx) : Bool :=
  [Seqr.X, .L, .C, .S].all (fun q => (c.seq q).ops.all fun o => o.done || o.isBar)
    && c.xfers == [] && c.matrix == [] && (ctxSide s c.id).isEmpty && !c.rrotWait

/-- The CARVE that arrived in instance n, and whether it takes effect. -/
def carveOf (c : Ctx) (n : Nat) : Option (SReg × Word) :=
  let g (r : SeqRun) : Option (SReg × Word) := match r with | .carve d u k => if k = n then some (d, u) else none | _ => none
  (g c.x.run).or (c.frames.findSome? fun f => f.saves.findSome? fun v => if v.seq = .X then g v.run else none)

def carveReady (s : State) (c : Ctx) (n : Nat) : Bool :=
  [Seqr.L, .C, .S].all (arrived c n) && quiescent s c

/-- CARVE takes effect (R342). -/
def carveEffect (s : State) (c : Ctx) (depth : Nat) (d : SReg) (u : Word) : State :=
  let st := carveStatus s c u.toNat
  let s1 := modCtx s c.id fun c =>
    let c := if st = 0 then resizeScratch u.toNat c else c
    c.wSAt .X depth d (BitVec.ofNat 64 st)
  if st = 0 then refreshResid s1 c.id.core else s1

def sameGang (g : GangRef) (c : Ctx) : Bool :=
  match c.gang with
  | none => false
  | some h => h.polder == g.polder && h.seq == g.seq && h.gang == g.gang

/-- A position of a gang has arrived at its instance n; a position whose task was cancelled counts (R343). -/
def gangArrived (s : State) (g : GangRef) (n pos : Nat) : Bool :=
  let ms := (s.ctxs ++ s.saved.map fun v => v.ctx).filter fun c => sameGang g c && (c.gang.map fun h => h.pos) == some pos
  ms.all fun c => n ≤ c.cbars || memberEnded c

def cbarReady (s : State) (c : Ctx) (n : Nat) : Bool :=
  match c.gang with
  | none => true
  | some g => (List.range 8).all (gangArrived s g n)

/-! The stream end (R67) -/

/-- The point is at the stream end and nothing else stops the sequencer. -/
def endsHere (atEnd : Bool) (run : SeqRun) : Bool := atEnd && run == .running

/-- The fetch trap of an X that reaches its stream end. -/
def endTrap (p : CodePoint) (depth : Nat) : TrapReq := { mkTrap .X 0x18 0 0 with point := some p, depth := depth }

/-- The frames with the outermost place of q at its stream end settled, and the trap of X. -/
def settleFrames (q : Seqr) : List Frame → List Frame × Option (Option TrapReq)
  | [] => ([], none)
  | f :: l =>
    let r := settleFrames q l
    match r.2 with
    | some t => (f :: r.1, some t)
    | none =>
      match f.saves.find? fun v => v.seq == q && endsHere v.atEnd v.run with
      | none => (f :: l, none)
      | some v =>
        let w : SeqSave := if q = .X then { v with atEnd := false } else { v with atEnd := false, run := .streamEnd }
        ({ f with saves := f.saves.map fun y => if y.seq = q then w else y } :: l,
          some (if q = .X then some (endTrap v.point l.length) else none))

/-- A completed last slot: its sequencer is at its stream end; X traps. -/
def settleEnd (s : State) (id : CtxId) (q : Seqr) : State :=
  match getCtx s id with
  | none => s
  | some c =>
    let r := settleFrames q c.frames
    match r.2 with
    | some t =>
      let s1 := modCtx s id fun c => { c with frames := r.1 }
      match t with
      | some t => raiseTrap s1 id t
      | none => s1
    | none =>
      let x := c.seq q
      if !endsHere x.atEnd x.run then s
      else if q = .X then
        raiseTrap (modSeq s id q fun x => { x with atEnd := false }) id (endTrap x.pc c.frames.length)
      else modSeq s id q fun x => { x with atEnd := false, run := .streamEnd }

/-! INSTRUCTION_COMPLETE (R43, R44, R72) -/

/-- The release or fence o at place k of the order may take effect (R228). -/
def opReleaseReady (s : State) (c : Ctx) (q : Seqr) (k : Nat) (o : Op) (sc : Scope) : Bool :=
  ((c.seq q).ops.take k).all (fun o => o.done) && scopeReady s c o.age sc

/-- Op k of q completes now, or, once its post is done, its trap or stream end is due (R44). -/
def opReady (s : State) (c : Ctx) (q : Seqr) (k : Nat) (o : Op) : Bool :=
  if o.done then (o.trap.isSome && o.post == 0) || (o.trap.isNone && o.ends)
  else
    match o.kind with
    | .plain => true
    | .fabric tags _ => !s.fabReqs.any fun r => tags.contains r.rtag
    | .release sc | .fence sc => opReleaseReady s c q k o sc
    | .bar n _ => barReady c n || ((carveOf c n).isSome && q == .X && carveReady s c n)
    | .cbar n _ => cbarReady s c n
    | _ => false

/-- What the completion itself does. A departure from a barrier is an acquire at its scope (R333, R343). -/
def opEffect (s : State) (c : Ctx) (q : Seqr) (o : Op) : State :=
  let go (t : State) (sc : Scope) (p : SeqRun → Bool) : State :=
    acquireL1 (modCtx t c.id fun c => c.mapRun q fun r => if p r then .running else r) c true sc
  match o.kind with
  | .release sc | .fence sc => releaseEffect s sc
  | .bar n sc =>
    match (if q = .X then carveOf c n else none) with
    | some (d, u) => go (carveEffect s c o.depth d u) sc (SeqRun.isCarve n)
    | none => go s sc fun r => r == .bar n
  | .cbar n sc => go s sc fun r => r == .cbar n
  | _ => s

/-- Op k has completed: its trap is raised and its stream end reached; a trap and what is behind it wait for the op's post
(R44). -/
def settleOp (s : State) (id : CtxId) (q : Seqr) (k : Nat) (o : Op) : State :=
  let wait := o.trap.isSome && o.post != 0
  let s1 := modSeq s id q fun x =>
    { x with ops := trimOps (x.ops.set k (if wait then { o with done := true } else { o with done := true, trap := none, ends := false })) }
  if wait then s1
  else
    let s2 := match o.trap with
      | none => s1
      | some t => raiseTrap s1 id { t with depth := o.depth, age := o.age }
    if o.ends then settleEnd s2 id q else s2

/-- Op k completes: its effect, its flags, its trap, and the stream end behind it. -/
def completeOp (s : State) (c : Ctx) (q : Seqr) (k : Nat) (o : Op) : State :=
  let s1 := if o.done then s else opEffect s c q o
  let s2 := if o.done then s1 else modCtx s1 c.id fun c => { c with fpcr := fpcrComplete c.fpcr o.exc.bits o.exc.causes }
  settleOp s2 c.id q k o

/-- R72. -/
def execInstructionComplete (q : SeqId) (k : Nat) (s : State) : Answer :=
  match getCtx s (ctxOf q) with
  | none => notNow s
  | some c =>
    match (c.seq q.seq).ops[k]? with
    | none => notNow s
    | some o =>
      if opReady s c q.seq k o then .next (completeOp s c q.seq k o)
      else notNow s

/-! Token posts (R71, R72, R228) -/

/-- The conditions of R228 at a post's scope, apart from the writing back of dirty pool lines; earlier instructions of its
sequencer have completed by R71. -/
def postReleased (s : State) (c : Ctx) (o : Op) : Bool := scopeReady s c o.age o.scope

/-- The post of the sequencer that takes effect next. -/
def postReady (s : State) (c : Ctx) (q : Seqr) : Option Nat :=
  dueFrom (fun o => c.tok o.post.toNat != 63 && postReleased s c o) 0 (c.seq q).ops

/-- Post k takes effect: the release of its scope, the count, and the trap that its instruction raises after it (R44). -/
def postOp (s : State) (c : Ctx) (q : Seqr) (k : Nat) (o : Op) : State :=
  let n := o.post.toNat
  settleOp (modCtx (releaseEffect s o.scope) c.id fun c => c.setTok n (c.tok n + 1)) c.id q k { o with post := 0 }

/-- R71. -/
def execTokenPost (q : SeqId) (s : State) : Answer :=
  match getCtx s (ctxOf q) with
  | none => notNow s
  | some c =>
    match postReady s c q.seq with
    | none => notNow s
    | some k =>
      match (c.seq q.seq).ops[k]? with
      | none => notNow s
      | some o => .next (postOp s c q.seq k o)

/-! Reductions that wait for credits (R307) -/

/-- The elements of a reduction of q that the next credits reach are performed. -/
def creditStep (s : State) (c : Ctx) (q : Seqr) : Option State :=
  let ops := (c.seq q).ops
  ((List.range ops.length).zip ops).findSome? fun (k, o) =>
    match o.kind with
    | .credit g rest tags sys =>
      match redAll s c q g rest with
      | (t, new, left) =>
        if left.length = rest.length then none
        else some (modSeq t c.id q fun x => { x with ops := x.ops.set k { o with kind := redKind (tags ++ new) g left sys } })
    | _ => none

/-! The watchdog (R83) -/

def watchdogDue (c : Ctx) : Bool := Config.watchdogCycles ≤ c.watchdog && !c.cut && !c.halting && c.life != .retired

/-- What a sequencer waits for: a queue whose count is 0, what it is held on, the barrier at which it stands. -/
def Ctx.stall (c : Ctx) (q : Seqr) : Stall :=
  let x := c.seq q
  let w : BitVec 4 :=
    match x.line with
    | none => 0
    | some l =>
      match fetched l x.pc.slot with
      | .instr (.tkwait _ _ k) => k
      | _ => (Raw.ofWord (slotWord l x.pc.slot)).h.wq
  { wait := if w ≠ 0 ∧ c.tok w.toNat = 0 ∧ x.waited.isNone then w else 0, hold := x.hold, run := x.run }

/-- R83: taken by X, inside a handler too. The record's word has no place for the sequencers' states, so the context keeps
them beside it; the counter starts again at the trap (DESIGN CHOICE, log entry 48). -/
def execWatchdogTrap (id : CtxId) (s : State) : Answer :=
  match getCtx s id with
  | none => notNow s
  | some c =>
    if watchdogDue c then
      .next (takeTrap (modCtx s id fun c => { c with watchdog := 0, stalls := [Seqr.X, .L, .C, .S].map c.stall }) c
        { mkTrap .X 0x14 0 0 with age := c.issued })
    else notNow s

/-! Pending traps and pre-emption (R260, R262, R264) -/

/-- A pre-emption handler, of either vector, whose save is due keeps its traps (R264, R369). -/
def Ctx.inPreempt (c : Ctx) : Bool :=
  match c.frame with
  | some f => f.preempt && c.preempt.isSome
  | none => false

/-- A pending trap that is taken now: an imprecise one waits for the next instruction of its sequencer, unless it is for a
pool region, for which it waits only while an issued instruction of the sequencer is held (R434), or its sequencer issues no
more (DEDUCED, log entry 80). -/
def Ctx.ripe (c : Ctx) (t : TrapReq) : Bool :=
  c.frames.length ≤ t.depth
    && (!t.imprec || (t.prompt && (c.seq t.seq).waited.isNone) || (match (c.seq t.seq).run with | .streamEnd | .ended => true | _ => false))

/-- The pending trap that is taken next. -/
def pendingTrap (c : Ctx) : Option TrapReq :=
  if c.inPreempt || c.halting then none else oldestTrap (c.pending.filter c.ripe)

def takePending (s : State) (c : Ctx) (t : TrapReq) : State :=
  takeTrap (modCtx s c.id fun c => { c with pending := c.pending.erase t }) c t

/-- A trap of an instruction that has issued is still to come. -/
def trapsToCome (c : Ctx) : Bool := [Seqr.X, .L, .C, .S].any fun q => (c.seq q).ops.any fun o => o.trap.isSome

/-- A pre-emption request is taken. -/
def preemptDue (c : Ctx) : Bool :=
  c.preempt.isSome && c.life == .running && c.frames == [] && (pendingTrap c).isNone && !trapsToCome c && !c.cut
    && !c.headerBad && !c.halting

/-- All four sequencers enter the handler image of one vector. -/
def enterPreempt (s : State) (c : Ctx) (reeve : Bool) (len : Nat) (ents : List Nat) : State :=
  let all := [Seqr.X, .L, .C, .S]
  let f : Frame :=
    { seq := .X, reeve := reeve, preempt := true, image := vectorImage s c reeve, lines := len
      asid := (handlerAgent s c reeve).asid, saves := all.map fun q => (c.seq q).save q (c.seq q).pc
      trec := c.trec, taddr := c.taddr }
  modCtx s c.id fun c =>
    { all.foldl (fun c q => c.modSeq q fun x => x.enter (ents.getD (seqIndex q) 1)) c with
      frames := f :: c.frames, trec := trecWord false false false .X 0x17 0 c.x.pc, taddr := 0 }

/-- R262: the steward's vector, the reeve's where that image fails its check, the end of the context where both do. -/
def takePreempt (s : State) (c : Ctx) : State :=
  let gs := handlerAgent s c false
  let gr := handlerAgent s c true
  let s1 := noteImage s gs (vectorImage s c false)
  match checkImage s gs (vectorImage s c false) with
  | some (len, ents) => enterPreempt s1 c false len ents
  | none =>
    let s2 := noteImage s1 gr (vectorImage s c true)
    match checkImage s1 gr (vectorImage s c true) with
    | some (len, ents) => enterPreempt s2 c true len ents
    | none => endCtx s2 c.id 0x17

/-- The header of a context is checked again (R90). -/
def headerDue (s : State) (c : Ctx) : Bool :=
  c.headerBad && !c.halting && c.frames == [] && (pendingTrap c).isNone && !c.cut && c.life != .retired && ownHeader s c != .wait

/-! Rename fills that end (R117) -/

/-- The rename buffer is filled, or its launch has committed. -/
def fillDone (s : State) (r : FillRef) : Bool :=
  match (findLaunch s r.polder r.seq).bind fun l => l.renames.find? fun x => x.granule == r.granule with
  | some x => x.fill == .filled
  | none => true

/-- A hold on a fill that is done. -/
def Hold.filled (s : State) : Hold → Bool
  | .fill r => fillDone s r
  | _ => false

/-- A sequencer that waited for a fill may go on. -/
def fillDue (s : State) (c : Ctx) (q : Seqr) : Bool :=
  (c.seq q).hold.any (Hold.filled s) || c.frames.any fun f => f.saves.any fun v => v.seq == q && v.hold.any (Hold.filled s)

end Sys2Proof.Machine
end

