-- ==== Sys2Proof/Machine/Control.lean ====
section
/-! DEFINITION. Control flow, tokens, barriers and fences (R66, R67, R87, R221, R228, R332, R333, R335 to R337, R339,
R340, R342, R343, R351, R357, R389, R396, R397, R421). -/

namespace Sys2Proof.Machine

/-- Only in handler mode (R258). -/
def inHandlerForm (i : Instr) (seqs : List Seqr) (q : Seqr) : Ctx → Form := fun c =>
  { wf := checkOne i, regs := scalarRegs i, seqs := seqs, queue := true, perm := c.inHandler q }

/-- Only in a gang task (R63). -/
def gangForm (i : Instr) (seqs : List Seqr) : Ctx → Form := fun c =>
  { wf := checkOne i, regs := scalarRegs i, seqs := seqs, queue := true, perm := c.gang.isSome && c.neutral.isNone }

/-- A queue operand checked with check 3 (R389). -/
def queueForm (i : Instr) (ok : Bool) : Ctx → Form := fun _ =>
  { wf := checkOne i, regs := scalarRegs i, seqs := allSeqs, queue := ok, perm := true }

/-- A branch to a point, with an effect on the context. -/
def branchTo (s : State) (id : CtxId) (p : CodePoint) (f : Ctx → Ctx) : Act :=
  .done (modCtx s id f) .plain Exc.none (some p)

/-- R337. -/
def execBra (h : Hdr) (off : BitVec 26) (slot : BitVec 3) (s : State) : Answer :=
  issue s h (anyCtx (.bra h off slot) allSeqs) fun c q => branchTo s c.id (branchPoint (c.seq q) off slot) id

/-- R339. -/
def execBrx (h : Hdr) (a : SReg) (s : State) : Answer :=
  issue s h (anyCtx (.brx h a) allSeqs) fun c q => branchTo s c.id (wordPoint (c.rS q a)) id

/-- R340. -/
def execCall (h : Hdr) (l : SReg) (off : BitVec 26) (slot : BitVec 3) (s : State) : Answer :=
  issue s h (anyCtx (.call h l off slot) allSeqs) fun c q =>
    branchTo s c.id (branchPoint (c.seq q) off slot) fun c => c.wS q l (returnWord (c.seq q))

/-- R339. -/
def execRet (h : Hdr) (a : SReg) (s : State) : Answer :=
  issue s h (anyCtx (.ret h a) allSeqs) fun c q => branchTo s c.id (wordPoint (c.rS q a)) id

/-- R357. -/
def execLoop (h : Hdr) (r : SReg) (off : BitVec 26) (slot : BitVec 3) (s : State) : Answer :=
  issue s h (anyCtx (.loop h r off slot) allSeqs) fun c q =>
    let n := c.rS q r - 1
    if n = 0 then effect s c.id fun c => c.wS q r n
    else branchTo s c.id (branchPoint (c.seq q) off slot) fun c => c.wS q r n

/-- n words of a window from word k on, one read after the other. -/
def readWords (s : State) (c : Ctx) (q : Seqr) (w : Nat) : Nat → Nat → Except Act (State × List Nat)
  | _, 0 => .ok (s, [])
  | k, n + 1 =>
    match readWindow s c q w k 1 with
    | .error a => .error a
    | .ok (t, b) =>
      match readWords t c q w (k + 1) n with
      | .error a => .error a
      | .ok (u, l) => .ok (u, b :: l)

/-- R87, R336: word 0, then the n buckets, then the target of the first bucket that is at least the dimension. -/
def execBkt (h : Hdr) (d a : SReg) (w : BitVec 3) (off : BitVec 17) (s : State) : Answer :=
  issue s h (anyCtx (.bkt h d a w off) allSeqs) fun c q =>
    let dim := (c.rS q a).toNat % 2 ^ 32
    match readWindow s c q w.toNat off.toNat 1 with
    | .error e => e.noLoad
    | .ok (s0, w0) =>
      if w0 / 32 ≠ 0 then .trap s0 0x0E 16 0
      else
        match readWords s0 c q w.toNat (off.toNat + 1) (w0 % 16 + 1) with
        | .error e => e.noLoad
        | .ok (s1, bs) =>
          match bs.findIdx? fun b => dim ≤ b with
          | none => effect s1 c.id fun c => c.wS q d 16
          | some i =>
            match readWindow s1 c q w.toNat (off.toNat + 17 + i) 1 with
            | .error e => e.noLoad
            | .ok (s2, t) =>
              if t / 2 ^ 29 ≠ 0 then .trap s2 0x0E 16 0
              else
                let pad : BitVec 16 := BitVec.ofNat 16 (Nat.min (bs.getD i 0 - dim) 65535)
                branchTo s2 c.id (branchPoint (c.seq q) (BitVec.ofNat 26 t) (BitVec.ofNat 3 (t / 2 ^ 26))) fun c =>
                  let c := c.wS q d (BitVec.ofNat 64 i)
                  if w0 / 16 % 2 = 0 then { c with padrows := pad } else { c with padcols := pad }

/-- R421: the context moves to the back of every issue order. -/
def execYield (h : Hdr) (s : State) : Answer :=
  issue s h (anyCtx (.yield h) allSeqs) fun c q => .done (rotate s c.id q true) .plain Exc.none none

/-- R396. -/
def execTrap (h : Hdr) (imm : BitVec 32) (s : State) : Answer :=
  issue s h (anyCtx (.trap h imm) allSeqs) fun _ _ => .after s 0x13 (imm.toNat % 256)

/-- R72, R365: only its wait and post. -/
def execNop (h : Hdr) (s : State) : Answer :=
  issue s h (anyCtx (.nop h) allSeqs) fun _ _ => .done s .plain Exc.none none

/-- ACTION of a trap record. -/
def trecAction (t : Word) : Nat := (t.extractLsb' 56 2).toNat
def trecCause (t : Word) : BitVec 8 := t.extractLsb' 48 8

/-- A sequencer leaves the innermost handler; the frame goes when its last sequencer has left (R256, R258). With skip, a held
instruction at the resume point is no longer held. -/
def leaveFrame (q : Seqr) (skip : Bool) (c : Ctx) : Ctx :=
  match c.frames with
  | [] => c
  | f :: rest =>
    match f.saves.find? fun x => x.seq == q with
    | none => c
    | some v =>
      let c := c.modSeq q fun x => { (x.leave { v with skip := v.skip || skip, hold := if skip then none else v.hold }) with retired := x.retired + 1 }
      let left := f.saves.filter fun x => x.seq != q
      if left ≠ [] then { c with frames := { f with saves := left } :: rest }
      else if rest = [] then { c with frames := [], trec := c.trec &&& ~~~ (1#64 <<< 63) }
      else { c with frames := rest, trec := f.trec, taddr := f.taddr }

/-- R258, R397. A context ended in a reeve handler is reported to Optis (R281). -/
def execTret (h : Hdr) (s : State) : Answer :=
  issue s h (inHandlerForm (.tret h) allSeqs s.cur.seq) fun c q =>
    let act := trecAction c.trec
    if act = 2 then .set (endCtx (if c.effPriv = .reeve ∧ c.frame.isSome then optisLog s 5 c.id.core else s) c.id (trecCause c.trec))
    else .set (rotate (modCtx s c.id fun c => { leaveFrame q (act == 1 && !c.headerBad) c with watchdog := 0 }) c.id q h.yld)

/-- R389: a release, whose post goes to the queue of its operand. -/
def execTkpost (h : Hdr) (sc : Scope) (k : TokQ) (s : State) : Answer :=
  issue s h (queueForm (.tkpost h sc k) (postsFrom k.toNat s.cur.seq)) (sc := sc) fun _ _ => .posts s (.release sc) k

/-- R389: waits on the queue of its operand. -/
def execTkwait (h : Hdr) (sc : Scope) (k : TokQ) (s : State) : Answer :=
  issue s h (queueForm (.tkwait h sc k) (waitsAt k.toNat s.cur.seq)) (sc := sc) fun c _ =>
    if c.tok k.toNat = 0 then .wait
    else effect (acquireL1 s c true sc) c.id fun c => c.setTok k.toNat (c.tok k.toNat - 1)

/-- R389: the count of a queue that starts or ends at the sequencer. -/
def execTkqry (h : Hdr) (d : SReg) (k : TokQ) (s : State) : Answer :=
  issue s h (queueForm (.tkqry h d k) (waitsAt k.toNat s.cur.seq || postsFrom k.toNat s.cur.seq)) fun c q =>
    effect s c.id fun x => x.wS q d ((c.tok k.toNat).setWidth 64)

/-- R333: the sequencer arrives and stops until its instance is released. -/
def execBar (h : Hdr) (sc : Scope) (s : State) : Answer :=
  issue s h (anyCtx (.bar h sc) allSeqs) fun c q =>
    if !releaseReady s c q sc then .waitRel sc
    else
      let n := (c.seq q).bars + 1
      .done (modSeq (releaseEffect s sc) c.id q fun x => { x with bars := n, run := .bar n }) (.bar n sc) Exc.none none

/-- The scope at which a CBAR acts (R343). -/
def cbarScope (sc : Scope) : Scope := if scopeRank sc < 2 then .cluster else sc

/-- R343: the gang member arrives and X stops until its instance is released. -/
def execCbar (h : Hdr) (sc : Scope) (s : State) : Answer :=
  issue s h (gangForm (.cbar h sc) [.X]) fun c q =>
    let sc := cbarScope sc
    if !releaseReady s c q sc then .waitRel sc
    else
      let n := c.cbars + 1
      .done (modCtx (releaseEffect s sc) c.id fun c =>
          { c.modSeq q (fun x => { x with run := .cbar n }) with cbars := n }) (.cbar n sc) Exc.none none

/-- R351: with release effect it completes when the conditions of R228 hold, and nothing later issues before that. -/
def execFence (h : Hdr) (o : FenceOrd) (sc : Scope) (s : State) : Answer :=
  issue s h (anyCtx (.fence h o sc) allSeqs) fun c _ =>
    .done (acquireL1 s c (o != .rel) sc) (if o = .acq then .plain else .fence sc) Exc.none none

end Sys2Proof.Machine
end

