-- ==== Sys2Proof/Machine/Faults.lean ====
section
/-! DEFINITION. Translation faults and logs: entries that join a queue, the replay of the side log, SYS.FLTRES, and the
registers that read a log entry by entry (R117, R120, R133, R174, R245 to R248, R279, R303). -/

namespace Sys2Proof.Machine

/-! Waiting for room (R246) -/

/-- What holds an access has changed. -/
def setHeld (s : State) (w : Waiter) (was : FaultRef) (now : Option FaultRef) : State :=
  match w with
  | .seq id q =>
    modCtx s id fun c =>
      let g (h : Option Hold) : Option Hold :=
        match h with
        | some (.fault r) => if { r with sub := false } = was then now.map fun x => .fault { x with sub := r.sub } else h
        | h => h
      let c := c.modSeq q fun x => { x with hold := g x.hold }
      { c with frames := c.frames.map fun r => { r with saves := r.saves.map fun v =>
          if v.seq = q then { v with hold := g v.hold } else v } }
  | .xfer id n => modXfer s id n fun x => { x with fault := now }
  | .side core n =>
    let f (e : SideEntry) : SideEntry := if e.id = n then { e with fault := now } else e
    let s1 := modCore s core fun k => { k with side := k.side.map f }
    { s1 with saved := s1.saved.map fun v => if v.ctx.id.core = core then { v with side := v.side.map f } else v }
  | .fill p q g =>
    modRename s p q g fun r => { r with fill := match now with | some x => .faulted x | none => .unfilled }
  | .commit p q => modLaunch s p q fun l => { l with commitFault := now }
  | .host => s

/-- Entries of the queue that a fault would go to. -/
def queueLoad (s : State) (i : FaultInfo) : Nat :=
  (s.faults.filter fun e => e.info.stage2 == i.stage2 && (i.stage2 || e.info.polder == i.polder)).length

/-- A waiting access may join: it is the oldest of its queue, and its page has an entry or the queue has room. -/
def joinReady (s : State) (k : Nat) (i : FaultInfo) : Bool :=
  (s.faults.any (sameFault i) || queueLoad s i < 256)
    && (s.roomWait.take k).all fun x => !(x.1.stage2 == i.stage2 && (i.stage2 || x.1.polder == i.polder))

def joinQueue (s : State) (k : Nat) (i : FaultInfo) (w : Waiter) : State :=
  let was : FaultRef := { entry := none, va := BitVec.ofNat 64 i.va, kind := i.kind }
  let r := queueFault { s with roomWait := s.roomWait.eraseIdx k } i w true
  setHeld r.1 w was (some r.2)

/-- R246. -/
def execFaultQueueJoin (k : Nat) (s : State) : Answer :=
  match s.roomWait[k]? with
  | none => notNow s
  | some (i, w) =>
    if joinReady s k i then .next (joinQueue s k i w) else notNow s

/-! The side log (R248) -/

/-- The instruction of a side-log entry counts as complete. -/
def sideOp (s : State) (id : CtxId) (q : Seqr) (n : Nat) (f : Op → Op) : State :=
  modSeq s id q fun x => { x with ops := x.ops.map fun o => if o.kind = .side n then f o else o }

/-- Its instruction, in the order of its sequencer. -/
def sideIssued (s : State) (id : CtxId) (e : SideEntry) : Option Op :=
  (getCtx s id).bind fun c => (c.seq e.seq).ops.find? fun o => o.kind == .side e.id

/-- An entry leaves its log. -/
def sideGone (s : State) (core n : Nat) : State := modCore s core fun k => { k with side := k.side.filter fun e => e.id != n }

/-- A discarded entry: its instruction performs no post, and its context traps imprecisely (R209, R247). -/
def dropSide (s : State) (core : Nat) (e : SideEntry) (t : TrapReq) : State :=
  let id : CtxId := { core := core, slot := e.slot }
  let o := sideIssued s id e
  raiseLater (sideOp (sideGone s core e.id) id e.seq e.id Op.drop) id
    { t with depth := (o.map fun o => o.depth).getD 0, age := (o.map fun o => o.age).getD 0 }

/-- Pages or operands of an entry, as address and length. -/
def SideEntry.spans (e : SideEntry) : List (Nat × Nat) :=
  e.stores.map (fun p => (p.1.toNat, p.2.length)) ++ e.reds.map fun r => (r.2.2.1.toNat, fmtWidth r.2.1 / 8)

/-- Every earlier entry of the context that touches a common line has been replayed. -/
def sideFirst (s : State) (core : Nat) (e : SideEntry) : Bool :=
  ((getCore s core).side.takeWhile fun x => x.id != e.id).all fun x =>
    x.slot != e.slot || !x.lines.any fun l => e.lines.contains l

/-- No earlier reduction of the entry's sequencer, in its order of issue, has elements that wait for credits (R211, R217). -/
def sideAfterReds (s : State) (core : Nat) (e : SideEntry) : Bool :=
  (getCtx s { core := core, slot := e.slot }).all fun c =>
    !((c.seq e.seq).ops.takeWhile fun o => o.kind != .side e.id).any fun o =>
      match o.kind with | .credit .. => true | _ => false

/-- An entry with release ordering meets the conditions of R228 again when it is replayed: the earlier instructions of its
sequencer have completed, the earlier entries of its context are gone, and at sys scope the fabric has acknowledged. -/
def sideReleased (s : State) (core : Nat) (e : SideEntry) : Bool :=
  let id : CtxId := { core := core, slot := e.slot }
  !e.rel
    || (((getCore s core).side.takeWhile fun x => x.id != e.id).all (fun x => x.slot != e.slot)
        && ((getCtx s id).any fun c => ((c.seq e.seq).ops.takeWhile fun o => o.kind != .side e.id).all (fun o => o.done)
          && (scopeRank e.scope < 2 || !c.owesReds (((sideIssued s id e).map fun o => o.age).getD c.issued)))
        && (e.scope != .sys || !s.fabReqs.any fun r => r.ctx == id && !r.isRead))

def sideReady (s : State) (core : Nat) (e : SideEntry) : Bool :=
  e.fault.isNone && sideFirst s core e && sideAfterReds s core e && sideReleased s core e

/-- The reductions of an entry with their pieces, in the order of the operations. -/
def SideEntry.elems (e : SideEntry) (segs : List Seg) : List RedElem :=
  (segs.zip e.reds).map fun (x, op, f, _, v) => { op := op, fmt := f, seg := x, v := v.toNat }

/-- The entry performed in full, at its own scope and ordering. -/
def performSide (s : State) (c : Ctx) (e : SideEntry) (segs : List Seg) : State :=
  let s1 := if e.rel then releaseEffect s e.scope else s
  let s2 := noteAccess s1 e.agent .write segs
  let r : State × List Word × List RedElem :=
    if e.reds = [] then
      let w := writePieces s2 c e.seq e.agent (splitWrites segs (e.stores.flatMap Prod.snd))
      (w.1, w.2, [])
    else redAll s2 c e.seq e.agent (e.elems segs)
  sideOp (sideGone r.1 c.id.core e.id) c.id e.seq e.id fun o =>
    if r.2.1 = [] ∧ r.2.2 = [] then { o with done := true } else { o with kind := redKind r.2.1 e.agent r.2.2 (e.scope == .sys) }

/-- A fabric piece that its own device does not let out. -/
def egressFails (s : State) (p : BitVec 4) (segs : List Seg) : Option (State × Nat × Nat) :=
  (segs.filter fun x => x.fabric).findSome? fun x =>
    match fabEgress s p x.pa with
    | .ok _ => none
    | .error e => some (e.1, e.2, x.va)

/-- An entry replayed: performed, held again, or lost (R209, R248). A replay that finds its access refused is lost in the
same way (DEDUCED, log entry 16). none where the credits of a reduction are short (R307). -/
def replaySide (s : State) (c : Ctx) (e : SideEntry) : Option State :=
  let bad (t : State) (cause va : Nat) : Option State :=
    some (dropSide t c.id.core e (mkTrap e.seq cause 0 (if cause = 0x12 then 0 else BitVec.ofNat 64 va)))
  let gs := e.spans.flatMap fun p => granules (p.2 / 4096 + 2) p.1 p.2
  let u := touch s e.agent .write gs
  match checkGranules s e.agent .write gs with
  | .fault i =>
    let r := queueFault u i (.side c.id.core e.id) false
    some (modCore r.1 c.id.core fun k =>
      { k with side := k.side.map fun x => if x.id = e.id then { x with fault := some r.2 } else x })
  | .fill _ | .held => none
  | .trap cause va => bad u cause va
  | .ok segs =>
    match (e.reds.head?.bind fun r => hostRedBad s r.1 segs) with
    | some x => bad { u with freeCtr := u.freeCtr + 1 } 0x0B x.va
    | none =>
      match egressFails s e.agent.polder segs with
      | some f => bad f.1 f.2.1 f.2.2
      | none =>
        if e.reds ≠ [] && (segs.head?.bind fun x => takeCredits s e.agent.polder x.pa).isNone then none
        else some (performSide s c e segs)

/-- R248. -/
def execSideLogReplay (core k : Nat) (s : State) : Answer :=
  match (getCore s core).side.find? fun e => e.id == k with
  | none => notNow s
  | some e =>
    match getCtx s { core := core, slot := e.slot } with
    | none => notNow s
    | some c =>
      if !sideReady s core e then notNow s
      else
        match replaySide s c e with
        | some t => .next t
        | none => notNow s

/-! SYS.FLTRES (R247) -/

/-- The translation trap of an abandoned access. -/
def abandonTrap (q : Seqr) (r : FaultRef) (stage2 : Bool) : TrapReq :=
  { mkTrap q 0x0A r.kind.toNat r.va with viaReeve := stage2 }

/-- A context's own accesses that the given entry holds: what q is held on, in how many handlers, and its age. -/
def heldOn (c : Ctx) (q : Seqr) (e : Nat) : List (FaultRef × Nat × Nat) :=
  let g (h : Option Hold) (n age : Nat) : List (FaultRef × Nat × Nat) :=
    match h with
    | some (.fault r) => if r.entry = some e then [(r, n, age)] else []
    | _ => []
  g (c.seq q).hold c.frames.length (c.seq q).age
    ++ (List.range c.frames.length).flatMap fun i =>
      ((c.frames.getD i { seq := q, reeve := false, preempt := false, image := 0, lines := 0, asid := 0, saves := []
                          trec := 0, taddr := 0 }).saves.filter fun v => v.seq == q).flatMap fun v =>
        g v.hold (c.frames.length - 1 - i) v.age

def onEntry (e : Nat) : Hold → Bool
  | .fault r => r.entry == some e
  | _ => false

/-- The waits of the accesses that the entry holds are given back (R73). -/
def unwait (e : Nat) (q : Seqr) (c : Ctx) : Ctx :=
  let x := c.seq q
  (if x.hold.any (onEntry e) then restoreWait q c else c).withdrawSaves q fun v => v.hold.any (onEntry e)

/-- A held access abandoned: a precise translation trap (R247). -/
def abandonSeq (s : State) (id : CtxId) (q : Seqr) (e : Nat) (stage2 : Bool) : State :=
  match getCtx s id with
  | none => s
  | some c =>
    (heldOn c q e).foldl (fun t x => raiseTrap t id { abandonTrap q x.1 stage2 with depth := x.2.1, age := x.2.2 })
      (modCtx s id (unwait e q))

/-- A held transfer abandoned: its trap is imprecise, and it counts as complete (R247). -/
def abandonXfer (s : State) (id : CtxId) (n : Nat) (stage2 : Bool) : State :=
  match (getCtx s id).bind fun c => getXfer c n with
  | none => s
  | some x =>
    match x.fault with
    | none => s
    | some r =>
      let t := raiseLater (xferDrop s id x) id
        { xferReq s id x 0x0A r.va with detail := r.kind.setWidth 8, viaReeve := stage2 }
      match x.kind with
      | .wld w => slotFree t id w.ws
      | _ => t

/-- An entry's address in the page of a fault: the one that it waits for; else its first by identifier for stage 1, through
stage 1 for stage 2. -/
def SideEntry.onPage (s : State) (f : FaultEntry) (e : SideEntry) : Option Nat :=
  let i := f.info
  if e.fault.any fun r => r.entry == some f.id then e.fault.map fun r => r.va.toNat
  else ((e.spans.flatMap fun p => granules (p.2 / 4096 + 2) p.1 p.2).find? fun g =>
    if i.stage2 then
      asidPolder s e.agent.asid == i.polder
        && (match stage1 s e.agent.die e.agent.asid true g.1 with | .ok t => pageOf t.gpa == i.page | .error _ => false)
    else e.agent.asid == i.asid && pageOf g.1 == i.page).map Prod.fst

/-- Side-log entries abandoned, those of a core or of a saved context. -/
def abandonSaved (f : FaultEntry) (s : State) (v : Saved) : Saved :=
  (v.side.filter fun e => (e.onPage s f).isSome).foldl (fun v e =>
    let r : FaultRef := { entry := none, va := BitVec.ofNat 64 ((e.onPage s f).getD 0), kind := f.info.kind }
    let o := (v.ctx.seq e.seq).ops.find? fun o => o.kind == .side e.id
    let t := { abandonTrap e.seq r f.info.stage2 with
      imprec := true, depth := (o.map fun o => o.depth).getD 0, age := (o.map fun o => o.age).getD 0 }
    { v with
      side := v.side.filter fun x => x.id != e.id
      ctx := { v.ctx.modSeq e.seq (fun x => { x with ops := x.ops.map fun o => if o.kind = .side e.id then o.drop else o }) with
               pending := v.ctx.pending ++ [t] } }) v

/-- Each side-log entry of the page is discarded, whatever it waits for (R247). -/
def abandonSides (s : State) (f : FaultEntry) : State :=
  let t := (List.range s.cores.length).foldl (fun t core =>
    ((getCore s core).side).foldl (fun u e =>
      match e.onPage s f with
      | some va => dropSide u core e (abandonTrap e.seq { entry := none, va := BitVec.ofNat 64 va, kind := f.info.kind }
          f.info.stage2)
      | none => u) t) s
  { t with saved := t.saved.map (abandonSaved f s) }

/-- The accesses of a saved context that the entry holds walk again after its restore, or are abandoned (R247, R266). -/
def resolveSaved (e : Nat) (stage2 abandon : Bool) (v : Saved) : Saved :=
  let qs := [Seqr.X, .L, .C, .S]
  let ts := qs.flatMap fun q => (heldOn v.ctx q e).map fun x => { abandonTrap q x.1 stage2 with depth := x.2.1, age := x.2.2 }
  let c := if abandon then qs.foldl (fun c q => unwait e q c) v.ctx else qs.foldl (fun c q => c.freeHold q (onEntry e)) v.ctx
  let mine (x : Transfer) : Bool := x.fault.any fun r => r.entry == some e
  let xs := v.ctx.xfers.filter mine
  if abandon then
    let cut (n : Nat) (o : Op) : Op := if o.ofXfer n then o.drop else o
    let c := xs.foldl (fun c x => c.modSeq x.seq fun y => { y with ops := y.ops.map (cut x.id) })
      { c with xfers := c.xfers.filter fun x => !mine x }.settleSlots
    let late := xs.filterMap fun x => x.fault.map fun r =>
      let o := (v.ctx.seq x.seq).ops.find? (Op.ofXfer x.id)
      { abandonTrap x.seq r stage2 with
        imprec := true, depth := (o.map fun o => o.depth).getD 0, age := (o.map fun o => o.age).getD 0 }
    { v with ctx := { c with pending := c.pending ++ ts ++ late } }
  else { v with ctx := { c with xfers := c.xfers.map fun x => if mine x then { x with fault := none } else x } }

/-- One attached access of a resolved entry. -/
def resolveWaiter (e : Nat) (stage2 abandon : Bool) (s : State) (w : Waiter) : State :=
  match w with
  | .seq id q => if abandon then abandonSeq s id q e stage2 else modCtx s id fun c => c.freeHold q (onEntry e)
  | .xfer id n => if abandon then abandonXfer s id n stage2 else modXfer s id n fun x => { x with fault := none }
  | .side _ _ =>
    if abandon then s
    else setHeld s w { entry := some e, va := 0, kind := 0 } none
  | .fill p q g =>
    match findLaunch s p q with
    | none => s
    | some l =>
      match l.renames.find? fun r => r.granule == g with
      | none => s
      | some r =>
        if abandon then fillZeros s l r 0x0A
        else fillBuffer (modRename s p q g fun r => { r with fill := .unfilled }) l { r with fill := .unfilled }
  | .commit p q =>
    match findLaunch s p q with
    | none => s
    | some l =>
      let s1 := modLaunch s p q fun l => { l with commitFault := none }
      match l.commitFault with
      | some r => if abandon then discardPage s1 l (r.va.toNat / 65536) 0x0A else s1
      | none => s1
  | .host => s

/-- The outstanding entry of a token, as a writer names it. -/
def fltresEntry (s : State) (c : Ctx) (stage2 : Bool) (token : BitVec 8) : Option FaultEntry :=
  if stage2 && c.effPriv != .reeve || (!stage2 && polderAbsent s (regPolder s c)) then none
  else s.faults.find? fun e =>
    e.info.stage2 == stage2 && e.token == token && (stage2 || e.info.polder == regPolder s c)

/-- SYS.FLTRES: every access attached to the entry walks again or is abandoned; a token that names no outstanding entry
is ignored. -/
def writeFltres (s : State) (c : Ctx) (stage2 abandon : Bool) (token : BitVec 8) : State :=
  match fltresEntry s c stage2 token with
  | none => s
  | some e =>
    let s1 := { s with faults := s.faults.filter fun x => x.id != e.id }
    let s2 := { s1 with saved := s1.saved.map (resolveSaved e.id stage2 abandon) }
    let s3 := e.waiters.foldl (resolveWaiter e.id stage2 abandon) s2
    if abandon then abandonSides s3 e else s3

/-- R247. -/
def execFltresRetry (id : CtxId) (s2 : Bool) (token : BitVec 8) (s : State) : Answer :=
  match getCtx s id with
  | none => notNow s
  | some c => .next (writeFltres s c s2 false token)

/-- R247. -/
def execFltresAbandon (id : CtxId) (s2 : Bool) (token : BitVec 8) (s : State) : Answer :=
  match getCtx s id with
  | none => notNow s
  | some c => .next (writeFltres s c s2 true token)

/-! Registers that read a log (R133, R174, R246, R279, R303) -/

/-- SYS.FLTQ and SYS.FLTQ2. -/
def fltqWord (e : FaultEntry) : Word :=
  (1#1 ++ BitVec.ofBool e.waiting ++ e.info.kind ++ e.info.acc ++ e.info.level ++ e.info.asid ++ e.token
    ++ e.info.polder ++ 0#33).cast (by decide)

/-- A read of a fault queue: its oldest entry leaves it and latches its address. -/
def readFltq (s : State) (c : Ctx) (stage2 : Bool) : State × Word :=
  let mine (e : FaultEntry) : Bool :=
    e.queued && e.info.stage2 == stage2
      && (stage2 || (e.info.polder == regPolder s c && !polderAbsent s (regPolder s c)))
  match s.faults.find? mine with
  | none => (s, 0)
  | some e =>
    (modCtx { s with faults := s.faults.map fun x => if x.id = e.id then { x with queued := false } else x } c.id
      fun c => { c with fltaddr := BitVec.ofNat 64 e.info.page }, fltqWord e)

/-- A read of SYS.SUBLOG. -/
def readSublog (s : State) (c : Ctx) : State × Word :=
  let p := regPolder s c
  let r := (getPolder s p).sublog.pop
  if polderAbsent s p then (s, 0)
  else (modPolder s p fun d => { d with sublog := r.2.2 }, r.1)

/-- A read of SYS.PARKLOG latches SYS.PARKINFO. -/
def readParklog (s : State) (c : Ctx) : State × Word :=
  let p := regPolder s c
  let r := (getPolder s p).parklog.pop
  if polderAbsent s p then (s, 0)
  else (modPolder s p fun d => { d with parklog := r.2.2, parkinfo := r.2.1.getD d.parkinfo }, r.1)

def readAudlog (s : State) : State × Word :=
  let r := s.audlog.pop
  ({ s with audlog := r.2.2 }, r.1)

def readFablog (s : State) : State × Word :=
  let r := s.fablog.pop
  ({ s with fablog := r.2.2 }, r.1)

/-- What a read of a register returns is written to s[d] of the reader. -/
def readInto (s : State) (q : SeqId) (d : SReg) (f : State → Ctx → State × Word) : Answer :=
  match getCtx s (ctxOf q) with
  | none => notNow s
  | some c =>
    let r := f s c
    .next (modCtx r.1 c.id fun c => c.wS q.seq d r.2)

/-- R246. -/
def execFltqRead (q : SeqId) (d : SReg) (s : State) : Answer := readInto s q d fun s c => readFltq s c false
/-- R246. -/
def execFltq2Read (q : SeqId) (d : SReg) (s : State) : Answer := readInto s q d fun s c => readFltq s c true
/-- R133. -/
def execSublogRead (q : SeqId) (d : SReg) (s : State) : Answer := readInto s q d readSublog
/-- R174. -/
def execParklogRead (q : SeqId) (d : SReg) (s : State) : Answer := readInto s q d readParklog
/-- R279. -/
def execAudlogRead (q : SeqId) (d : SReg) (s : State) : Answer := readInto s q d fun s _ => readAudlog s
/-- R303. -/
def execFablogRead (q : SeqId) (d : SReg) (s : State) : Answer := readInto s q d fun s _ => readFablog s

end Sys2Proof.Machine
end

