-- ==== Sys2Proof/Machine/Pages.lean ====
section
/-! DEFINITION. The heat sweeper, the scrubber and the clean pools, and the pages that stewards map and unmap (R132,
R237, R238, R242, R243, R250, R251). -/

namespace Sys2Proof.Machine

/-! Fades (R242, R243) -/

/-- The entries of a table at a physical address that may hold something. -/
def tableEntries (s : State) (t : Nat) : List Nat :=
  let listed := (s.mem.filter fun c => t ≤ c.1 && c.1 < t + 65536).map fun c => c.1 / 8 * 8
  let marked := (s.marks.filter fun m => t ≤ 64 * m.1 && 64 * m.1 < t + 65536).flatMap fun m =>
    (List.range 8).map fun i => 64 * m.1 + 8 * i
  (listed ++ marked).eraseDups

/-- A heat field faded. -/
def fadeField (f : BitVec 2) : BitVec 2 := if f = 0 then 0 else f - 1

/-- Both heat fields of a leaf faded; a leaf that keeps its value is not written, nor one that is poisoned. -/
def fadeLeaf (s : State) (d key ea : Nat) : State :=
  let e := (readPte s key ea).raw
  let f := (e &&& ~~~ (0xF#64 <<< 6)) ||| ((fadeField (e.extractLsb' 6 2)).setWidth 64 <<< 6)
    ||| ((fadeField (e.extractLsb' 8 2)).setWidth 64 <<< 8)
  if f = e || poisoned s ea 8 then s else physWrite s d key ea (leBytes f.toNat 8)

/-- A stage-2 tree below a table. -/
def fade2 (d : Nat) : Nat → Nat → State → State
  | 0, _, s => s
  | l + 1, t, s =>
    (tableEntries s t).foldl (fun u ea =>
      let e := readPte u 0 ea
      if e.type = 0 || e.malformed true (l + 1) then u
      else if e.type = 1 then fadeLeaf u d 0 ea
      else if isHbm u e.oa then fade2 d l e.oa u
      else u) s

/-- A stage-1 tree below a table, which is found through the polder's stage 2. -/
def fade1 (d : Nat) (p : BitVec 4) : Nat → Nat → State → State
  | 0, _, s => s
  | l + 1, gt, s =>
    match stage2 s d p false gt with
    | .error _ => s
    | .ok r =>
      if !isHbm s r.pa then s
      else
        (tableEntries s r.pa).foldl (fun u ea =>
          let e := readPte u r.key ea
          if e.type = 0 || e.malformed false (l + 1) then u
          else if e.type = 1 then fadeLeaf u d r.key ea
          else fade1 d p l e.oa u) s

/-- The trees of a die's sweeper: identifiers and polders by their number modulo 4. -/
def fadeAll (s : State) (d : Nat) : State :=
  let s1 := (List.range 512).foldl (fun t n =>
    let e := getAsid t (BitVec.ofNat 9 n)
    if n % 4 = d && e.valid then fade1 d e.polder 3 (e.root.toNat * 65536) t else t) s
  (List.range 16).foldl (fun t n =>
    let q := getPolder t (BitVec.ofNat 4 n)
    if n % 4 = d && q.s2en && isHbm t (q.s2root.toNat * 65536) then fade2 d 3 (q.s2root.toNat * 65536) t else t) s1

/-- A sweep of the die is due: periods are counted from cycle 0 (DESIGN CHOICE, log entry 17). -/
def sweepDue (s : State) (d : Nat) : Bool :=
  let x := getDie s d
  x.sweepEn && x.sweepPeriod != 0 && s.cycle % (1024 * x.sweepPeriod) == 0

/-- R243: a sweep starts, or is late. -/
def execSweep (die : BitVec 2) (s : State) : Answer :=
  let d := die.toNat
  if sweepDue s d then
    .next (modDie s d fun x => if x.sweepBusy then { x with sweepLate := true, sweepOwed := true } else { x with sweepBusy := true })
  else notNow s

/-- R243: the running sweep ends; the one that was late starts. A sweep waits for pages that a SCOPY holds (R376). -/
def execSweepComplete (die : BitVec 2) (s : State) : Answer :=
  let d := die.toNat
  if (getDie s d).sweepBusy && heldPages s == [] then
    .next (modDie (fadeAll s d) d fun x =>
      { x with sweepBusy := x.sweepOwed && x.sweepEn && x.sweepPeriod != 0, sweepOwed := false })
  else notNow s

/-- SYS.SWEEP. -/
def sweepWord (s : State) (d : Nat) : Word :=
  let x := getDie s d
  (BitVec.ofBool x.sweepEn ++ BitVec.ofBool x.sweepLate ++ BitVec.ofBool x.sweepBusy ++ 0#29
    ++ BitVec.ofNat 32 x.sweepPeriod).cast (by decide)

def writeSweep (s : State) (d : Nat) (v : Word) : State :=
  modDie s d fun x =>
    { x with sweepEn := v.getLsbD 63, sweepLate := x.sweepLate && !v.getLsbD 62, sweepPeriod := (v.extractLsb' 0 32).toNat }

/-! The scrubber (R250) -/

/-- A page overwritten with zeros, each line marked zero-filled and no longer poisoned. -/
def zeroPage (s : State) (a : Nat) : State :=
  let mine (ln : Nat) : Bool := a / 64 ≤ ln && ln < a / 64 + 1024
  { s with
    mem := s.mem.filter fun c => !(a ≤ c.1 && c.1 < a + 65536)
    marks := (s.marks.filter fun m => !mine m.1) ++ (List.range 1024).map fun i => (a / 64 + i, .zeroFilled)
    poison := s.poison.filter fun ln => !mine ln }

/-- The die's scrubber can go on: its oldest page is not held by a SCOPY (R376). -/
def scrubDue (s : State) (d : Nat) : Bool := (getDie s d).scrub.head?.any fun a => !pageHeld s a

/-- R250: the oldest queued page is zeroed; a page of a vault is free again, another joins the clean pool. -/
def execScrubPage (die : BitVec 2) (s : State) : Answer :=
  let d := die.toNat
  match (getDie s d).scrub with
  | [] => notNow s
  | a :: l =>
    let keep := !inVault s a
    if pageHeld s a then notNow s
    else .next (modDie (zeroPage s a) d fun x => { x with scrub := l, clean := if keep then x.clean ++ [a] else x.clean })

/-- A page joins the scrub queue of the die that it lies on; anything but HBM is no page of a die. -/
def scrubPage (s : State) (a : Nat) : State :=
  match physKind a with
  | .hbm d => if (getDie s d).present then modDie s d fun x => { x with scrub := x.scrub ++ [a] } else s
  | _ => s

/-- R250. -/
def execPgfree (v : Word) (s : State) : Answer := .next (scrubPage s ((v.extractLsb' 16 36).toNat * 65536))

/-- SYS.SCRUB. -/
def scrubWord (s : State) (d : Nat) : Word :=
  BitVec.ofNat 64 ((getDie s d).clean.length % 2 ^ 32 * 2 ^ 32 + (getDie s d).scrub.length % 2 ^ 32)

/-! Cached translations removed (R241, R249, R390) -/

/-- TLB and walk-cache entries removed from the whole device. -/
def dropCached (s : State) (f : TlbEntry → Bool) (g : WalkEntry → Bool) : State :=
  { s with
    cores := s.cores.map fun k => { k with tlb := k.tlb.filter fun e => !f e }
    dies := s.dies.map fun d => { d with tlb2 := d.tlb2.filter fun e => !f e, walks := d.walks.filter fun e => !g e } }

/-- The bytes from lo up to hi meet n bytes from a. -/
def meets (lo hi a n : Nat) : Bool := a < hi && lo < a + n

/-- The same for the low 55 bits of virtual addresses, whose upper half stands at the top of the address space (R232). -/
def meetsVirt (lo hi a n : Nat) : Bool :=
  (a < 2 ^ 54 && meets lo hi a n) || (2 ^ 54 < a + n && meets lo hi (a + 2 ^ 64 - 2 ^ 55) n)

/-- The first input of a walk-cache entry. -/
def WalkEntry.first (e : WalkEntry) : Nat := e.input * levelSize e.level

/-- Stage 1 of an identifier, for the bytes from lo up to hi of its virtual addresses; its walk-cache entries go with
them. -/
def dropStage1 (s : State) (a : BitVec 9) (lo hi : Nat) : State :=
  dropCached s (fun e => e.asid == a && meetsVirt lo hi e.va e.size) fun e =>
    !e.stage2 && e.space == a.toNat && meetsVirt lo hi e.first (levelSize e.level)

/-- Stage 2 of a polder, for the bytes from lo up to hi of its guest-physical addresses. The entries that its stage-1 walks
left in the walk caches go whole: the all form removes every one, and a range may remove more than it names (R249). -/
def dropStage2 (s : State) (p : BitVec 4) (lo hi : Nat) : State :=
  dropCached s (fun e => e.polder == p && meets lo hi e.gpa e.size) fun e =>
    e.polder == p && (!e.stage2 || meets lo hi e.first (levelSize e.level))

/-- An access that has been translated is still to be performed: an element of a reduction that waits for credits, or the
bytes of an accepted SCOPY (R249, condition 3). -/
def translatedWait (s : State) : Bool :=
  s.ctxs.any fun c =>
    ([Seqr.X, .L, .C, .S].any fun q => (c.seq q).ops.any fun o => match o.kind with | .credit .. => true | _ => false)
      || c.xfers.any fun x => match x.kind with | .scopy _ _ _ _ _ _ key _ _ => key.isSome | _ => false

/-! PGMAP and PGUNMAP (R251) -/

/-- Where a guest-physical page's level-1 entry stands, if the polder has a table for it; a larger leaf maps the page. -/
inductive Level1 where
  | none | mapped | entry (ea : Nat)
  deriving DecidableEq, Repr

def level1From (s : State) (gpa : Nat) : Nat → Nat → Level1
  | 0, _ => .none
  | l + 1, t =>
    let ea := t + 8 * tableIndex gpa (l + 1)
    if l = 0 then .entry ea
    else
      let e := readPte s 0 ea
      if e.type = 0 || e.malformed true (l + 1) then .none
      else if e.type = 1 then .mapped
      else if isHbm s e.oa then level1From s gpa l e.oa
      else .none

def level1 (s : State) (p : BitVec 4) (gpa : Nat) : Level1 :=
  let q := getPolder s p
  if q.s2en && isHbm s (q.s2root.toNat * 65536) then level1From s gpa 3 (q.s2root.toNat * 65536) else .none

/-- A table on the way to a page's level-1 entry, or the entry's own, lies in a page that a SCOPY holds (R376). -/
def level1HeldFrom (s : State) (gpa : Nat) : Nat → Nat → Bool
  | 0, _ => false
  | l + 1, t =>
    let ea := t + 8 * tableIndex gpa (l + 1)
    let e := readPte s 0 ea
    pageHeld s ea || (l != 0 && e.type != 0 && e.type != 1 && !e.malformed true (l + 1) && isHbm s e.oa && level1HeldFrom s gpa l e.oa)

def level1Held (s : State) (p : BitVec 4) (gpa : Nat) : Bool :=
  let q := getPolder s p
  q.s2en && isHbm s (q.s2root.toNat * 65536) && level1HeldFrom s gpa 3 (q.s2root.toNat * 65536)

def setLast (s : State) (p : BitVec 4) (n : BitVec 3) : State := modPolder s p fun d => { d with pgLast := n }

/-- A stage-2 level-1 leaf with RD, W and X. -/
def pgLeaf (key : BitVec 5) (page : Nat) : Nat := page + key.toNat * 2 ^ 11 + 0x1D

/-- The page taken from the die and mapped; the caller has found the entry and a clean page. -/
def takePage (s : State) (p : BitVec 4) (gpa d ea : Nat) : State :=
  match (getDie s d).clean with
  | [] => s
  | a :: l =>
    let s1 := modDie s d fun x => { x with clean := l }
    let s2 := physWrite s1 4 0 ea (leBytes (pgLeaf (getPolder s p).pgKey a) 8)
    modPolder s2 p fun q => { q with pgPages := gpa :: q.pgPages, pgLast := 0, pgPend := none }

/-- USED: pages mapped by PGMAP and not unmapped. -/
def Polder.pgUsed (q : Polder) : BitVec 32 := BitVec.ofNat 32 q.pgPages.length

/-- One PGMAP: its page's die and guest-physical page. The order of its tests is the model's (DESIGN CHOICE, log entry
18). While a SCOPY holds a table of the page it stays pending (R251, R376). -/
def mapPage (s : State) (p : BitVec 4) (gpa d : Nat) : State :=
  let fail (n : BitVec 3) : State := modPolder s p fun q => { q with pgLast := n, pgPend := none }
  if !(getDie s d).present then fail 5
  else if level1Held s p gpa then modPolder s p fun q => { q with pgPend := some (gpa, d) }
  else
    match level1 s p gpa with
    | .none => fail 3
    | .mapped => fail 2
    | .entry ea =>
      if (readPte s 0 ea).type ≠ 0 then fail 2
      else if (getPolder s p).pgQuota.toNat ≤ (getPolder s p).pgUsed.toNat then fail 1
      else if (getDie s d).clean = [] then modPolder s p fun q => { q with pgPend := some (gpa, d) }
      else takePage s p gpa d ea

def writePgmap (s : State) (p : BitVec 4) (v : Word) : State :=
  if (getPolder s p).pgPend.isSome then setLast s p 6
  else mapPage s p ((v.extractLsb' 16 36).toNat * 65536) (v.extractLsb' 0 2).toNat

/-- R251. -/
def execPgmap (p : BitVec 4) (v : Word) (s : State) : Answer := .next (writePgmap s p v)

/-- A PGMAP that waits can go on. -/
def pageReady (s : State) (p : BitVec 4) : Option (Nat × Nat) :=
  match (getPolder s p).pgPend with
  | none => none
  | some (g, d) => if (getPolder (mapPage s p g d) p).pgPend.isNone then some (g, d) else none

/-- R251. -/
def execPgmapPageTaken (p : BitVec 4) (s : State) : Answer :=
  match pageReady s p with
  | none => notNow s
  | some (g, d) => .next (mapPage s p g d)

/-- The page that a PGUNMAP would unmap. -/
def unmapLeaf (s : State) (p : BitVec 4) (v : Word) : Option (Nat × Pte) :=
  match level1 s p ((v.extractLsb' 16 36).toNat * 65536) with
  | .entry ea => let e := readPte s 0 ea; if e.type = 1 then some (ea, e) else none
  | _ => none

/-- A PGUNMAP waits for a page or table that a SCOPY holds, and for accesses that used its translation (R249, R301). -/
def unmapWaits (s : State) (p : BitVec 4) (v : Word) : Bool :=
  level1Held s p ((v.extractLsb' 16 36).toNat * 65536) || (unmapLeaf s p v).any fun x => pageHeld s x.2.oa || translatedWait s

/-- The leaf is cleared and its translations removed, watchpoints over the page are looked at again, and the page joins the
scrub queue (R132, R249, R251). -/
def writePgunmap (s : State) (p : BitVec 4) (v : Word) : State :=
  let gpa := (v.extractLsb' 16 36).toNat * 65536
  match unmapLeaf s p v with
  | none => setLast s p 4
  | some (ea, e) =>
    let s1 := recheckWatches (dropStage2 (physWrite s 4 0 ea (leBytes 0 8)) p gpa (gpa + 65536))
    scrubPage (modPolder s1 p fun q => { q with pgLast := 0, pgPages := q.pgPages.filter (· != gpa) }) e.oa

/-- R132, R251. -/
def execPgunmap (p : BitVec 4) (v : Word) (s : State) : Answer :=
  if unmapWaits s p v then .next (stall s (.pgunmap p v)) else .next (writePgunmap s p v)

/-- SYS.PGSTAT. -/
def pgstatWord (s : State) (p : BitVec 4) : Word :=
  let q := getPolder s p
  (BitVec.ofBool q.pgPend.isSome ++ q.pgLast ++ 0#28 ++ q.pgUsed).cast (by decide)

end Sys2Proof.Machine
end

