-- ==== Sys2Proof/Machine/Vaults.lean ====
section
/-! DEFINITION. The code vault and the weight vault: admission and withdrawal of images, loads of tensor versions and
their shards, burgees, manifest keys and the size of a vault (R158 to R160, R183 to R187, R201, R250, R302, R305, R312,
R382). -/

namespace Sys2Proof.Machine

/-! Vault space (R201) -/

/-- Pages of a die's vault that are allocated or wait for scrubbing, as spans of page offsets. -/
def vaultBusy (s : State) (d : Nat) : List (Nat × Nat) :=
  (getDie s d).vaultUse
    ++ ((getDie s d).scrub.filter fun a => inVault s a).map fun a => ((a - vaultBase s d) / 65536, 1)

def vaultPages (s : State) (d : Nat) : Nat := (getDie s d).vaultSize * 8192

/-- FREE of SYS.VAULTCFG. -/
def vaultFree (s : State) (d : Nat) : Nat := vaultPages s d - (vaultBusy s d).foldl (fun n u => n + u.2) 0

def spanFree (busy : List (Nat × Nat)) (page n : Nat) : Bool :=
  busy.all fun u => page + n ≤ u.1 || u.1 + u.2 ≤ page

/-- The lowest free run of n pages (DESIGN CHOICE, log entry 19): it starts at page 0 or where a busy span ends. -/
def vaultFit (s : State) (d n : Nat) : Option Nat :=
  let busy := vaultBusy s d
  ((0 :: busy.map fun u => u.1 + u.2).filter fun p => p + n ≤ vaultPages s d && spanFree busy p n).foldl
    (fun m p => match m with | none => some p | some q => some (Nat.min p q)) none

def takeVault (s : State) (d page n : Nat) : State := modDie s d fun x => { x with vaultUse := x.vaultUse ++ [(page, n)] }

/-- SYS.VAULTCFG. -/
def vaultcfgWord (s : State) (d : Nat) : Word :=
  BitVec.ofNat 64 (vaultFree s d % 2 ^ 32 * 2 ^ 16 + (getDie s d).vaultSize % 256)

/-- Lines that enter or leave a vault: what was stored encrypted is read unencrypted, or the other way round, so every byte
of them is unpredictable until it is written (R202, R298). -/
def remarkLines (s : State) (lo hi : Nat) : State :=
  let ls := ((s.mem.filter fun c => lo ≤ c.1 && c.1 < hi).map fun c => lineOf c.1)
    ++ (s.marks.filter fun m => lo ≤ 64 * m.1 && 64 * m.1 < hi && m.2 != .zeroFilled).map Prod.fst
  let old := (ls.filter fun ln => alGet s.marks ln != some .zeroFilled).eraseDups
  { s with marks := old.foldl (fun m ln => alSet m ln (.key 0 s.nextGen)) s.marks, nextGen := s.nextGen + 1 }

/-- A write of SIZE: ignored above 176, or while something lies in the vault. -/
def writeVaultcfg (s : State) (d n : Nat) : State :=
  if 176 < n || vaultBusy s d != [] then s
  else
    let t := modDie s d fun x => { x with vaultSize := n }
    remarkLines t (min (vaultBase s d) (vaultBase t d)) (max (vaultBase s d) (vaultBase t d))

/-- R201. -/
def execVaultcfgSize (die : BitVec 2) (v : BitVec 8) (s : State) : Answer := .next (writeVaultcfg s die.toNat v.toNat)

/-! Admission (R158, R159) -/

/-- Bytes read for an admission in the writer's address space. -/
def admitRead (s : State) (g : Agent) (a : Word) (n : Nat) : Option (State × List Byte) :=
  if n = 0 then some (s, [])
  else
    match checkAccess s g .read a.toNat n 1 with
    | .ok segs => if segs.any Seg.fabric || segsPoisoned s segs then none else some (noteAccess s g .read segs, segsRead s segs)
    | _ => none

def admitWindows (g : Agent) : List Window → State → Option (State × List (List Byte))
  | [], s => some (s, [])
  | w :: l, s =>
    match admitRead s g (BitVec.ofNat 64 w.base) (4 * w.words) with
    | none => none
    | some (t, b) => (admitWindows g l t).map fun r => (r.1, b :: r.2)

/-- A page that an admission reads is held by a SCOPY (R301). -/
def admitHeld (s : State) (g : Agent) (a : Word) : Bool :=
  waits s g .read a.toNat 256 ||
    match admitRead s g a 256 with
    | none => false
    | some (_, r) =>
      let x := parseRecord r
      waits s g .read x.image.toNat 64 || x.windows.any (fun w => w.words != 0 && waits s g .read w.base (4 * w.words))
        || match (admitRead s g x.image 64).bind fun h => headerFields h.2 with
          | some (len, _) => waits s g .read x.image.toNat (64 * len)
          | none => false

/-- Every window that a record binds is the entry's (R158). -/
def windowsMatch (x : LaunchRec) (have_ ws : List (List Byte)) : Bool :=
  (List.range 8).all fun w => (x.windows.getD w { base := 0, words := 0 }).words == 0 || have_.getD w [] == ws.getD w []

/-- The dies that started. -/
def presentDies (s : State) : List Nat := (List.range 4).filter fun d => (getDie s d).present

/-- An image put into every vault. -/
def storeImage (s : State) (h : BitVec 128) (img : List Byte) (ws : List (List Byte)) (carve : Nat) : Option State :=
  let data := img ++ ws.flatten
  let n := (data.length + 65535) / 65536
  let fits := (List.range 4).map fun d => if (getDie s d).present then vaultFit s d n else none
  if (presentDies s).any (fun d => (fits.getD d none).isNone) || 256 ≤ (s.images.filter fun v => !v.withdrawn).length then none
  else
    let s1 := (presentDies s).foldl (fun t d =>
      let p := (fits.getD d none).getD 0
      takeVault (rawWrite t (vaultBase s d + 65536 * p) data) d p n) s
    some { s1 with
      images := s1.images ++
        [{ id := s.nextImage, hash := h, bytes := img, windows := ws, carve := carve
           places := (List.range 4).map fun d => ((fits.getD d none).getD 0, if (getDie s d).present then n else 0)
           withdrawn := false }]
      nextImage := s.nextImage + 1 }

/-- An admission of the record at an address: the state and its status, 3 for a window before 1 for the hash (R158; DESIGN
CHOICE, log entry 95). -/
def admitImage (s : State) (g : Agent) (a : Word) : State × Nat :=
  if a.toNat % 256 ≠ 0 then (s, 4)
  else
    match admitRead s g a 256 with
    | none => (s, 3)
    | some (s1, r) =>
      if !recordWellFormed r then (s1, 4)
      else
        let x := parseRecord r
        match admitRead s1 g x.image 64 with
        | none => (s1, 3)
        | some (s2, hd) =>
          match headerFields hd with
          | none => (s2, 4)
          | some (len, _) =>
            match admitRead s2 g x.image (64 * len) with
            | none => (s2, 3)
            | some (s3, img) =>
              if (checkImageBytes img).isNone then (s3, 4)
              else
                match admitWindows g x.windows s3 with
                | none => (s3, 3)
                | some (s4, ws) =>
                  let h := leNat (shake256 (img.drop 64) 16)
                  if h ≠ natAt hd 28 16 || h ≠ x.key.hash.toNat then (s4, 1)
                  else
                    match admitted s4 x.key.hash with
                    | some v => (s4, if windowsMatch x v.windows ws then 0 else 5)
                    | none =>
                      match storeImage s4 x.key.hash img ws x.carve with
                      | some s5 => (s5, 0)
                      | none => (s4, 2)

/-- A write of SYS.CVADMIT. -/
def writeCvadmit (s : State) (id : CtxId) (asid : BitVec 9) (v : Word) : State :=
  if s.cvBusy.isSome then { s with cvStatus := 6 } else { s with cvBusy := some (v, id, asid) }

/-- R158, R159. -/
def execCvadmit (id : CtxId) (v : Word) (s : State) : Answer :=
  match getCtx s id with
  | none => notNow s
  | some c => .next (writeCvadmit s id (agentOf s c).asid v)

/-- An admission is under way and none of its pages is held. -/
def admissionDue (s : State) : Bool :=
  s.cvBusy.any fun x => !admitHeld s (devAgent x.2.2 (asidPolder s x.2.2)) x.1

/-- R158: the admission ends with its status, in place of a 6 that a write left meanwhile (DESIGN CHOICE, log entry 95). -/
def execCodeVaultAdmissionEnd (s : State) : Answer :=
  match s.cvBusy with
  | none => notNow s
  | some (v, _, asid) =>
    let r := admitImage s (devAgent asid (asidPolder s asid)) v
    if admissionDue s then .next { r.1 with cvBusy := none, cvStatus := BitVec.ofNat 8 r.2 } else notNow s

/-- SYS.CVSTAT. -/
def cvstatWord (s : State) : Word :=
  BitVec.ofNat 64 ((if s.cvBusy.isSome then 2 ^ 17 else 0) + (s.images.filter fun v => !v.withdrawn).length % 512 * 256
    + s.cvStatus.toNat)

/-- A write of SYS.CVWD1 (R160). -/
def writeCvwd1 (s : State) (v : Word) : State :=
  let h : BitVec 128 := v ++ s.cvwd0
  retireImages { s with images := s.images.map fun x => if x.hash = h then { x with withdrawn := true } else x }

/-- R160. -/
def execCvwd1 (v : Word) (s : State) : Answer := .next (writeCvwd1 s v)

/-! Packets of the load engine and the weir (R302, R305) -/

/-- One packet out of a port: dropped and logged if polder 0's tag may not pass. -/
def sendPort (s : State) (port dest : Nat) (m : OutMsg) : State :=
  let tag := (getPolder s 0).ptag
  if s.fabDown.contains port then s
  else if tagAllowed s port tag then { s with outbox := s.outbox ++ [m] }
  else logDrop s false port tag dest

/-- A shard to a multicast group, or by unicast. -/
def sendShard (s : State) (mc : Bool) (dest n : Nat) (bs : List Byte) : State :=
  if !fabIdValid s then s
  else
    let p : Packet :=
      { type := 7, ptag := (getPolder s 0).ptag, flits := (bs.length + 63) / 64, mc := mc, dest := BitVec.ofNat 16 dest
        src := fabIdOf s, rtag := 0, addr := BitVec.ofNat 64 n, size := bs.length, op := 0, data := bs }
    if mc then
      ((List.range 12).filter fun k => (routeMask s (1024 + dest)).getLsbD k).foldl (fun t k => sendPort t k dest (.packet k p)) s
    else
      match routePort s dest with
      | some k => sendPort s k dest (.packet k p)
      | none => s

/-- A shard request to the load's source (R185). -/
def askShard (s : State) (dest : BitVec 16) (n size : Nat) : State :=
  if !fabIdValid s then s
  else
    match routePort s dest.toNat with
    | none => s
    | some k =>
      sendPort s k dest.toNat (.packet k
        { type := 8, ptag := (getPolder s 0).ptag, flits := 0, mc := false, dest := dest, src := fabIdOf s
          rtag := 0, addr := BitVec.ofNat 64 n, size := size, op := 0, data := [] })

/-! Loads (R183 to R186) -/

/-- A physical span that the device itself may read: one kind of memory, present, its levee open, not poisoned. -/
def physOk (s : State) (a n : Nat) : Bool :=
  physKind a == physKind (a + n - 1) && populated s a && leveeOpen s a && !poisoned s a n
    && (match physKind a with | .fabric | .none => false | _ => true)

/-- A version changed its state: a burgee is due within 1 µs (R187). -/
def burgeeSoon (s : State) : State := { s with burgeeDue := Nat.min s.burgeeDue (s.cycle + 1800) }

/-- The manifest of a load. -/
def parseManifest (s : State) (a : Nat) : Option (List Byte × Nat × Nat) :=
  if !physOk s a 24 then none
  else
    let h := physRead s 0 a 24
    let n := natAt h 16 4
    let size := natAt h 20 4
    let len := 24 + 32 * n + 1 + 114
    if n = 0 ∨ 65536 < n ∨ size = 0 ∨ size % 4096 ≠ 0 ∨ 2 ^ 24 < size ∨ natAt h 14 2 = 0 ∨ !physOk s a len then none
    else some (physRead s 0 a len, n, size)

/-- The signature of a manifest verifies under the key that it names (R185, R312). -/
def manifestSigned (s : State) (m : List Byte) (n : Nat) : Bool :=
  let k := 24 + 32 * n
  match alGet s.mkeys (natAt m k 1) with
  | none => false
  | some pk => Config.ed448Verifies pk (m.take (k + 1)) (bytesAt m (k + 1) 114)

/-- The home die of a version of n pages: room beside a commons core, most free space, lower number (R183). -/
def homeDie (s : State) (n : Nat) : Option (Nat × Nat) :=
  ((presentDies s).filterMap fun d => if dieCommons s d then (vaultFit s d n).map fun p => (d, p) else none).foldl
    (fun m x =>
      match m with
      | none => some x
      | some y => if vaultFree s y.1 < vaultFree s x.1 then some x else some y) none

/-- SYS.VLSTAT names a state in the order of R183. -/
def setVlstat (s : State) (n failed : Nat) : State :=
  { s with vlStatus := BitVec.ofNat 2 n, vlFailed := BitVec.ofNat 16 failed }

/-- A version that could not be loaded, with no page. -/
def unavailable (s : State) (model : BitVec 96) (tensor version : BitVec 16) : State :=
  let v : Version :=
    { model := model, tensor := tensor, version := version, state := .unavailable, home := 0, page := 0, pages := 0
      bytes := 0, pin := false }
  burgeeSoon (setVlstat { s with versions := s.versions.filter (fun x => !sameVersion x model tensor version) ++ [v] } 3 0)

def setVersion (s : State) (l : Load) (f : Version → Version) : State :=
  { s with versions := s.versions.map fun v => if sameVersion v l.model l.tensor l.version then f v else v }

/-- The fourth failure of a shard: the version is UNAVAILABLE and its pages are scrubbed. -/
def failLoad (s : State) (l : Load) : State :=
  let s1 :=
    match s.versions.find? fun v => sameVersion v l.model l.tensor l.version with
    | some v => scrubVault s v.home v.page v.pages
    | none => s
  let s2 := setVersion { s1 with load := s1.load.map fun x => { x with active := false } } l fun v =>
    { v with state := .unavailable, pages := 0 }
  burgeeSoon (setVlstat s2 3 1)

/-- Every shard has passed: the version is CURRENT, its predecessor RETIRING. -/
def endLoad (s : State) (l : Load) : State :=
  let s1 := { s with
    load := s.load.map fun x => { x with active := false }
    versions := s.versions.map fun v =>
      if sameVersion v l.model l.tensor l.version then { v with state := .current }
      else if v.model = l.model ∧ v.tensor = l.tensor ∧ v.state = .current then { v with state := .retiring }
      else v }
  retireVersions (burgeeSoon (setVlstat s1 1 0))

/-- A shard that passed is written to the version's pages. -/
def putShard (s : State) (l : Load) (n : Nat) (bs : List Byte) : State :=
  match s.versions.find? fun v => sameVersion v l.model l.tensor l.version with
  | none => s
  | some v =>
    let s1 := rawWrite s (vaultBase s v.home + 65536 * v.page + n * l.size) bs
    let l1 := { l with got := l.got.set n true }
    let s2 := { s1 with load := some l1 }
    if l1.got.all id then endLoad s2 l1 else s2

def shardOk (l : Load) (n : Nat) (bs : List Byte) : Bool := bs.length == l.size && shake256 bs 32 == l.digests.getD n []

/-- A shard failed its digest or did not come: it is asked for again, up to three times. -/
def shardFailed (s : State) (l : Load) (n : Nat) : State :=
  let k := l.tries.getD n 0 + 1
  if 4 ≤ k then failLoad s l
  else
    askShard { s with load := some { l with tries := l.tries.set n k, asked := l.asked.set n s.cycle } } l.origin n l.size

/-- The source device reads, multicasts and keeps every shard; a shard that fails its digest, read again, fails again. -/
def sourceShards (src : Nat) (l : Load) : List Nat → State → State
  | [], s => s
  | n :: rest, s =>
    match s.load with
    | none => s
    | some m =>
      let bs := physRead s 0 (src + n * l.size) l.size
      let s1 := sendShard s true l.group n bs
      if !physOk s (src + n * l.size) l.size || !shardOk m n bs then failLoad s1 m
      else sourceShards src l rest (putShard s1 m n bs)

/-- The spans of memory that a write of SYS.VLOAD reads: descriptor, manifest, and the source's shards. -/
def loadSpans (s : State) (a : Nat) : List (Nat × Nat) :=
  let b := physRead s 0 a 64
  let man := natAt b 0 8
  let h := physRead s 0 man 24
  let n := natAt h 16 4
  let src := natAt b 8 8
  if !physOk s a 64 then []
  else (a, 64) :: (man, 24 + 32 * n + 115) :: if src = 0 then [] else [(src, n * natAt h 20 4)]

/-- A write of SYS.VLOAD waits for a page that a SCOPY holds (R376). -/
def vloadWaits (s : State) (v : Word) : Bool :=
  !(s.load.map fun l => l.active).getD false && (loadSpans s v.toNat).any fun x => spanHeld s x.1 x.2

/-- A load starts (R183, R184, R185). A descriptor that R184 does not allow, and a second load of a version that is
loaded, start nothing (DESIGN CHOICE, log entry 20). -/
def writeVload (s : State) (v : Word) : State :=
  let a := v.toNat
  if (s.load.map fun l => l.active).getD false || !physOk s a 64 then s
  else
    let b := physRead s 0 a 64
    let man := natAt b 0 8
    let timeout := natAt b 20 4
    if man % 256 ≠ 0 ∨ timeout = 0 ∨ 1000000 < timeout ∨ 2 ≤ natAt b 24 1 ∨ natAt b 25 39 ≠ 0 then s
    else
      match parseManifest s man with
      | none => setVlstat s 3 0
      | some (m, n, size) =>
        let model := BitVec.ofNat 96 (natAt m 0 12)
        let tensor := BitVec.ofNat 16 (natAt m 12 2)
        let version := BitVec.ofNat 16 (natAt m 14 2)
        let pages := (n * size + 65535) / 65536
        if s.versions.any fun x => sameVersion x model tensor version && x.state != .unavailable then s
        else if !manifestSigned s m n || 4096 ≤ (s.versions.filter fun x => x.state != .unavailable).length then
          unavailable s model tensor version
        else
          match homeDie s pages with
          | none => unavailable s model tensor version
          | some (d, p) =>
            let ver : Version :=
              { model := model, tensor := tensor, version := version, state := .loading, home := d, page := p
                pages := pages, bytes := n * size, pin := natAt b 24 1 = 1 }
            let src := natAt b 8 8
            let l : Load :=
              { model := model, tensor := tensor, version := version, source := src, origin := Config.shardSource s.freeCtr
                group := natAt b 16 4 % 256, shards := n, size := size
                digests := (List.range n).map fun i => bytesAt m (24 + 32 * i) 32
                got := List.replicate n false, tries := List.replicate n 0, timeout := 1800 * timeout
                asked := List.replicate n s.cycle, active := true }
            let s1 := burgeeSoon (setVlstat (takeVault { s with
              freeCtr := s.freeCtr + 1
              versions := s.versions.filter (fun x => !sameVersion x model tensor version) ++ [ver], load := some l } d p
              pages) 0 0)
            if src = 0 then s1 else sourceShards src l (List.range n) s1

/-- R183 to R185. -/
def execVload (v : Word) (s : State) : Answer := .next (if vloadWaits s v then stall s (.vload v) else writeVload s v)

/-- SYS.VLSTAT. -/
def vlstatWord (s : State) : Word := BitVec.ofNat 64 (s.vlFailed.toNat * 65536 + s.vlStatus.toNat)

/-- R185: TIMEOUT has passed without the shard. -/
def execShardTimeout (n : Nat) (s : State) : Answer :=
  match s.load with
  | none => notNow s
  | some l =>
    if l.active && n < l.shards && !l.got.getD n true && l.asked.getD n 0 + l.timeout ≤ s.cycle then
      .next (shardFailed s l n)
    else notNow s

/-! Burgees (R187, R382) -/

/-- The versions that a burgee lists. -/
def listed (s : State) : List Version := s.versions.filter fun v => v.state == .current || v.state == .retiring

def burgeeEntry (v : Version) : List Byte := leBytes v.model.toNat 12 ++ leBytes v.tensor.toNat 2 ++ leBytes v.version.toNat 2

/-- Bit e set for each RETIRING version. -/
def retiredMask : List Version → Nat
  | [] => 0
  | v :: l => (if v.state == .retiring then 1 else 0) + 2 * retiredMask l

def burgeeHeader (s : State) (seq : Word) (part total : Nat) (vs : List Version) : List Byte :=
  leBytes 0x42475231 4 ++ leBytes (fabIdOf s).toNat 8 ++ leBytes seq.toNat 8 ++ leBytes part 2 ++ leBytes total 2
    ++ leBytes vs.length 1 ++ leBytes (retiredMask vs) 8 ++ leBytes 0 31

/-- Parts of at most n. -/
def partsOf (n : Nat) (l : List Version) : List (List Version) :=
  (List.range (Nat.max 1 ((l.length + n - 1) / n))).map fun i => (l.drop (n * i)).take n

/-- The entry flits of a burgee: four entries each, unused ones zero (R187). -/
def entryFlits (vs : List Version) : List (List Byte) :=
  (List.range ((vs.length + 3) / 4)).map fun i =>
    let b := ((vs.drop (4 * i)).take 4).flatMap burgeeEntry
    b ++ List.replicate (64 - b.length) 0

/-- The burgees of the vault sent to the pod router. None is sent, and no number used, while no port reaches it. -/
def sendBurgees (s : State) : State :=
  let parts := partsOf 60 (listed s)
  let e := s.burgeeDst.toNat
  let s1 :=
    match (if fabIdValid s then (routePort s e).filter (fun k => !s.fabDown.contains k) else none) with
    | none => s
    | some port =>
      let t := ((List.range parts.length).zip parts).foldl (fun t (x : Nat × List Version) =>
        sendPort t port e (.burgee port (burgeeHeader s (s.burgeeSeq + BitVec.ofNat 64 x.1) x.1 parts.length x.2)
          (entryFlits x.2))) s
      { t with burgeeSeq := s.burgeeSeq + BitVec.ofNat 64 parts.length }
  { s1 with burgeeDue := s.cycle + 1800000 }

/-- R187: a burgee may be sent at any time, once its destination is set. -/
def execBurgeeSend (s : State) : Answer :=
  if s.burgeeDst = 0 then notNow s else .next (sendBurgees s)

/-- A write of SYS.BURGEEDST. -/
def writeBurgeedst (s : State) (v : Word) : State :=
  let t := { s with burgeeDst := v }
  if s.burgeeDst = 0 ∧ v ≠ 0 then burgeeSoon t else t

/-- R382. -/
def execBurgeedst (v : Word) (s : State) : Answer := .next (writeBurgeedst s v)

/-! Manifest keys (R312) -/

/-- A write of SYS.MKEY. -/
def writeMkey (s : State) (v : Word) : State :=
  let a := v.toNat
  let b := physRead s 0 a 64
  let k := natAt b 0 1
  if !physOk s a 64 || 7 < k || natAt b 58 6 != 0 then { s with mkeyStatus := 2 }
  else if (alGet s.mkeys k).isSome then { s with mkeyStatus := 1 }
  else { s with mkeys := s.mkeys ++ [(k, bytesAt b 1 57)], mkeyStatus := 0 }

/-- R312. -/
def execMkey (v : Word) (s : State) : Answer := .next (if spanHeld s v.toNat 64 then stall s (.mkey v) else writeMkey s v)

/-- SYS.MKEYSTAT. -/
def mkeystatWord (s : State) : Word :=
  BitVec.ofNat 64 (s.mkeyStatus.toNat * 256
    + ((List.range 8).filter fun k => (alGet s.mkeys k).isSome).foldl (fun n k => n + 2 ^ k) 0)

end Sys2Proof.Machine
end

