-- ==== Sys2Proof/Machine/Pool.lean ====
section
/-! DEFINITION. The pool: levees, lost ports and breaches, what is in flight when a region breaches, the control words, and
back-invalidation snoops (R204, R205, R207 to R210, R228, R230, R281, R434). -/

namespace Sys2Proof.Machine

def modRegion (s : State) (n : Nat) (f : Region → Region) : State :=
  { s with regions := alSet s.regions n (f (getRegion s n)) }

/-- The region that a line of the pool window belongs to. -/
def lineRegion (ln : Nat) : Option Nat := match physKind (64 * ln) with | .pool n => some n | _ => none

def inRegion (n ln : Nat) : Bool := lineRegion ln == some n

/-- Dirty lines of a region in the RDCs. -/
def dirtyLines (s : State) (n : Nat) : List RdcLine := (s.dies.flatMap fun d => d.rdc).filter fun x => inRegion n x.addr

/-- Every line of a region leaves the RDCs. -/
def dropLines (s : State) (n : Nat) : State :=
  { s with dies := s.dies.map fun d =>
      { d with rdc := d.rdc.filter fun x => !inRegion n x.addr, rdcClean := d.rdcClean.filter fun l => !inRegion n l } }

/-! What is in flight (R209, R230, R434) -/

/-- The pieces that a block transfer has still to move. -/
def leftPieces (x : Transfer) : List Piece :=
  match x.kind with
  | .block _ base pitch rows bytes pad _ _ => (blockPieces base pitch rows bytes pad).drop x.progress
  | _ => []

def xferLoads (x : Transfer) : Bool := match x.kind with | .block load .. => load | _ => true

/-- The pieces of some granules that an agent reaches in the region. -/
def granulesIn (s : State) (n : Nat) (g : Agent) (acc : Acc) (gs : List (Nat × Nat)) : List Seg :=
  match checkGranules s g acc gs with
  | .ok segs => segs.filter fun y => physKind y.pa == .pool n
  | _ => []

/-- The virtual address at which a span of an access meets the region. -/
def spanIn (s : State) (n : Nat) (g : Agent) (acc : Acc) (a len : Nat) : Option Nat :=
  ((granulesIn s n g acc (granules (len / 4096 + 2) a len)).head?).map fun y => y.va

/-- The address at which what a transfer has still to move meets the region. Rows of the sluice are checked as each is
moved (R209). -/
def xferMeets (s : State) (n : Nat) (x : Transfer) : Option Nat :=
  let t := letClosing s x
  match x.kind with
  | .block load .. => (leftPieces x).findSome? fun p => spanIn t n x.agent (xacc load) p.va p.len
  | .wld w => spanIn t n x.agent .xferRead w.addr.toNat (tileBytes w.wf w.form)
  | _ => none

/-- A row of the sluice that a transfer moves lies in the region. -/
def rowMeets (s : State) (n : Nat) (c : Ctx) (x : Transfer) : Bool :=
  let t := letClosing s x
  let b := c.neutral.filter fun b => !isReplay s b
  match x.kind with
  | .rows gather b0 k off bytes _ _ =>
    (List.range k).any fun i =>
      (b.bind fun b => rowOf s b (b0 + i)).any fun (o, m) =>
        m.parked.isNone && (spanIn t n (memberAgent m c.id.core) (xacc gather) (rowVa m gather o.2 off) bytes).isSome
  | .adp m pitch off rows bytes _ _ =>
    (b.bind fun b => memberOf s b m).any fun y =>
      y.parked.isNone && y.aslot != 0 && (List.range rows).any fun i =>
        (spanIn t n (memberAgent y c.id.core) .xferRead (y.adpBase + BitVec.ofNat 64 (off + i * pitch)).toNat bytes).isSome
  | _ => false

/-- The aligned 16-byte pieces of a piece. -/
def sixteenths (p : Piece) : List Piece :=
  (List.range (p.len / 16)).map fun i => { p with x := p.x + 16 * i, va := p.va + 16 * i, len := 16 }

/-- Pieces moved before the breach: any subset of what was left (a free value). -/
def movedPieces (cid : CtxId) (x : Transfer) (d : SpDesc) (ch : Chunk) : Nat → List Piece → State → State
  | _, [], s => s
  | i, p :: l, s =>
    let t :=
      if Config.pieceMoved s.freeCtr i then
        match checkPages (letClosing s x) x.agent (xacc (xferLoads x)) p.va p.len with
        | .ok segs =>
          if segs.any Seg.fabric || segsPoisoned s segs then s
          else (movePiece s cid x.seq none x.agent (xferLoads x) d ch [] p segs).1
        | _ => s
      else s
    movedPieces cid x d ch (i + 1) l t

/-- A transfer stopped by the breach, at the address at which it met the region. -/
def stopXfer (s : State) (cid : CtxId) (x : Transfer) (va : Nat) : State :=
  match x.kind with
  | .block _ _ _ _ _ _ d ch =>
    let s1 := movedPieces cid x d ch 0 ((leftPieces x).flatMap sixteenths) s
    xferLate { s1 with freeCtr := s1.freeCtr + 1 } cid x 0x0D (BitVec.ofNat 64 va)
  | .wld w => slotFree (xferLate s cid x 0x0D (BitVec.ofNat 64 va)) cid w.ws
  | _ => s

/-- The transfers of the device's contexts that the breach stops. -/
def stopXfers (s : State) (n : Nat) : State :=
  s.ctxs.foldl (fun t c =>
    c.xfers.foldl (fun u x => match xferMeets s n x with | some va => stopXfer u c.id x va | none => u) t) s

/-- An imprecise trap of a saved context. -/
def Ctx.later (c : Ctx) (t : TrapReq) : Ctx := { c with pending := c.pending ++ [{ t with imprec := true }] }

/-- The transfers of a saved context, all held, that the breach stops. -/
def stopSaved (s : State) (n : Nat) (c : Ctx) : Ctx :=
  c.xfers.foldl (fun c x =>
    match xferMeets s n x with
    | none => c
    | some va =>
      let o := (c.seq x.seq).ops.find? (Op.ofXfer x.id)
      let c := c.modSeq x.seq fun y => { y with ops := y.ops.map fun (o : Op) => if o.ofXfer x.id then o.drop else o }
      ({ c with xfers := c.xfers.filter fun y => y.id != x.id }).later
        { mkTrap x.seq 0x0D 0 (BitVec.ofNat 64 va) with
          depth := (o.map Op.depth).getD 0, age := (o.map Op.age).getD 0, prompt := true }) c |>.settleSlots

/-! Writes that are lost (R209) -/

/-- The oldest of the writes of each sequencer. -/
def oldestWriters (ws : List Writer) : List Writer :=
  ws.foldl (fun l w =>
    let mine (v : Writer) : Bool := v.task == w.task && v.seq == w.seq
    if l.any fun v => mine v && v.age ≤ w.age then l else l.filter (fun v => !mine v) ++ [w]) []

/-- The same among the writes of some lines. -/
def lostWriters (ls : List RdcLine) : List Writer := oldestWriters (ls.flatMap fun y => y.writers)

/-- An element of a reduction that lies in the region. -/
def RedElem.inPool (n : Nat) (e : RedElem) : Bool := physKind e.seg.pa == .pool n

/-- The elements in the region of issued reductions that wait for credits: who writes them (R209, R307). -/
def Op.poolElems (n : Nat) (o : Op) : List Writer :=
  match o.kind with
  | .credit g rest _ _ => (rest.filter (RedElem.inPool n)).filterMap fun e =>
      g.who.map fun w => { w with va := BitVec.ofNat 64 e.seg.va }
  | _ => []

/-- The reduction without them. -/
def Op.loseElems (n : Nat) (o : Op) : Op :=
  match o.kind with
  | .credit g rest tags sys => { o with kind := redKind tags g (rest.filter fun e => !e.inPool n) sys }
  | _ => o

def Ctx.poolElems (n : Nat) (c : Ctx) : List Writer := fourSeqs.flatMap fun q => (c.seq q).ops.flatMap (Op.poolElems n)

def Ctx.loseElems (n : Nat) (c : Ctx) : Ctx :=
  fourSeqs.foldl (fun c q => c.modSeq q fun x => { x with ops := x.ops.map (Op.loseElems n) }) c

/-- Every saved context's reductions without their elements in the region. -/
def dropSaved (s : State) (n : Nat) : State :=
  { s with saved := s.saved.map fun v => { v with ctx := v.ctx.loseElems n } }

/-- Every reduction without its elements in the region. -/
def dropElems (s : State) (n : Nat) : State := { dropSaved s n with ctxs := s.ctxs.map (Ctx.loseElems n) }

/-- Those elements' writers. -/
def savedElems (s : State) (n : Nat) : List Writer := s.saved.flatMap fun v => v.ctx.poolElems n
def liveElems (s : State) (n : Nat) : List Writer := s.ctxs.flatMap fun c => c.poolElems n

/-- The trap of a lost write: one for each sequencer, at its oldest lost write (DESIGN CHOICE, log entry 55). -/
def Writer.trap (w : Writer) : TrapReq := { mkTrap w.seq 0x0D 0 w.va with depth := w.depth, age := w.age }

/-- A write that the memory device had not acknowledged is lost: its context traps imprecisely, a saved one after its
restore. -/
def loseWrite (s : State) (w : Writer) : State :=
  match s.ctxs.find? fun c => c.task == some w.task with
  | some c => raiseLater s c.id w.trap
  | none => { s with saved := s.saved.map fun v => if v.ctx.task = some w.task then { v with ctx := v.ctx.later w.trap } else v }

/-! Releases that are abandoned (R230) -/

/-- A TKPOST or FENCE at pool scope or wider that waits under R228. -/
def Op.poolFence (o : Op) : Bool :=
  !o.done && (match o.kind with | .release sc | .fence sc => 5 ≤ scopeRank sc | _ => false)

/-- A release at pool scope or wider that waits under R228: such an instruction, or an instruction's post. -/
def Op.poolRelease (o : Op) : Bool := o.poolFence || (o.post != 0 && 5 ≤ scopeRank o.scope)

/-- The same after it is abandoned: no post; a trap that its own instruction raises stays. -/
def Op.abandon (o : Op) : Op := if o.poolFence then o.drop else if o.poolRelease then { o with post := 0 } else o

def abandonReq (q : Seqr) (depth age : Nat) : TrapReq :=
  { mkTrap q 0x0D 0 0 with aband := true, depth := depth, age := age }

/-- The instruction at which q stands waits as a release at pool scope or wider: it issues without its write and without
its post, so that its trap resumes behind it. -/
def abandonWaiting (s : State) (id : CtxId) (q : Seqr) : State :=
  match getCtx s id with
  | none => s
  | some c =>
    let x := c.seq q
    match x.relWait, x.line with
    | some sc, some l =>
      if scopeRank sc < 5 then s
      else
        let h := (Raw.ofWord (slotWord l x.pc.slot)).h
        raiseLater (finish s id q { h with pq := 0 } .plain Exc.none none none) id (abandonReq q c.frames.length (c.ageAt q))
    | _, _ => s

/-- The releases of a sequencer that wait are abandoned. -/
def abandonReleases (s : State) (id : CtxId) (q : Seqr) : State :=
  match getCtx s id with
  | none => s
  | some c =>
    let hit := (c.seq q).ops.filter Op.poolRelease
    abandonWaiting
      (hit.foldl (fun t o => raiseLater t id (abandonReq q o.depth o.age))
        (modSeq s id q fun x => { x with ops := x.ops.map Op.abandon })) id q

/-- Releases in a side log wait for their replay, and with it for R228: they are abandoned. -/
def abandonLogged (s : State) : State :=
  (List.range s.cores.length).foldl (fun t core =>
    ((getCore s core).side.filter fun e => e.rel && 5 ≤ scopeRank e.scope).foldl (fun u e =>
      dropSide u core e { mkTrap e.seq 0x0D 0 0 with aband := true }) t) s

/-- The releases of a saved context and of its side log. -/
def abandonSavedCtx (s : State) (v : Saved) : Saved :=
  let t := fourSeqs.foldl (fun t q => abandonReleases t v.ctx.id q) { s with ctxs := [v.ctx] }
  let c := (getCtx t v.ctx.id).getD v.ctx
  let hit (e : SideEntry) : Bool := e.rel && 5 ≤ scopeRank e.scope
  { v with
    side := v.side.filter fun e => !hit e
    ctx := (v.side.filter hit).foldl (fun c e =>
      let mine (o : Op) : Bool := o.kind == .side e.id
      let o := (c.seq e.seq).ops.find? mine
      (c.modSeq e.seq fun x => { x with ops := x.ops.map fun o => if mine o then o.drop else o }).later
        (abandonReq e.seq ((o.map Op.depth).getD 0) ((o.map Op.age).getD 0))) c }

/-- Every release that waits for a lost write is abandoned. -/
def abandonAll (s : State) : State :=
  let t := abandonLogged (s.ctxs.foldl (fun t c => fourSeqs.foldl (fun u q => abandonReleases u c.id q) t) s)
  { t with saved := t.saved.map (abandonSavedCtx t) }

/-- A region breaches with a cause (R208, R209): transfers stop, lines and waiting elements of reductions go, and the writes
lost with them raise their traps. -/
def breachRegion (s : State) (n : Nat) (cause : BitVec 3) : State :=
  let s1 := stopXfers s n
  let s2 := { s1 with saved := s1.saved.map fun v => { v with ctx := stopSaved s n v.ctx } }
  let dirty := dirtyLines s2 n
  let elems := liveElems s n ++ savedElems s n
  let s3 := (oldestWriters ((dirty.flatMap fun y => y.writers) ++ elems)).foldl loseWrite (dropElems s2 n)
  let s4 := if dirty = [] ∧ elems = [] then s3 else abandonAll s3
  modRegion (dropLines s4 n) n fun r =>
    { r with levee := .breached, cause := cause, dropped := Nat.min dirty.length 16383 }

/-- Regions that a lost port breaches. -/
def regionsOn (s : State) (port : BitVec 2) : List Nat :=
  (s.regions.filter fun r => r.2.port == port && r.2.levee != .breached).map Prod.fst

def portBits (s : State) (port : BitVec 2) : BitVec 4 := s.ports.getD port.toNat 0

def setPort (s : State) (port : BitVec 2) (b : BitVec 4) : State := { s with ports := s.ports.set port.toNat b }

/-- The loss of a port: its regions breach; counted and reported (R208, R210). -/
def losePort (s : State) (port : BitVec 2) (cause : BitVec 3) : State :=
  let rs := regionsOn s port
  rs.foldl (fun t n => reportReeve (optisLog (breachRegion t n cause) 1 n) 1 n)
    { s with breaches := s.breaches + BitVec.ofNat 16 rs.length }

/-- R208: the link leaves the active state and fails to retrain. -/
def execPoolLinkDown (port : BitVec 2) (s : State) : Answer :=
  if (portBits s port).getLsbD 0 then .next (losePort (setPort s port 0) port 1)
  else notNow s

/-- R208. -/
def execPoolCompletionTimeout (port : BitVec 2) (s : State) : Answer :=
  if (portBits s port).getLsbD 0 then .next (losePort s port 3) else notNow s

/-- R208. -/
def execPoolIdeLoss (port : BitVec 2) (s : State) : Answer :=
  if (portBits s port).getLsbD 1 then .next (losePort (setPort s port (portBits s port &&& 0b1101)) port 4)
  else notNow s

/-- R208. -/
def execViralIndication (port : BitVec 2) (s : State) : Answer :=
  if (portBits s port).getLsbD 0 then .next (losePort s port 2) else notNow s

/-- R208, R210: the link is active and IDE established on it. -/
def execPoolLinkActive (port : BitVec 2) (narrow slow : Bool) (s : State) : Answer :=
  .next (setPort s port (BitVec.ofBool slow ++ BitVec.ofBool narrow ++ 0b11#2))

/-! Levees (R207, R208) -/

def portUp (s : State) (port : BitVec 2) : Bool := (portBits s port).getLsbD 0 && (portBits s port).getLsbD 1

/-- A write of CLOSING. -/
def closeLevee (s : State) (n : Nat) : State :=
  let r := getRegion s n
  if r.levee = .opened then modRegion s n fun r => { r with levee := .closing } else s

/-- A write of OPEN, whatever VALID says: an access to a region that is not VALID is refused all the same. -/
def openLevee (s : State) (n : Nat) : State :=
  let r := getRegion s n
  if r.levee == .breached && portUp s r.port then modRegion s n fun r => { r with levee := .opened } else s

/-- The reeve's write of VALID 0, from any state. -/
def detachRegion (s : State) (n : Nat) : State := modRegion (breachRegion s n 5) n fun r => { r with valid := false }

/-- R208. -/
def execLeveeClosing (n : BitVec 14) (s : State) : Answer := .next (closeLevee s n.toNat)
/-- R208. -/
def execLeveeOpen (n : BitVec 14) (s : State) : Answer := .next (openLevee s n.toNat)
/-- R208. -/
def execRegionDetach (n : BitVec 14) (s : State) : Answer := .next (detachRegion s n.toNat)

/-- A closing region whose accesses in flight have completed: the transfers that started before it closed and have still
to move bytes of it, and the elements of issued reductions that wait for credits. Those of a saved context are not in flight
(DESIGN CHOICE, log entry 55). -/
def closeReady (s : State) (n : Nat) : Bool :=
  (getRegion s n).levee == .closing
    && liveElems s n == []
    && s.ctxs.all fun c => c.xfers.all fun x => x.closing.contains n || ((xferMeets s n x).isNone && !rowMeets s n c x)

/-- R208: dirty lines are written back, every line is invalidated, and the region is BREACHED in order. The elements of a
saved context's reductions are lost (R209). -/
def execLeveeCloseComplete (n : BitVec 14) (s : State) : Answer :=
  if closeReady s n.toNat then
    let s1 := (oldestWriters (savedElems s n.toNat)).foldl loseWrite (dropSaved ((dirtyLines s n.toNat).foldl rdcFlushLine s) n.toNat)
    .next (modRegion (dropLines s1 n.toNat) n.toNat fun r =>
      { r with levee := .breached, cause := 0, dropped := 0 })
  else notNow s

/-! SYS.PRCTL and SYS.POOLSTAT (R207, R210) -/

def leveeCode : Levee → BitVec 2
  | .opened => 0 | .closing => 1 | .breached => 2

def prctlWord (s : State) (n : Nat) : Word :=
  let r := getRegion s n
  (BitVec.ofBool r.valid ++ leveeCode r.levee ++ r.port ++ r.owner ++ r.cause ++ r.hpa
    ++ BitVec.ofNat 14 r.dropped ++ 0#16).cast (by decide)

/-- The LEVEE field of a write. -/
def writeLevee (s : State) (n : Nat) (f : BitVec 2) : State :=
  if f = 0 then openLevee s n else if f = 1 then closeLevee s n else s

/-- A write of SYS.PRCTL; a steward's reaches LEVEE alone. -/
def writePrctl (s : State) (reeve : Bool) (n : Nat) (v : Word) : State :=
  let f := v.extractLsb' 61 2
  if !reeve then writeLevee s n f
  else
    let r := getRegion s n
    let free := !r.valid || r.levee == .breached
    let s1 := modRegion s n fun r =>
      { r with
        owner := v.extractLsb' 55 4
        port := if free then v.extractLsb' 59 2 else r.port
        hpa := if free then v.extractLsb' 30 22 else r.hpa }
    if v.getLsbD 63 then writeLevee (modRegion s1 n fun r => { r with valid := true }) n f
    else detachRegion s1 n

def poolstatWord (s : State) : Word :=
  (s.breaches ++ 0#32 ++ portBits s 3 ++ portBits s 2 ++ portBits s 1 ++ portBits s 0).cast (by decide)

/-! Snoops (R204, R205) -/

/-- The device's lines that a pool memory address names, of those that some RDC holds: one for each region that reaches it.
addr is the port in bits 53:52 and the address in the CXL fabric below. -/
def snoopLines (s : State) (addr : Nat) : List Nat :=
  let held := (s.dies.flatMap fun d => d.rdc.map fun x => x.addr) ++ s.dies.flatMap fun d => d.rdcClean
  (held.filter fun ln => poolAddr s (64 * ln) / 64 == addr / 64).eraseDups

/-- Every RDC copy of a line gone, a dirty one written back first. -/
def invalidateLine (s : State) (ln : Nat) : State :=
  let t := writeBackLine s (64 * ln)
  { t with dies := t.dies.map fun d => { d with rdcClean := d.rdcClean.filter (· != ln) } }

/-- R205 for one line: copies are invalidated or downgraded, and dirty data goes back with the answer; a line that no RDC
holds, as none of a breached region, is answered with BIRspI. Another device that the memory device then grants the line
writes its bytes there (DESIGN CHOICE, log entry 56). -/
def answerSnoop (s : State) (k : SnoopKind) (addr : Nat) (new : Option Line) : State :=
  let ls := snoopLines s addr
  let dirty := ls.filterMap (rdcFind s)
  let s1 := ls.foldl (fun t ln => if k = .inv then invalidateLine t ln else writeBackLine t (64 * ln)) s
  let s2 := { s1 with outbox := s1.outbox ++ [.biResponse addr (k != .inv && ls != []) ((dirty.getLast?).map fun x => x.data)] }
  match new with
  | some l => if k = .inv then { s2 with pool := cellsWrite s2.pool (addr / 64 * 64) (leBytes l.toNat 64) } else s2
  | none => s2

/-- R205: each line that the snoop names. -/
def execBackInvalidationSnoop (k : Snoop) (addr : Nat) (s : State) : Answer :=
  .next ((List.range k.lines).foldl (fun t i => answerSnoop t k.kind (addr / 64 * 64 + 64 * i) k.written[i]?) s)

end Sys2Proof.Machine
end

