-- ==== Sys2Proof/Machine/Preempt.lean ====
section
/-! DEFINITION. Pre-emption: requests, cooperative and forced saves, restores, and the partition swap (R84, R179, R260 to
R269). -/

namespace Sys2Proof.Machine

/-! Saves (R263 to R266) -/

/-- A hold as a save keeps it: one on an outstanding entry stays attached, the others re-execute, as does every TSUB (R264,
R266, R399). -/
def savedHold : Option Hold → Option Hold
  | some (.fault r) => if r.entry.isSome && !r.sub then some (.fault r) else none
  | some (.fill r) => some (.fill r)
  | _ => none

def Seq.halt (x : Seq) : Seq := { x with hold := savedHold x.hold, fab := [], rtags := [] }
def SeqSave.halt (v : SeqSave) : SeqSave := { v with hold := savedHold v.hold, fab := [], rtags := [] }

/-- A transfer as a save keeps it. Forced: it re-executes whole. -/
def Transfer.halt (forced : Bool) (x : Transfer) : Transfer :=
  { x with progress := if forced then 0 else x.progress, fab := [], rtags := []
           fault := x.fault.bind fun r => if r.entry.isSome then some r else none }

/-- The context as either save keeps it. -/
def Ctx.halt (forced : Bool) (c : Ctx) : Ctx :=
  { c with
    x := c.x.halt, l := c.l.halt, c := c.c.halt, s := c.s.halt, preempt := none
    frames := c.frames.map fun f => { f with saves := f.saves.map SeqSave.halt }
    refab := [], retags := [], xfers := c.xfers.map (Transfer.halt forced) }

/-- The units that the four PSDONEs name. -/
def psUnits (c : Ctx) : Nat :=
  [Seqr.X, .L, .C, .S].foldl (fun n q => match (c.seq q).run with | .psdone k => Nat.max n k | _ => n) 0

/-- What a cooperative save discards: the units from k up, whose bytes are open after the restore, and both staging slots
(R263). -/
def Ctx.discard (k ctr : Nat) (c : Ctx) : Ctx :=
  let from_ := 65536 * k
  let open_ := ((List.range (65536 * c.units - from_)).map fun i => (from_ + i, Config.discardedByte ctr (from_ + i))).filter
    fun x => x.2 != 0
  { c with
    scratch := c.scratch.filter (fun x => x.1 < from_) ++ open_
    origin := c.origin.filter fun o => 16 * o.1 < from_
    spoison := c.spoison.filter fun l => 16 * l < from_
    slots := c.slots.map fun y => { StageSlot.empty with filling := y.filling } }

/-- The attached accesses of a context leave the entries while it is saved. -/
def detachWaits (s : State) (id : CtxId) : State :=
  let keep (w : Waiter) : Bool :=
    match w with
    | .seq i _ => i != id
    | .xfer i _ => i != id
    | _ => true
  { s with
    faults := s.faults.map fun e => { e with waiters := e.waiters.filter keep }
    roomWait := s.roomWait.filter fun e => keep e.2
    heldSubs := s.heldSubs.filter fun h => h.ctx != id
    fabReqs := s.fabReqs.filter fun r => r.ctx != id || !r.isRead }

/-- The save area of a context slot (R265). -/
def saveArea (s : State) (c : Ctx) : Nat :=
  (getPolder s c.polder).saveBase.toNat * 65536 + (4 * c.id.core + c.id.slot) * Config.saveBytes

/-- The area is written in a layout that is not architectural: its bytes are open until each is next written (log entry
28). -/
def writeArea (s : State) (a : Nat) : State :=
  let here (ln : Nat) : Bool := a ≤ 64 * ln && 64 * ln < a + Config.saveBytes
  { s with
    areas := (a, s.freeCtr) :: s.areas.filter fun e => e.1 != a
    marks := s.marks.filter fun m => !here m.1
    poison := s.poison.filter fun ln => !here ln
    freeCtr := s.freeCtr + 1 }

/-- A context is saved and leaves its slot (R84, R265, R268). -/
def saveCtx (s : State) (c : Ctx) (forced : Bool) : State :=
  let id := c.id
  let core := getCore s id.core
  let mine := core.owner == some id.slot
  let kept := c.halt forced
  let v : Saved :=
    { ctx := if forced || c.life == .retired then kept else kept.discard (psUnits c) s.freeCtr
      deque := if mine then some core.deque else none
      side := core.side.filter fun e => e.slot == id.slot
      shadow := s.preq.any fun r => r.mode == 2
      forced := forced, wanted := false }
  let s1 := detachWaits (writeArea { s with freeCtr := s.freeCtr + 1 } (saveArea s c)) id
  let s2 := modCore (dropDeque s1 id) id.core fun k => { k with side := k.side.filter fun e => e.slot != id.slot }
  let s3 :=
    match c.task with
    | some t => if c.life = Life.running then setTask s2 t .saved else s2
    | none => s2
  let s4 := preqLeave (dropCtx { s3 with saved := s3.saved ++ [v] } id) id true forced
  if s.preq.any fun r => r.mode != 0 then dropResid s4 c.polder else s4

/-- The request in progress still wants the context saved. -/
def wantedSave (s : State) (id : CtxId) : Bool := s.preq.any fun r => r.left.contains id

def xferHeld (c : Ctx) (id : Nat) : Bool := c.xfers.any fun x => x.id == id && x.fault.isSome

/-- An operation of R68 that a cooperative save waits for. -/
def coopWaits (s : State) (c : Ctx) (o : Op) : Bool :=
  o.trap.isSome ||
    (!o.done &&
      match o.kind with
      | .bar .. | .cbar .. | .release _ | .fence _ => false
      | .side n => !(ctxSide s c.id).any fun e => e.id == n && e.fault.isSome
      | .transfer n | .wld _ n => !xferHeld c n
      | _ => true)

/-- The context can be saved cooperatively; a retired member of a gang has nothing left to do (R263, R267). -/
def coopDue (s : State) (c : Ctx) : Bool :=
  wantedSave s c.id && !c.halting &&
    (c.life == .retired ||
      ((c.frame.any fun f => f.preempt) && c.preempt.isSome && !c.cut && (pendingTrap c).isNone
        && [Seqr.X, .L, .C, .S].all fun q =>
          (match (c.seq q).run with | .psdone _ => true | _ => false) && !(c.seq q).ops.any (coopWaits s c)))

/-- An issued instruction that a forced save waits for (R264). -/
def forcedWaits (c : Ctx) (o : Op) : Bool :=
  o.trap.isSome ||
    (!o.done &&
      match o.kind with
      | .plain | .matrix | .fabric .. => true
      | .transfer n =>
        c.xfers.any fun x => x.id == n && x.fault.isNone && (match x.kind with | .scopy .. => true | _ => false)
      | _ => false)

/-- The budget of a polder's contexts (R261). -/
def budgetOver (s : State) (c : Ctx) : Bool := c.preempt.any fun r => (getPolder s c.polder).pbudget ≤ r.used

def forcedDue (s : State) (c : Ctx) : Bool :=
  wantedSave s c.id && c.life == .running && !c.cut && budgetOver s c && c.matrix == []
    && [Seqr.X, .L, .C, .S].all fun q => !(c.seq q).ops.any (forcedWaits c)

/-- R264. -/
def execForcedSave (id : CtxId) (s : State) : Answer :=
  match getCtx s id with
  | none => notNow s
  | some c => if forcedDue s c then .next (saveCtx s c true) else notNow s

/-! Restores (R84, R263, R264, R266, R267) -/

def savedGang (v : Saved) (g : GangRef) : Bool := sameGang g v.ctx

/-- The saved contexts that are restored with one: the members of its gang. -/
def restoreGroup (s : State) (v : Saved) : List Saved :=
  match v.ctx.gang with
  | none => [v]
  | some g => s.saved.filter fun w => savedGang w g

/-- Its slot, and for a gang every slot, is free. -/
def restoreDue (s : State) (v : Saved) : Bool :=
  (restoreGroup s v).all (fun w => w.wanted && !slotUsed s w.ctx.id.core w.ctx.id.slot)
    && (match v.ctx.gang with | none => true | some g => gangMembers s g == [])

/-- What holds the accesses of a context finds its way back to the outstanding entries. -/
def attachWaits (s : State) (c : Ctx) : State :=
  let onE (e : FaultEntry) (r : Option FaultRef) : Bool := r.any fun r => r.entry == some e.id
  let ofHold (h : Option Hold) : Option FaultRef := match h with | some (.fault r) => some r | _ => none
  let ws (e : FaultEntry) : List Waiter :=
    ([Seqr.X, .L, .C, .S].filter fun q =>
        onE e (ofHold (c.seq q).hold)
          || c.frames.any fun f => f.saves.any fun v => v.seq == q && onE e (ofHold v.hold)).map (fun q => .seq c.id q)
      ++ (c.xfers.filter fun x => onE e x.fault).map fun x => .xfer c.id x.id
  { s with faults := s.faults.map fun e => { e with waiters := e.waiters ++ ws e } }

/-- After PSDONE a sequencer goes on (R263). -/
def Seq.wake (x : Seq) : Seq := { x with run := match x.run with | .psdone _ => .running | r => r }

def restoreOne (s : State) (v : Saved) : State :=
  let c0 := { v.ctx with x := v.ctx.x.wake, l := v.ctx.l.wake, c := v.ctx.c.wake, s := v.ctx.s.wake }
  let id := c0.id
  let lost := v.deque.isSome && (getCore s id.core).owner.isSome
  let c := { c0 with dqLost := c0.dqLost || lost }
  let s1 := addCtx { s with saved := s.saved.filter fun w => w.ctx.id != id || w.ctx.task != c.task } c
  let s2 := modCore s1 id.core fun k =>
    let k := { k with side := k.side ++ v.side }
    match v.deque with
    | some l => if lost then k else { k with owner := some id.slot, deque := l }
    | none => k
  let s3 :=
    match c.task with
    | some t => if c.life = Life.running then setTask s2 t .running else s2
    | none => s2
  [Seqr.X, .L, .C, .S].foldl (fun t q => settleEnd t id q) (attachWaits s3 c)

/-- A MODE 11 request has nothing left to restore. -/
def restoreDone (s : State) : State :=
  match s.preq with
  | some r =>
    if r.mode = 3 ∧ !(s.saved.any fun v => v.wanted && v.ctx.polder == r.polder) then
      { s with preq := none, pstatStatus := 0, pstatSaved := 0, pstatForced := 0 }
    else s
  | none => s

/-- The saved context that a slot's restore brings back. -/
def savedAt (s : State) (id : CtxId) : Option Saved := s.saved.find? fun v => v.ctx.id == id && restoreDue s v

/-- R84, R266, R267. -/
def execContextRestore (id : CtxId) (s : State) : Answer :=
  match savedAt s id with
  | none => notNow s
  | some v => .next (restoreDone ((restoreGroup s v).foldl restoreOne s))

/-! Requests (R260 to R262, R267, R268) -/

/-- A request that found nothing to do, or was refused. -/
def preqEnd (s : State) (status : BitVec 3) : State :=
  { s with preq := none, pstatStatus := status, pstatSaved := 0, pstatForced := 0 }

/-- The request reaches its contexts in RUNNING; of a gang the others are saved once they have retired. -/
def preqStart (s : State) (mode : BitVec 2) (p swapIn : BitVec 4) (ids : List CtxId) : State :=
  { s with
    preq := some { mode := mode, polder := p, swapIn := swapIn, left := ids, saved := 0, forced := 0 }
    ctxs := s.ctxs.map fun c =>
      if ids.contains c.id && c.life == .running then { c with preempt := some { used := 0, shadow := mode == 2 } } else c }

/-- A context that a request can target: it, or a member of its gang, is in RUNNING (R262, R267). -/
def canSave (s : State) (c : Ctx) : Bool :=
  c.life == .running || c.gang.any fun g => (gangMembers s g).any fun x => x.life == .running

/-- The contexts that MODE 00 targets: a gang whole. -/
def saveTargets (s : State) (c : Ctx) : List CtxId :=
  match c.gang with
  | none => [c.id]
  | some g => (gangMembers s g).map fun x => x.id

/-- MODE 00. -/
def preqContext (s : State) (id : CtxId) : State :=
  if s.preq.isSome then s
  else
    match getCtx s id with
    | none => preqEnd s 2
    | some c =>
      if c.neutral.isSome then preqEnd (endCtx s id 0x17) 0
      else if canSave s c then preqStart s 0 c.polder 0 (saveTargets s c)
      else preqEnd s 2

/-- The contexts of a polder; a bunting is none of its (R267). -/
def polderCtxs (s : State) (p : BitVec 4) : List CtxId :=
  (s.ctxs.filter fun c => c.neutral.isNone && c.polder == p && canSave s c).map fun c => c.id

/-- Every context of a polder in a slot, whatever its life (R285, R288). -/
def residentCtxs (s : State) (p : BitVec 4) : List Ctx := s.ctxs.filter fun c => c.neutral.isNone && c.polder == p

/-- MODE 01. -/
def preqPolder (s : State) (p : BitVec 4) : State :=
  if s.preq.isSome then s
  else
    let ids := polderCtxs s p
    if ids = [] then preqEnd (dropResid s p) 2 else preqStart s 1 p 0 ids

def coreSet (s : State) (p : BitVec 4) : List Nat := (List.range 160).filter fun k => (getPolder s p).cores.getLsbD k

/-- MODE 10: refused where shadow storage holds a third polder's state. The dispatcher places none of the polder's tasks
from the acceptance on (DEDUCED, log entry 21). Contexts that keep more units on one core than the 1.5 MiB of its shadow
storage holds (R15) keep them all: the spec does not say what becomes of the rest (DESIGN CHOICE, log entry 81). -/
def preqSwap (s : State) (p q : BitVec 4) : State :=
  if s.preq.isSome then s
  else if (coreSet s p).any fun k => (getCore s k).shadow.any fun r => r != q then preqEnd s 1
  else
    let ids := (polderCtxs s p).filter fun id => (getPolder s p).cores.getLsbD id.core
    preqStart (modPolder (if ids = [] then dropResid s p else s) p fun d => { d with swapped := true }) 2 p q ids

/-- MODE 11: every context of the polder in its save area. The request is in progress until each is restored (DEDUCED, log
entry 21). -/
def preqRestore (s : State) (p : BitVec 4) : State :=
  if s.preq.isSome then s
  else
    let mine (v : Saved) : Bool := v.ctx.polder == p && !v.shadow
    if !s.saved.any mine then preqEnd s 2
    else preqStart { s with saved := s.saved.map fun v => if mine v then { v with wanted := true } else v } 3 p 0 []

/-- A write of SYS.PREQ. -/
def writePreq (s : State) (v : Word) : State :=
  let p := v.extractLsb' 10 4
  if v.extractLsb' 18 2 = 0 then preqContext s { core := (v.extractLsb' 0 8).toNat, slot := (v.extractLsb' 8 2).toNat }
  else if v.extractLsb' 18 2 = 1 then preqPolder s p
  else if v.extractLsb' 18 2 = 2 then preqSwap s p (v.extractLsb' 14 4)
  else preqRestore s p

/-- SYS.PSTAT. -/
def pstatWord (s : State) : Word :=
  (BitVec.ofBool s.preq.isSome ++ s.pstatStatus ++ 0#12 ++ s.pstatSaved ++ s.pstatForced ++ 0#16).cast (by decide)

/-- R261, R262, R267. -/
def execPreqSaveContext (c : CtxId) (s : State) : Answer := .next (preqContext s c)
/-- R261, R262, R267. -/
def execPreqSavePolder (p : BitVec 4) (s : State) : Answer := .next (preqPolder s p)
/-- R261, R268. -/
def execPreqPartitionSwap (p q : BitVec 4) (s : State) : Answer := .next (preqSwap s p q)
/-- R261, R266. -/
def execPreqRestorePolder (p : BitVec 4) (s : State) : Answer := .next (preqRestore s p)

/-- Every targeted context of a swap has halted. -/
def exchangeDue (s : State) : Option PreqState :=
  match s.preq with
  | some r => if r.mode = 2 ∧ r.left = [] then some r else none
  | none => none

/-- The saved contexts that came back with an exchange are restored in it; one whose slot is in use follows when it is free
(R266, R268). -/
def restoreBack (s : State) (ids : List CtxId) : State :=
  ids.foldl (fun t id =>
    match savedAt t id with
    | none => t
    | some v => (restoreGroup t v).foldl restoreOne t) s

/-- The exchange: what was saved goes to shadow storage, what it held of the other polder returns (R268). -/
def exchange (s : State) (r : PreqState) : State :=
  let cs := coreSet s r.polder
  let back (v : Saved) : Bool := v.shadow && v.ctx.polder == r.swapIn && cs.contains v.ctx.id.core
  let any := r.saved != 0 || s.saved.any back
  let saved := s.saved.map fun v =>
    if back v then { v with shadow := false, wanted := true } else v
  let holds (k : Nat) : Bool := saved.any fun v => v.shadow && v.ctx.id.core == k && v.ctx.polder == r.polder
  let s1 := { s with
    saved := saved, preq := none, pstatStatus := if any then 0 else 2, pstatSaved := BitVec.ofNat 16 r.saved
    pstatForced := BitVec.ofNat 16 r.forced }
  let s2 := cs.foldl (fun t k => modCore t k fun y => { y with shadow := if holds k then some r.polder else none }) s1
  restoreBack (modPolder s2 r.swapIn fun d => { d with swapped := false }) ((s.saved.filter back).map fun v => v.ctx.id)

/-- R268. -/
def execSwapExchange (s : State) : Answer :=
  match exchangeDue s with
  | none => notNow s
  | some r => .next (exchange s r)

end Sys2Proof.Machine
end

