-- ==== Sys2Proof/Machine/Errors.lean ====
section
/-! DEFINITION. Uncorrectable errors and the replay of command windows, die-link failures, and the auditor (R156, R192, R270
to R281). -/

namespace Sys2Proof.Machine

/-! Replays (R270 to R273) -/

/-- Rows that are neither vacant nor parked. -/
def TileRec.liveRows (t : TileRec) : List Nat := (List.range 32).filter fun r => !t.vacant.getLsbD r && !t.parked.getLsbD r

/-- The members, by pennant, of the live rows; pennant 0 is the context's own. -/
def TileRec.owners (t : TileRec) : List Nat := (t.liveRows.map fun r => (t.pens.getD r 0).toNat).eraseDups

def Ctx.setStage (c : Ctx) (ws : Bool) (g : Option StageData) : Ctx :=
  { c with slots := c.slots.modify (if ws then 1 else 0) fun y => { y with data := g } }

/-- Why a replay stops before its end: it fails with a DETAIL, 0 for a second error, 1 for inputs that changed (R272, R273);
or a WLD asks for these pieces over the fabric first (R304). -/
inductive ReplayStop where
  | fails (s : State) (detail : Nat)
  | asks (segs : List Seg)
  deriving DecidableEq, Repr

/-- A WLD of a replay read again: what it leaves, and the tile. A line that can no longer be read has changed (DESIGN CHOICE,
log entry 83). -/
def redoWld (s : State) (c : Ctx) (w : WldCmd) : Except ReplayStop (State × List Byte) :=
  let g := agentOf s c
  match wldRead s c g c.refab w with
  | .ok (bs, _, segs) =>
    let miss := segs.filter fun x => x.fabric && !fabHas c.refab x.pa x.len
    if miss = [] then .ok (wldNote s c g w segs, bs)
    else
      match fabStop s g.polder miss with
      | some (t, cause, _) => .error (.fails t (if cause = 0x12 then 0 else 1))
      | none => .error (.asks miss)
  | .error (.trap 0x12 _) => .error (.fails s 0)
  | .error _ => .error (.fails s 1)

/-- One command of a window executed again, on its own masks, pennants and registers: the context after it, with its slots
as the replay fills them, or the DETAIL with which the replay fails (R271 to R273). -/
def redoCmd (s : State) (c : Ctx) : WinCmd → Except ReplayStop (State × Ctx)
  | .mat m crc parked pre =>
    match m.kind with
    | .mzero w32 _ => .ok (s, zeroTile c m w32)
    | _ =>
      let c1 := c.setTile m.trec { c.tile m.trec with parked := parked }
      let g := pre.or (slotData c1 m)
      if matBad s c1 m g ≠ [] then .error (.fails s 0)
      else if crc64 (matBytes s c1 m g) ≠ crc then .error (.fails s 1)
      else .ok (s, (matRows s c1 m g).1)
  | .wld _ w crc =>
    match redoWld s c w with
    | .error n => .error n
    | .ok (t, bs) =>
      if crc64 bs ≠ crc then .error (.fails t 1) else .ok (t, c.setStage w.ws (some { wf := w.wf, form := w.form, tile := bs }))

def redoAll (s : State) (c : Ctx) : List WinCmd → Except ReplayStop (State × Ctx)
  | [] => .ok (s, c)
  | w :: l =>
    match redoCmd s c w with
    | .error n => .error n
    | .ok (t, d) => redoAll t d l

/-- The staging slots that a window names. -/
def WinCmd.slot : WinCmd → Option Bool
  | .mat m _ _ _ => match m.kind with | .mma ws _ _ _ _ => some ws | _ => none
  | .wld _ w _ => some w.ws

/-- A slot refilled by the last WLD into it; it keeps what it held where the tile can no longer be read, or is no longer
well-formed (DESIGN CHOICE, log entry 83). -/
def refillSlot (s : State) (c : Ctx) (ws : Bool) : Except ReplayStop (State × Ctx) :=
  match (c.slots[if ws then 1 else 0]?).bind fun y => y.src with
  | none => .ok (s, c)
  | some (_, w, _) =>
    match redoWld s c w with
    | .error (.fails t 1) => .ok (t, c)
    | .error e => .error e
    | .ok (t, bs) =>
      if metaOk bs w.wf w.form then .ok (t, c.setStage ws (some { wf := w.wf, form := w.form, tile := bs })) else .ok (s, c)

def refillAll (s : State) (c : Ctx) : List Bool → Except ReplayStop (State × Ctx)
  | [] => .ok (s, c)
  | ws :: l =>
    match refillSlot s c ws with
    | .error n => .error n
    | .ok (t, d) => refillAll t d l

/-- The replay of a record's window: the tile rewritten, the commands again in order, the slots refilled, and the
instruction that met the error free of it (R271); what that instruction finds wrong in its operands outside the tile lies
outside the window (R274). -/
def redoWindow (s : State) (c : Ctx) (trec : BitVec 3) : Except ReplayStop (State × Ctx) :=
  let t := c.tile trec
  match redoAll s c t.win with
  | .error n => .error n
  | .ok (s1, d) =>
    let named := [false, true].filter fun ws => t.win.any fun x => x.slot == some ws
    let d1 := { d.setTile trec t with slots := c.slots }
    match refillAll s1 d1 named with
    | .error n => .error n
    | .ok (s2, d2) =>
      match d2.matrix with
      | m :: _ => if replayBad d2 m (matBad s2 d2 m (slotData d2 m)) ≠ [] then .error (.fails s2 0) else .ok (s2, d2)
      | [] => .ok (s2, d2)

/-- The bytes of a discarded tile are open. Its record stays opened; its window holds nothing and retains nothing until the
next MZERO (DESIGN CHOICE, log entry 83). -/
def discardTile (s : State) (id : CtxId) (trec : BitVec 3) : State :=
  modCtx { s with freeCtr := s.freeCtr + 1 } id fun c =>
    let t := c.tile trec
    let open_ (d : SpDesc) (w : Nat) (c : Ctx) : Ctx :=
      (List.range 32).foldl (fun c r =>
        spWrite c d r 0 ((List.range (4 * w)).map fun i => Config.discardedByte s.freeCtr (4096 * r + i))) c
    let c1 :=
      match t.win with
      | .mat m _ _ _ :: _ => open_ m.acc t.width c
      | _ => c
    c1.setTile trec { t with win := [], wovf := true }

/-- A replay that fails: the tile is discarded, trap 0x12 is raised for rows with pennant 0, and every member with a live
row of the tile is parked, with FIRSTROW 0 (R174, R272, R273). -/
def failReplay (s : State) (c : Ctx) (trec : BitVec 3) (detail : Nat) : State :=
  let t := c.tile trec
  let s1 := optisLog (cutMatrix (discardTile s c.id trec) c.id) 7 c.id.core
  let s2 := if t.owners.contains 0 then raiseLater s1 c.id (matTrap c detail) else s1
  let s3 := modCtx s2 c.id fun c => { c with refab := [], retags := [] }
  match c.neutral with
  | none => s3
  | some b => (t.owners.filter fun p => p != 0).foldl (fun u p => parkMember u b p 0x12 0) s3

/-- A replay ends: the tile and the slots hold what they held, or it fails; or it goes on when the fabric has answered its
WLDs. -/
def endReplay (s : State) (c : Ctx) (trec : BitVec 3) : State :=
  match redoWindow s c trec with
  | .ok (t, d) => optisLog (modCtx t c.id fun _ => { d with replay := none, refab := [], retags := [] }) 6 c.id.core
  | .error (.fails t n) => failReplay t c trec n
  | .error (.asks segs) =>
    let r := fabReads s c.id .L (some c.nextXfer) (agentOf s c).polder (segs.map fun y => (y.pa, y.len, y.va))
    modCtx r.1 c.id fun c => { c with retags := r.2 }

/-! UNCORRECTABLE_ERROR (R192, R270, R273, R274) -/

/-- An error that the matrix instruction m meets in the array, a staging slot or the tile. Outside a retained window it
counts as data of every live row of the tile. -/
def matrixError (s : State) (c : Ctx) (m : MatCmd) : State :=
  let t := c.tile m.trec
  if c.replay.isSome then failReplay s c m.trec 0
  else if t.retained then modCtx s c.id fun c => { c with replay := some m.trec }
  else badMatrix (optisLog s 7 c.id.core) c m [(0, t.liveRows)]

/-- A line of an L2 or RDC found wrong: dropped while it is clean, poisoned while it is dirty (R192, R274). -/
def cachedError (s : State) (a : Nat) : State :=
  let ln := lineOf a
  let dirty := (rdcFind s ln).isSome || s.dies.any fun d => d.l2.any fun x => x.line == ln && x.dirty
  if dirty then optisLog { s with poison := ln :: s.poison.filter (· != ln) } 7 a
  else
    let s1 := match physKind a with | .hbm d => l2Drop s d ln | _ => s
    { s1 with dies := s1.dies.map fun d =>
        { d with rdcClean := d.rdcClean.filter (· != ln), rdcRemote := d.rdcRemote.filter (· != ln) } }

/-- A line of memory that can be marked poisoned. -/
def canPoison (s : State) (a : Nat) : Bool :=
  match physKind a with
  | .hbm d => (getDie s d).present
  | .pool n => (getRegion s n).valid
  | .host => true
  | _ => false

/-- What an error does where it is consumed; none where nothing consumes it there. One in a sequencer's registers traps
imprecisely (R252). -/
def errorAt (s : State) : ErrSite → Option State
  | .line a => if canPoison s a then some (optisLog { s with poison := (lineOf a) :: s.poison.filter (· != lineOf a) } 7 a) else none
  | .core q =>
    match getCtx s (ctxOf q) with
    | none => none
    | some c =>
      if c.canIssue q.seq && (c.seq q.seq).waited.isNone then
        some (trapBefore (optisLog s 7 q.core) c.id q.seq { mkTrap q.seq 0x12 0 0 with imprec := true })
      else none
  | .scratch id ln =>
    match getCtx s id with
    | none => none
    | some c =>
      if 16 * ln < c.spBytes then
        some (modCtx (optisLog s 7 id.core) id fun c => { c with spoison := ln :: c.spoison.filter (· != ln) })
      else none
  | .matrix id trec =>
    match getCtx s id with
    | none => none
    | some c =>
      match c.matrix.head? with
      | none => none
      | some m =>
        let reads := match m.kind with | .mzero _ _ => false | _ => true
        if m.trec == trec && reads then some (matrixError s c m) else none
  | .row id row =>
    match (getCtx s id).bind fun c => c.neutral with
    | none => none
    | some b =>
      match (bunting s b).bind fun x => rowOwner x row with
      | some (m, r) => some (parkMember (optisLog s 7 id.core) b m 0x12 r)
      | none => none
  | .cached a => some (cachedError s a)
  | .l1 core a =>
    some (modCore (l1Drop s core false (· == lineOf a)) core fun k => { k with consts := k.consts.filter (· != lineOf a) })
  | .corrected => some (optisLog { s with corrected := s.corrected + 1 } 13 (s.corrected + 1))

/-- R192, R270, R273, R274. -/
def execUncorrectableError (site : ErrSite) (s : State) : Answer :=
  match errorAt s site with
  | some t => .next t
  | none => notNow s

/-! Die links (R12, R275) -/

/-- R275: the link stays down until module reset; later accesses over it trap. -/
def execDieLinkFailure (a b : Nat) (s : State) : Answer :=
  if a < 5 ∧ b < 5 ∧ a ≠ b ∧ linkUp s a b then
    .next (reportReeve (optisLog { s with linksDown := s.linksDown ++ [(a, b)] } 2 (8 * a + b)) 2 (8 * a + b))
  else notNow s

/-! The auditor (R276 to R280) -/

/-- One core's score rises; a core that reaches THRESH is recommended for quarantine. -/
def raiseScore (s : State) (core : Nat) : State :=
  let k := getCore s core
  let n := Nat.min 255 (k.score.toNat + 1)
  let s1 := modCore s core fun k => { k with score := BitVec.ofNat 8 n }
  if s.audThresh.toNat ≤ n ∧ !k.recomm then
    reportReeve (optisLog (modCore s1 core fun k => { k with recomm := true }) 4 core) 4 core
  else s1

/-- An entry of SYS.AUDLOG (R279). -/
def audlogWord (result orig second third blamed rcd : Nat) : Word :=
  (0#2 ++ BitVec.ofNat 2 result ++ BitVec.ofNat 8 orig ++ BitVec.ofNat 8 second ++ BitVec.ofNat 8 third
    ++ BitVec.ofNat 8 blamed ++ 0#8 ++ BitVec.ofNat 20 rcd).cast (by decide)

/-- A core that may replay the sample. -/
def auditCore (s : State) (a : AuditSample) (core : Nat) : Bool :=
  core < 160 && core != a.core && dieOf core == a.die && s.commons.getLsbD core && !(getCore s core).quar

/-- The result of an audit: RESULT, the cores that ran, the core that is blamed, the cores whose score rises. -/
structure Verdict where
  result : Nat
  second : Nat
  third  : Nat
  blamed : Nat
  raised : List Nat
  deriving DecidableEq, Repr

/-- What the runs say: of each replay its core, and its signature unless it did not end as R278 asks. -/
def verdict (a : AuditSample) (second third : Option (Nat × Option Word)) : Verdict :=
  let dropped (second third : Nat) : Verdict := { result := 3, second := second, third := third, blamed := 0xFF, raised := [] }
  match second with
  | none => dropped 0xFF 0xFF
  | some (c2, none) => dropped c2 0xFF
  | some (c2, some w2) =>
    if w2 = a.signature then { result := 0, second := c2, third := 0xFF, blamed := 0xFF, raised := [] }
    else
      match third with
      | none => dropped c2 0xFF
      | some (c3, none) => dropped c2 c3
      | some (c3, some w3) =>
        if w3 = a.signature then { result := 1, second := c2, third := c3, blamed := c2, raised := [c2] }
        else if w3 = w2 then { result := 1, second := c2, third := c3, blamed := a.core, raised := [a.core] }
        else { result := 2, second := c2, third := c3, blamed := 0xFF, raised := [a.core, c2, c3] }

/-- The audit of a sample ends. -/
def endAudit (s : State) (a : AuditSample) (second third : Option (Nat × Option Word)) : State :=
  let v := verdict a second third
  let s1 := v.raised.foldl raiseScore s
  let w := audlogWord v.result a.core v.second v.third v.blamed a.index
  retireImages (retireVersions (optisLog { s1 with
    audits := s1.audits.filter fun x => x.index != a.index
    audlog := s1.audlog.push 64 (w, 0) } 3 a.index))

/-- A replay of the sample is under way. -/
def auditRunning (s : State) (k : Nat) : Bool := s.buntings.any fun b => b.replay == some k

/-- Where the sample's next replay could run now. -/
def auditPlaces (s : State) (a : AuditSample) : List Place :=
  candidates s ((List.range 160).filter fun k => auditCore s a k && a.second.all fun x => x.1 != k)
    (((s.images.find? fun x => x.id == a.image).map fun x => x.carve).getD 0) none
    (((keyVersion s a.key).map versionSpan).getD [])

/-- A replay starts: the unit's image in a neutral context, with the member table and the rows that were logged. -/
def startAuditRun (s : State) (a : AuditSample) (x : Place) : State :=
  let b : Bunting :=
    { id := s.nextBunting, die := a.die, slot := 0, released := s.cycle, key := a.key, image := a.image, running := none
      members := a.members.map fun m => { m with parked := none, firstRow := 0, written := 0 }
      sample := none, gathered := a.gathered, scattered := [], replay := some a.index }
  startNeutral { s with buntings := s.buntings ++ [b], nextBunting := s.nextBunting + 1 } b x

/-- The sample's next replay starts on a core; where no core is free, the audit ends (R277, R278). -/
def nextAuditRun (s : State) (a : AuditSample) (core : Nat) : State :=
  if auditPlaces s a = [] then endAudit s a (a.second.map fun x => (x.1, some x.2)) none
  else
    match (auditPlaces s a).find? fun x => x.core == core with
    | some x => startAuditRun s a x
    | none => s

/-- The replay that has ended is compared. One that differs from the original calls for a third run. -/
def compareRun (s : State) (a : AuditSample) (core : Nat) (r : Option Word) : State :=
  match a.second, r with
  | some x, _ => endAudit s a (some (x.1, some x.2)) (some (core, r))
  | none, some w =>
    if w = a.signature then endAudit s a (some (core, r)) none
    else { s with audits := s.audits.map fun y => if y.index = a.index then { y with second := some (core, w), ended := none } else y }
  | none, none => endAudit s a (some (core, none)) none

/-- R277 to R280: of an audit with no replay under way, the next replay starts on a core, or the one that has ended there is
compared. A core that ran wrongly gives another signature, by a difference that the event carries, 0 for none: an accident
of the hardware, which nothing in the state decides (DESIGN CHOICE, log entry 22). -/
def execAuditReplay (k core : Nat) (wrong : Word) (s : State) : Answer :=
  match s.audits.find? fun a => a.index == k with
  | none => notNow s
  | some a =>
    if auditRunning s k then notNow s
    else
      match a.ended with
      | none => .next (nextAuditRun s a core)
      | some (c, r) => if c = core then .next (compareRun s a core (r.map (· ^^^ wrong))) else notNow s

/-- The core of the sample's next turn: the one whose replay has ended, else the best place for the next. -/
def auditTurn (s : State) (a : AuditSample) : Nat :=
  match a.ended with
  | some x => x.1
  | none => ((bestPlace (auditPlaces s a)).map fun x => x.core).getD 0

def clearScore (s : State) (core : Nat) : State := modCore s core fun k => { k with score := 0, recomm := false }

def setQuar (s : State) (core : Nat) (on : Bool) : State := modCore s core fun k => { k with quar := on }

/-- R280. -/
def execSuspectClr (core : Nat) (s : State) : Answer := .next (if core < 160 then clearScore s core else s)
/-- R280. -/
def execSuspectQuar (core : Nat) (on : Bool) (s : State) : Answer := .next (if core < 160 then setQuar s core on else s)

/-- A write of SYS.SUSPECT: CORE first, then QUAR and CLR of that core. -/
def writeSuspect (s : State) (v : Word) : State :=
  let core := (v.extractLsb' 0 8).toNat
  if 159 < core then s
  else
    let s1 := setQuar { s with suspectSel := core } core (v.getLsbD 17)
    if v.getLsbD 18 then clearScore s1 core else s1

def suspectWord (s : State) : Word :=
  let k := getCore s s.suspectSel
  (0#46 ++ BitVec.ofBool k.quar ++ BitVec.ofBool k.recomm ++ k.score ++ BitVec.ofNat 8 s.suspectSel).cast (by decide)

/-- SYS.AUDCFG: fields that a write gives an illegal value keep their own. -/
def writeAudcfg (s : State) (v : Word) : State :=
  let r := v.extractLsb' 58 5
  let t := v.extractLsb' 50 8
  { s with
    audEn := v.getLsbD 63
    audRate := if 4 ≤ r.toNat ∧ r.toNat ≤ 20 then r else s.audRate
    audThresh := if t = 0 then s.audThresh else t }

def audcfgWord (s : State) : Word := (BitVec.ofBool s.audEn ++ s.audRate ++ s.audThresh ++ 0#50).cast (by decide)

end Sys2Proof.Machine
end

