-- ==== Sys2Proof/Machine/Packets.lean ====
section
/-! DEFINITION. Packets that arrive over the Felened fabric, the responses to them, shards and burgees, and the loss of
requests and ports (R185, R187, R302 to R305). -/

namespace Sys2Proof.Machine

/-! Arrival (R302, R303, R305) -/

/-- The ACTIVE polder that holds a tag. -/
def tagPolder (s : State) (tag : BitVec 8) : Option (BitVec 4) :=
  ((List.range 16).map (BitVec.ofNat 4)).find? fun p => (getPolder s p).state == 2 && (getPolder s p).ptag == tag

/-- A packet passes the arrival port's map and some ACTIVE polder holds its tag. -/
def tagArrives (s : State) (port : Nat) (tag : BitVec 8) : Bool := tagAllowed s port tag && (tagPolder s tag).isSome

/-- A port that packets can arrive on. -/
def portLive (s : State) (port : Nat) : Bool := port < 12 && !s.fabDown.contains port

/-- The packet is of the given type and for this endpoint, or for a multicast group: a device takes each multicast packet
whose tag passes R302, of whatever type (R305; DEDUCED, log entry 24). -/
def forUs (s : State) (port : Nat) (p : Packet) (type : BitVec 8) : Bool :=
  portLive s port && p.type == type && (p.mc || p.dest == fabIdOf s)

def putOut (s : State) (m : OutMsg) : State := { s with outbox := s.outbox ++ [m] }

/-- A packet passed on by a port, if its tag may leave there. -/
def sendOn (s : State) (port dest : Nat) (tag : BitVec 8) (m : OutMsg) : State :=
  if !fabIdValid s || s.fabDown.contains port then s
  else if tagAllowed s port tag then putOut s m
  else logDrop s false port tag dest

/-- A multicast packet goes on by every port of its group but the one it came by. -/
def forwardGroup (s : State) (port : Nat) (p : Packet) : State :=
  ((List.range 12).filter fun k => k != port && (routeMask s (1024 + p.dest.toNat)).getLsbD k).foldl
    (fun t k => sendOn t k p.dest.toNat p.ptag (.packet k p)) s

/-- A packet whose tag has passed is accepted. -/
def acceptPacket (s : State) (port : Nat) (p : Packet) : State := if p.mc then forwardGroup s port p else s

/-- A response goes back with its request's tags. One that answers a dropped request does not pass the maps, which have
dropped its request already (DEDUCED, log entry 23). -/
def respond (s : State) (r : Packet) (type : BitVec 8) (data : List Byte) (free : Bool) : State :=
  let p : Packet :=
    { type := type, ptag := r.ptag, flits := (data.length + 63) / 64, mc := false, dest := r.src, src := fabIdOf s
      rtag := r.rtag, addr := r.addr, size := data.length, op := 0, data := data }
  match routePort s r.src.toNat with
  | none => s
  | some k =>
    if s.fabDown.contains k then s
    else if free || tagAllowed s k r.ptag then putOut s (.packet k p)
    else logDrop s false k r.ptag r.src.toNat

/-- A request that is dropped at its arrival is logged and, while the device answers at all, answered with an error (R302,
R303, R305). -/
def dropRequest (s : State) (port : Nat) (p : Packet) : State :=
  let t := logDrop s true port p.ptag p.src.toNat
  if fabIdValid s then respond t p 6 [] true else t

/-! Accesses by guest-physical address (R293, R304) -/

/-- One granule through a polder's stage 2, with the permissions of its leaf. -/
def gpaOne (s : State) (p : BitVec 4) (wr : Bool) (a n : Nat) : Except WalkStop Seg :=
  match stage2 s 4 p wr a with
  | .error e => .error e
  | .ok t =>
    .ok { va := a, pa := t.pa, len := n, key := t.key, leaf1 := none, leaf2 := t.leaf, ren := none
          ok := if wr then t.w else t.rd, tlb := none, walks := t.walks }

def gpaAll (s : State) (p : BitVec 4) (wr : Bool) : List (Nat × Nat) → Except WalkStop (List Seg)
  | [] => .ok []
  | (a, n) :: l =>
    match gpaOne s p wr a n with
    | .error e => .error e
    | .ok x => (gpaAll s p wr l).map fun r => x :: r

/-- A piece that an agent of the I/O die may reach for a polder. -/
def gpaOk (s : State) (p : BitVec 4) (wr : Bool) (x : Seg) : Bool :=
  x.ok && (x.leaf2.isNone || (getPolder s p).keys.getLsbD x.key) && !(wr && inVault s x.pa) && populated s x.pa
    && leveeOpen s x.pa && linkUp s 4 (farDie x.pa) && !x.fabric
    && !(physKind x.pa == .host && (getPolder s p).tdi == 3)

/-- A walk that waits for a table in a page that a SCOPY holds (R301, R376). -/
def stopHeld : Option WalkStop → Bool
  | some e => e.kind == walkHeld
  | none => false

/-- The pieces of a span, or the walk that stopped, or a refusal. -/
def gpaSegs (s : State) (p : BitVec 4) (wr : Bool) (a n : Nat) : Except (Option WalkStop) (List Seg) :=
  match gpaAll s p wr (granules (n / 4096 + 2) a n) with
  | .error e => .error (some e)
  | .ok segs => if segs.all (gpaOk s p wr) then .ok segs else .error none

/-- The agent of an access that a polder's function or a far device makes. -/
def farAgent (p : BitVec 4) : Agent := devAgent 0 p

/-! Requests (R304) -/

/-- What becomes of a request from outside: served with its data, refused, or it waits for a page that a SCOPY holds or for
credits (R301, R307). -/
inductive Served where
  | done (s : State) (data : List Byte)
  | bad (s : State)
  | wait
  deriving DecidableEq, Repr

/-- A request whose span has translated, unless a page of it is held. -/
def serveHeld (s : State) (segs : List Seg) (r : Served) : Served := if segs.any fun x => pageHeld s x.pa then .wait else r

def serveRead (s : State) (p : BitVec 4) (a n : Nat) : Served :=
  if 2 ^ 39 < a + n then .bad s
  else
    match gpaSegs s p false a n with
    | .error e => if stopHeld e then .wait else .bad s
    | .ok segs =>
      serveHeld s segs (if segsPoisoned s segs then .bad s
        else .done (noteAccess s (farAgent p) .read segs) (segsRead s segs))

def serveWrite (s : State) (p : BitVec 4) (a : Nat) (bs : List Byte) : Served :=
  if 2 ^ 39 < a + bs.length then .bad s
  else
    match gpaSegs s p true a bs.length with
    | .error e => if stopHeld e then .wait else .bad s
    | .ok segs => serveHeld s segs (.done (segsWrite (noteAccess s (farAgent p) .write segs) (farAgent p) segs bs) [])

/-- What an atomic request asks, read from its OP, SIZE and data. A RED of 2 bytes is VREDX's BF16 .fadd (R304, R415). -/
structure AtomReq where
  op  : AtomOp
  fmt : Fmt
  ret : Bool
  v   : Nat
  v2  : Nat
  deriving DecidableEq, Repr

def atomReq (p : Packet) : Option AtomReq :=
  let n := p.size
  match atomOf (p.op.setWidth 5) with
  | none => none
  | some op =>
    let ret := p.op.getLsbD 7
    let k := if op = .cas then 2 * n else n
    let half := op == .fadd && !ret && n == 2
    if (n = 4 ∨ n = 8 ∨ half) ∧ p.data.length = k ∧ !(op == .fadd && n == 8) ∧ !(!ret && (op == .swap || op == .cas)) then
      some { op := op, fmt := if half then .bf16 else if op = .fadd then .fp32 else if n = 8 then .z64 else .z32, ret := ret
             v := natAt p.data 0 n, v2 := natAt p.data n n }
    else none

/-- An ATOM needs RD and W, a RED W alone (R239). -/
def serveAtom (s : State) (p : BitVec 4) (a : Nat) (r : AtomReq) : Served :=
  let n := fmtWidth r.fmt / 8
  let rd := !r.ret || (match gpaSegs s p false a n with | .ok _ => true | .error _ => false)
  if a % n ≠ 0 ∨ 2 ^ 39 < a + n then .bad s
  else
    match gpaSegs s p true a n with
    | .ok [x] =>
      serveHeld s [x]
        (if !rd || poisoned s x.pa n then .bad s
         else if physKind x.pa == .host && (!hostAtomOk r.op r.ret || Config.hostAtomRefused s.freeCtr) then
           .bad { s with freeCtr := s.freeCtr + 1 }
         else
           match takeCredits s p x.pa with
           | none => .wait
           | some t =>
             let u := rmw (noteAccess (hostAsked x t) (farAgent p) .atomic [x]) (farAgent p) x
               (atomUpdate r.op r.fmt r.v r.v2)
             .done u.1 (leBytes u.2 n))
    | .error e => if stopHeld e then .wait else .bad s
    | .ok _ => .bad s

/-- A request that arrives: dropped and logged, or accepted and served for the polder that holds its tag. While FABID is not
valid none is served, since none is answered (R302, R303, R305; DEDUCED, log entry 23). -/
def request (s : State) (port : Nat) (p : Packet) (type : BitVec 8) (f : State → BitVec 4 → Answer) : Answer :=
  if !forUs s port p type then notNow s
  else
    match tagAllowed s port p.ptag, tagPolder s p.ptag with
    | true, some q => if fabIdValid s then f (acceptPacket s port p) q else .next s
    | _, _ => .next (dropRequest s port p)

/-- A request answered, with the type of its good answer, or kept waiting. -/
def answer (s : State) (i : Instr) (p : Packet) (type : BitVec 8) (keep : Bool) : Served → Answer
  | .done t bs => .next (respond t p type (if keep then bs else []) false)
  | .bad t => .next (respond t p 6 [] false)
  | .wait => .next (stall s i)

/-- R304. -/
def execReadRequest (port : Nat) (p : Packet) (s : State) : Answer :=
  request s port p 1 fun s q => answer s (.readRequest port { p with mc := false, dest := fabIdOf s }) p 4 true
    (serveRead s q p.addr.toNat p.size)

/-- R304. -/
def execWriteRequest (port : Nat) (p : Packet) (s : State) : Answer :=
  request s port p 2 fun s q => answer s (.writeRequest port { p with mc := false, dest := fabIdOf s }) p 5 false
    (serveWrite s q p.addr.toNat p.data)

/-- R304, R307. -/
def execAtomicRequest (port : Nat) (p : Packet) (s : State) : Answer :=
  request s port p 3 fun s q =>
    match atomReq p with
    | none => .next (respond s p 6 [] false)
    | some r =>
      answer s (.atomicRequest port { p with mc := false, dest := fabIdOf s }) p (if r.ret then 4 else 5) r.ret
        (serveAtom s q p.addr.toNat r)

/-! Responses (R304) -/

/-- A request is no longer outstanding. -/
def endReq (s : State) (tag : Word) : State := { s with fabReqs := s.fabReqs.filter fun r => r.rtag != tag }

/-- A waiting sequencer, or the place to which it goes back, has its bytes; with its last tag it issues again. -/
def Seq.arrive (tag : Word) (a : Nat) (bs : List Byte) (x : Seq) : Seq :=
  if !x.rtags.contains tag then x
  else
    let l := x.rtags.filter (· != tag)
    { x with fab := fabPut x.fab a bs, rtags := l, hold := if l = [] ∧ x.hold = some .fabric then none else x.hold }

def SeqSave.arrive (tag : Word) (a : Nat) (bs : List Byte) (x : SeqSave) : SeqSave :=
  if !x.rtags.contains tag then x
  else
    let l := x.rtags.filter (· != tag)
    { x with fab := fabPut x.fab a bs, rtags := l, hold := if l = [] ∧ x.hold = some .fabric then none else x.hold }

/-- A request that a replay of the context waits for (R271). -/
def replayReq (s : State) (r : FabReq) : Bool := (getCtx s r.ctx).any fun c => c.retags.contains r.rtag

/-- The bytes of a response reach the access that asked for them. -/
def arriveBytes (s : State) (r : FabReq) (bs : List Byte) : State :=
  if replayReq s r then
    modCtx s r.ctx fun c => { c with refab := fabPut c.refab r.addr bs, retags := c.retags.filter (· != r.rtag) }
  else
  match r.xfer with
  | some n => modXfer s r.ctx n fun x => { x with fab := fabPut x.fab r.addr bs, rtags := x.rtags.filter (· != r.rtag) }
  | none =>
    let g (v : SeqSave) : SeqSave := if v.seq = r.seq then v.arrive r.rtag r.addr bs else v
    modCtx s r.ctx fun c =>
      { c.modSeq r.seq (Seq.arrive r.rtag r.addr bs) with
        frames := c.frames.map fun f => { f with saves := f.saves.map g } }

/-- A write is acknowledged. -/
def ackWrite (s : State) (r : FabReq) : State :=
  match r.xfer with
  | some n => modXfer s r.ctx n fun x => { x with rtags := x.rtags.filter (· != r.rtag) }
  | none => s

/-- The instruction whose store, reduction or transfer sent a request. -/
def reqOp (s : State) (r : FabReq) : Option Op :=
  (getCtx s r.ctx).bind fun c => (c.seq r.seq).ops.find? fun o =>
    match r.xfer, o.kind with
    | some n, _ => o.ofXfer n
    | none, .fabric l _ | none, .credit _ _ l _ => l.contains r.rtag
    | _, _ => false

/-- Where a sequencer waits for a response: in how many handlers, and the age of its instruction. -/
def reqPlace (c : Ctx) (r : FabReq) : Option (Nat × Nat) :=
  if (c.seq r.seq).rtags.contains r.rtag then some (c.frames.length, (c.seq r.seq).age)
  else c.savedPlace r.seq fun v => v.rtags.contains r.rtag

/-- A read that fails: the wait is given back where the access stood. -/
def failPlace (q : Seqr) (tag : Word) (c : Ctx) : Ctx :=
  if (c.seq q).rtags.contains tag then restoreWait q c else c.withdrawSaves q fun v => v.rtags.contains tag

/-- A read of a replay that fails: with an error response its inputs have changed, without one a second error is met (R272,
R273; DESIGN CHOICE, log entry 83). -/
def failRefab (s : State) (r : FabReq) (cause : Nat) : State :=
  match getCtx s r.ctx with
  | none => s
  | some c =>
    match c.replay with
    | none => s
    | some k => failReplay s c k (if cause = 0x12 then 0 else 1)

/-- A request that has failed raises its trap: before effect for a read, imprecise for a write, whose data is lost. -/
def failReq (s : State) (r : FabReq) (cause : Nat) : State :=
  let addr : Word := if cause = 0x0B then BitVec.ofNat 64 r.va else 0
  let s1 := endReq s r.rtag
  if r.isRead then
    let s2 := { s1 with fabReqs := s1.fabReqs.filter fun o =>
      !(o.ctx == r.ctx && o.seq == r.seq && o.xfer == r.xfer && o.isRead) }
    if replayReq s r then failRefab s2 r cause
    else
    match r.xfer with
    | some n =>
      match (getCtx s2 r.ctx).bind fun c => getXfer c n with
      | none => s2
      | some x =>
        let t := xferTrap s2 r.ctx x cause addr
        (match x.kind with
         | .wld w => slotFree t r.ctx w.ws
         | _ => t)
    | none =>
      match (getCtx s2 r.ctx).bind fun c => reqPlace c r with
      | none => s2
      | some d =>
        raiseTrap (modCtx s2 r.ctx (failPlace r.seq r.rtag)) r.ctx
          { mkTrap r.seq cause 0 addr with depth := d.1, age := d.2 }
  else
    let o := reqOp s r
    raiseLater (ackWrite s1 r) r.ctx
      { mkTrap r.seq cause 0 addr with depth := (o.map Op.depth).getD 0, age := (o.map Op.age).getD 0 }

/-- A response that arrives: dropped with its log entry, unknown, or for an outstanding request. -/
def response (s : State) (port : Nat) (p : Packet) (type : BitVec 8) (f : State → FabReq → Answer) : Answer :=
  if !forUs s port p type then notNow s
  else if !tagArrives s port p.ptag then .next (logDrop s true port p.ptag p.src.toNat)
  else
    match s.fabReqs.find? fun r => r.rtag == p.rtag with
    | none => .next (acceptPacket s port p)
    | some r => f (acceptPacket s port p) r

/-- R304. -/
def execReadResponse (port : Nat) (p : Packet) (s : State) : Answer :=
  response s port p 4 fun s r =>
    if r.isRead && p.data.length == r.size then .next (arriveBytes (endReq s r.rtag) r p.data)
    else notNow s

/-- R304. -/
def execWriteAcknowledgement (port : Nat) (p : Packet) (s : State) : Answer :=
  response s port p 5 fun s r =>
    if r.isRead then notNow s else .next (ackWrite (endReq s r.rtag) r)

/-- R304. -/
def execErrorResponse (port : Nat) (p : Packet) (s : State) : Answer :=
  response s port p 6 fun s r => .next (failReq s r 0x0B)

/-! Losses (R304, R305) -/

/-- R304: 64 µs without a response. -/
def execFabricRequestTimeout (rtag : Word) (s : State) : Answer :=
  match s.fabReqs.find? fun r => r.rtag == rtag with
  | none => notNow s
  | some r =>
    if r.since + 115200 ≤ s.cycle then .next (failReq s r 0x12)
    else notNow s

/-- A port is lost with the requests in flight on it; the loss is reported. -/
def loseFabric (s : State) (port : Nat) : State :=
  let s1 := reportReeve (optisLog { s with fabDown := s.fabDown ++ [port] } 10 port) 10 port
  (s.fabReqs.filter fun r => r.port == port).foldl (fun t r =>
    if t.fabReqs.any (fun o => o.rtag == r.rtag) then failReq t r 0x12 else t) s1

/-- R305. -/
def execFabricAckTimeout (port : Nat) (s : State) : Answer :=
  if portLive s port then .next (loseFabric s port) else notNow s

/-- R305. -/
def execFabricLinkDown (port : Nat) (s : State) : Answer :=
  if portLive s port then .next (loseFabric s port) else notNow s

/-! Shards, burgees and other packets (R185, R187, R302, R305) -/

/-- A shard for the load in progress. -/
def takeShard (s : State) (p : Packet) : State :=
  match s.load with
  | none => s
  | some l =>
    let n := p.addr.toNat
    if !l.active || l.shards ≤ n || l.got.getD n true then s
    else
      let l1 := { l with origin := p.src }
      let s1 := { s with load := some l1 }
      if shardOk l1 n p.data then putShard s1 l1 n p.data else shardFailed s1 l1 n

/-- R185, R302, R305. The event carries the whole shard (DESIGN CHOICE, log entry 24). -/
def execShard (port : Nat) (p : Packet) (s : State) : Answer :=
  if !forUs s port p 7 then notNow s
  else if !tagArrives s port p.ptag then .next (logDrop s true port p.ptag p.src.toNat)
  else .next (takeShard (acceptPacket s port p) p)

/-- R185: the source reads the shard again and sends it by unicast; it waits for a page that a SCOPY holds (R376). -/
def execShardRequest (port : Nat) (p : Packet) (s : State) : Answer :=
  if !forUs s port p 8 then notNow s
  else if !tagArrives s port p.ptag then .next (logDrop s true port p.ptag p.src.toNat)
  else
    let s := acceptPacket s port p
    match s.load with
    | none => .next s
    | some l =>
      let n := p.addr.toNat
      let a := l.source + n * l.size
      if l.source = 0 || l.shards ≤ n || !physOk s a l.size then .next s
      else if spanHeld s a l.size then .next (stall s (.shardRequest port { p with mc := false, dest := fabIdOf s }))
      else .next (sendShard s false p.src.toNat n (physRead s 0 a l.size))

/-- R305: filtered as tag 0 and passed on towards the pod router (DEDUCED, log entry 25). -/
def execBurgee (port : Nat) (p : Packet) (s : State) : Answer :=
  if !(portLive s port && p.type == 0x31) then notNow s
  else if !tagArrives s port 0 then .next (logDrop s true port 0 p.src.toNat)
  else if s.burgeeDst = 0 then .next s
  else
    match routePort s s.burgeeDst.toNat with
    | none => .next s
    | some k => .next (if k = port then s else sendOn s k s.burgeeDst.toNat 0 (.packet k p))

/-- R305. -/
def execOtherPacketType (port : Nat) (p : Packet) (s : State) : Answer :=
  if portLive s port && p.type != 0x31 && (p.type == 0 || 8 < p.type.toNat) then
    .next (logDrop s true port p.ptag p.src.toNat)
  else notNow s

end Sys2Proof.Machine
end

