-- ==== Sys2Proof/Machine/Polders.lean ====
section
/-! DEFINITION. Polders: their controls, activation and destruction, the commons, keys, and the periods of metering,
bandwidth floors and atomic credits (R110, R283 to R290, R299, R300, R306, R307, R422, R427, R428). -/

namespace Sys2Proof.Machine

/-! Checks of activation (R286) -/

def isActive (s : State) (p : Nat) : Bool := (s.polders.getD p .reset).state == 2

/-- The polders other than p. -/
def otherPolders (s : State) (p : BitVec 4) : List Polder :=
  ((List.range 16).filter fun n => n != p.toNat).map fun n => s.polders.getD n .reset

/-- Check 3 for the controls d of polder p. -/
def qosOk (s : State) (p : BitVec 4) (d : Polder) : Bool :=
  let all := d :: (otherPolders s p).filter fun o => o.state == 2
  (List.range 128).all (fun ch => (all.filter fun o => o.chans.getLsbD ch).foldl (fun n o => n + o.floor) 0 ≤ 64)
    && all.foldl (fun n o => n + o.atomc) 0 ≤ 4096 && 4 ≤ d.atomc

/-- ERR of an activation of polder p with the controls d. -/
def activateErr (s : State) (p : BitVec 4) (d : Polder) : BitVec 4 :=
  let others := ((List.range 16).filter fun n => n != p.toNat).map fun n => (n, s.polders.getD n .reset)
  if d.cores &&& s.commons ≠ 0 then 1
  else if others.any fun o =>
      o.1 != 0 && o.2.state == 2 && d.cores &&& o.2.cores != 0 && !(d.tslice && o.2.tslice) then 1
  else if d.vf = 0 || others.any (fun o => o.2.state != 0 && o.2.vf == d.vf) then 2
  else if !qosOk s p d then 3
  else if others.any fun o => o.2.state != 0 && o.2.keys &&& d.keys != 0 then 4
  else if d.qdepth = 0 then 5
  else 0

/-! SYS.PDCTL (R284, R285, R290, R422) -/

def pdctlWord (s : State) (p : BitVec 4) : Word :=
  let d := getPolder s p
  (d.state ++ BitVec.ofBool d.tslice ++ BitVec.ofBool d.cvperm ++ d.tclass ++ d.ptag ++ d.vf ++ d.tdi ++ d.err ++ 0#24
    ++ d.qdepth).cast (by decide)

/-- The RW fields of a written word. -/
def pdctlFields (v : Word) (d : Polder) : Polder :=
  { d with
    tslice := v.getLsbD 61, cvperm := v.getLsbD 60, tclass := v.extractLsb' 58 2, ptag := v.extractLsb' 50 8
    vf := v.extractLsb' 46 4, qdepth := v.extractLsb' 0 16 }

/-- Every field of the polder's registers reset, in STATE 01. Its stage-2 root is no register of its own (DEDUCED, log
entry 26). -/
def configured (d : Polder) : Polder := { Polder.reset with state := 1, s2en := d.s2en, s2root := d.s2root }

/-- Nothing of the polder is resident, is saved or is queued. -/
def polderIdle (s : State) (p : BitVec 4) : Bool :=
  residentCtxs s p == [] && !s.saved.any (fun v => v.ctx.polder == p) && (getPolder s p).queue == []

/-- A held TSUB into a polder that leaves ACTIVE finds its TARGET refused, in a handler of X as well once X is back at it
(R103, R112, R399). -/
def failSub (s : State) (h : HeldSub) : State :=
  let s := { s with heldSubs := s.heldSubs.filter fun o => o.ctx != h.ctx }
  let t := mkTrap .X 0x0E 2 0
  let held (v : SeqSave) : Bool := v.hold == some .queue
  match getCtx s h.ctx with
  | none => s
  | some c =>
    match (if c.x.hold = some .queue then none else c.savedPlace .X held) with
    | none => trapBefore s h.ctx .X t
    | some d => raiseTrap (modCtx s h.ctx fun c => c.withdrawSaves .X held) h.ctx { t with depth := d.1, age := d.2 }

def failSubs (s : State) (p : BitVec 4) : State := (s.heldSubs.filter fun h => h.launch.polder == p).foldl failSub s

/-- A write of STATE 01. -/
def configurePolder (s : State) (p : BitVec 4) : State :=
  let d := getPolder s p
  if p = 0 then s
  else if d.state = 0 || (d.state == 2 && d.tdi == 0 && polderIdle s p) then failSubs (modPolder s p configured) p
  else s

/-- A function's MSI-X state after a function reset (R291). -/
def resetFn (s : State) (f : Nat) : State := modFn s f fun _ => .reset

/-- A write of STATE 10 with a word, while STATE is 01. -/
def activatePolder (s : State) (p : BitVec 4) (v : Word) : State :=
  let d := pdctlFields v (getPolder s p)
  let e := activateErr s p d
  let s1 := modPolder s p fun _ => { d with err := e }
  if e ≠ 0 then s1
  else resetFn (modPolder s1 p fun d => { d with state := 2, nextSeq := 1 }) d.vf.toNat

/-! Destruction (R288) -/

/-- A task of the polder that has not begun is cancelled. -/
def dropTasks (s : State) (p : BitVec 4) : State :=
  (getPolder s p).queue.foldl (fun t l =>
    ((List.range l.tasks.length).zip l.tasks).foldl (fun u x =>
      match x.2 with
      | .queued | .routed _ | .held _ => (cancelTask u { polder := p, seq := l.seq, index := x.1 } x.2).1
      | _ => u) t) s

/-- Members of the polder in released and running buntings are parked. -/
def parkPolder (s : State) (p : BitVec 4) : State :=
  (s.buntings.filter fun b => b.replay.isNone).foldl (fun t b =>
    ((List.range b.members.length).zip b.members).foldl (fun u m =>
      if m.2.task.polder = p then parkMember u b.id (m.1 + 1) 0x17 0 else u) t) s

/-- The saved contexts of a polder are discarded. -/
def discardSaved (s : State) (p : BitVec 4) : State :=
  restoreDone { s with
    saved := s.saved.filter fun v => v.ctx.polder != p
    cores := s.cores.map fun k => { k with shadow := if k.shadow = some p then none else k.shadow } }

/-- A destruction, or the quiescing of R294, begins: contexts end, those in ENDING too, tasks that have not begun are
cancelled, members are parked, and residency entries go before another polder's task is placed (R179). It completes once
every context has retired. -/
def startDestroy (s : State) (p : BitVec 4) (stop : Bool) : State :=
  let s1 := modPolder s p fun d => { d with state := 3, stopping := stop }
  let live := (residentCtxs s1 p).filter fun c => c.life != .retired
  let s2 := live.foldl (fun t c => endCtx t c.id 0x17) s1
  failSubs (parkPolder (retireVersions (dropTasks (discardSaved (dropResid s2 p) p) p)) p) p

/-- A write of STATE 11. -/
def destroyPolder (s : State) (p : BitVec 4) : State :=
  let d := getPolder s p
  if p ≠ 0 ∧ (d.state = 1 ∨ d.state = 2) then startDestroy s p false else s

/-- The token of a launch that a reeve submitted into the polder is posted, with abnormal, or held where its word does not
translate; the others are discarded. A token so held no longer counts in the queue of the polder (DESIGN CHOICE, log
entry 84). -/
def settleToken (p : BitVec 4) (s : State) (l : Launch) : State :=
  if asidPolder s l.complAsid = p ∨ l.compl = 0 then s
  else
    (addToken s l.complAsid l.compl true).getD { s with lateTokens := s.lateTokens ++ [(p, l.complAsid, l.compl)] }

/-- A key slot erased (R299, R427). -/
def eraseKey (s : State) (k : Nat) : State :=
  { s with keys := s.keys.modify k (fun y => { y with gen := s.nextGen, sealKey := none, lastctr := 0 })
           nextGen := s.nextGen + 1 }

/-- The leaves of a stage-2 tree below a table: page and length in pages of 64 KiB. -/
def stage2Leaves (s : State) : Nat → Nat → List (Nat × Nat)
  | 0, _ => []
  | l + 1, t =>
    (tableEntries s t).flatMap fun ea =>
      let e := readPte s 0 ea
      if e.type = 0 || e.malformed true (l + 1) then []
      else if e.type = 1 then [(e.oa, 2 ^ (13 * l))]
      else if isHbm s e.oa then stage2Leaves s l e.oa
      else []

/-- Every page mapped through the polder's stage-2 tables joins the scrub queue once, and none counts as used any more; vault
pages are the device's (DEDUCED, log entry 27). -/
def scrubMapped (s : State) (p : BitVec 4) : State :=
  let q := getPolder s p
  if !q.s2en || !isHbm s (q.s2root.toNat * 65536) then s
  else
    let pages := ((stage2Leaves s 3 (q.s2root.toNat * 65536)).flatMap fun x =>
      (List.range x.2).map fun i => x.1 + 65536 * i).eraseDups
    (pages.filter fun a => !inVault s a).foldl scrubPage s

/-- Steps 2 to 5 that settle what is left. -/
def settlePolder (s : State) (p : BitVec 4) : State :=
  let d := getPolder s p
  let s1 := d.queue.foldl (settleToken p) (modPolder s p fun d => { d with queue := [] })
  let mine (i : FaultInfo) : Bool := i.polder == p
  let s2 := { s1 with
    heldFires := s1.heldFires.filter fun f => f.polder != p
    fires := s1.fires.filter fun f => f.polder != p
    watches := s1.watches.filter fun w => w.polder != p
    faults := s1.faults.filter fun e => !mine e.info
    roomWait := s1.roomWait.filter fun e => !mine e.1 }
  let s3 := applyRnpool
    (modPolder (dropResid s2 p) p fun d => { d with sublog := .empty, parklog := .empty, pgPend := none, pgPages := [] }) p
  let s4 := ((List.range 32).filter fun k => d.keys.getLsbD k).foldl eraseKey s3
  retireImages (scrubMapped s4 p)

/-- The destruction can complete: no context of the polder is left. It reads the stage-2 tables, and waits for pages that a
SCOPY holds (R376). -/
def destroyDue (s : State) (p : BitVec 4) : Bool := (getPolder s p).state == 3 && residentCtxs s p == [] && heldPages s == []

/-- An accepted SCOPY of the polder that has not ended will end as a tag failure (R429). -/
def cutScopy (p : BitVec 4) (x : Transfer) : Transfer :=
  match x.kind with
  | .scopy d dst src len ctr slot key spans none =>
    if key.isSome && x.agent.polder == p then { x with kind := .scopy d dst src len ctr slot key spans (some 1) } else x
  | _ => x

/-- TDI set; a polder that leaves RUN cuts its SCOPYs. -/
def setTdi (s : State) (p : BitVec 4) (v : BitVec 2) : State :=
  let s1 := modPolder s p fun d => { d with tdi := v }
  if (getPolder s p).tdi = 2 ∧ v ≠ 2 then
    { s1 with
      ctxs := s1.ctxs.map fun c => { c with xfers := c.xfers.map (cutScopy p) }
      saved := s1.saved.map fun w => { w with ctx := { w.ctx with xfers := w.ctx.xfers.map (cutScopy p) } } }
  else s1

/-- The end of a destruction, or of a quiescing with its answer. A locked or running interface is left in ERROR (R294). -/
def endDestroy (s : State) (p : BitVec 4) : State :=
  let t := settlePolder s p
  if (getPolder s p).stopping then
    putOut (modPolder t p fun d => { d with state := 1, stopping := false, tdi := 0 })
      (.tdisp (getPolder s p).vf.toNat 0 [])
  else modPolder (if (getPolder s p).tdi = 1 ∨ (getPolder s p).tdi = 2 then setTdi t p 3 else t) p fun d => { d with state := 0 }

/-- R285. -/
def execPdctlConfigure (p : BitVec 4) (s : State) : Answer := .next (configurePolder s p)

/-- R285, R286, R290, R422: a write of STATE 10. -/
def writeState10 (s : State) (p : BitVec 4) (v : Word) : State :=
  if p = 0 then
    if v.extractLsb' 0 16 = 0 then s else modPolder s 0 fun d => { d with qdepth := v.extractLsb' 0 16 }
  else if (getPolder s p).state = 1 then activatePolder s p v
  else s

/-- R110, R285, R286, R291, R422. -/
def execPdctlActivate (p : BitVec 4) (v : Word) (s : State) : Answer := .next (writeState10 s p v)
/-- R285, R288. -/
def execPdctlDestroy (p : BitVec 4) (s : State) : Answer := .next (destroyPolder s p)

/-- R288, R294. -/
def execPolderDestroyComplete (p : BitVec 4) (s : State) : Answer :=
  if destroyDue s p then .next (endDestroy s p) else notNow s

/-- A write of SYS.PDCTL. Of polder 0 only QDEPTH changes. -/
def writePdctl (s : State) (p : BitVec 4) (v : Word) : State :=
  let n := v.extractLsb' 62 2
  let cur := (getPolder s p).state
  if p = 0 then writeState10 s p v
  else if n = cur then (if cur = 1 then modPolder s p (pdctlFields v) else s)
  else if n = 1 then configurePolder s p
  else if n = 2 then writeState10 s p v
  else if n = 3 then destroyPolder s p
  else s

/-! The other SYS.PD registers (R285 to R290) -/

/-- A field of the polder may be written. -/
def pdOpen (s : State) (p : BitVec 4) : Bool := p == 0 || (getPolder s p).state == 1

/-- A write of a control: of polder 0 one that would break check 3 is ignored. -/
def writePd (s : State) (p : BitVec 4) (f : Polder → Polder) : State :=
  if !pdOpen s p || (p == 0 && !qosOk s 0 (f (getPolder s 0))) then s else modPolder s p f

/-- A 64-bit word of a wider set. -/
def setWord {w : Nat} (x : BitVec w) (k : Nat) (v : Word) : BitVec w :=
  (x &&& ~~~ ((BitVec.allOnes 64).setWidth w <<< (64 * k))) ||| (v.setWidth w <<< (64 * k))

def writePdcore (s : State) (p : BitVec 4) (k : Nat) (v : Word) : State :=
  writePd s p fun d => { d with cores := setWord d.cores k v }

def writePdchan (s : State) (p : BitVec 4) (k : Nat) (v : Word) : State :=
  writePd s p fun d => { d with chans := setWord d.chans k v }

/-- FLOOR above 64 and ATOMC above 4,096 keep their fields. -/
def writePdqos (s : State) (p : BitVec 4) (v : Word) : State :=
  let f := (v.extractLsb' 0 7).toNat
  let a := (v.extractLsb' 32 13).toNat
  writePd s p fun d => { d with floor := if f ≤ 64 then f else d.floor, atomc := if a ≤ 4096 then a else d.atomc }

def writePdcomm (s : State) (p : BitVec 4) (v : Word) : State :=
  if v.getLsbD 31 then s else writePd s p fun d => { d with share := (v.extractLsb' 0 31).toNat }

def writePdkeys (s : State) (p : BitVec 4) (v : Word) : State :=
  if p = 0 then s else writePd s p fun d => { d with keys := v.extractLsb' 0 32 }

def pdcommWord (s : State) (p : BitVec 4) : Word :=
  let d := getPolder s p
  (BitVec.ofInt 32 d.bal ++ BitVec.ofNat 32 d.share).cast (by decide)

def pdqosWord (s : State) (p : BitVec 4) : Word :=
  let d := getPolder s p
  (0#19 ++ BitVec.ofNat 13 d.atomc ++ 0#25 ++ BitVec.ofNat 7 d.floor).cast (by decide)

/-! The commons (R286) -/

/-- A write that would meet an ACTIVE polder's core set that is not time-sliced, other than polder 0's, is ignored. -/
def writeCommons (s : State) (k : Nat) (v : Word) : State :=
  let c := setWord s.commons k v
  if (otherPolders s 0).any fun d => d.state == 2 && !d.tslice && d.cores &&& c != 0 then s else { s with commons := c }

/-- R286. -/
def execCommons (k : BitVec 2) (v : Word) (s : State) : Answer :=
  if k = 3 then notNow s else .next (writeCommons s k.toNat v)

/-! Keys (R299, R300, R427, R428) -/

/-- The slot belongs to an ACTIVE polder. -/
def keyTaken (s : State) (k : Nat) : Bool := s.polders.any fun d => d.state == 2 && d.keys.getLsbD k

def generateKey (s : State) (k : Nat) : State :=
  if keyTaken s k then s
  else { s with keys := s.keys.modify k (fun y => { y with gen := s.nextGen }), nextGen := s.nextGen + 1 }

def eraseSlot (s : State) (k : Nat) : State := if keyTaken s k then s else eraseKey s k

/-- R299. -/
def execKeyctlGenerate (k : BitVec 5) (s : State) : Answer := .next (generateKey s k.toNat)
/-- R299, R427. -/
def execKeyctlErase (k : BitVec 5) (s : State) : Answer := .next (eraseSlot s k.toNat)

/-- A write of SYS.KEYCTL. -/
def writeKeyctl (s : State) (v : Word) : State :=
  let k := (v.extractLsb' 0 5).toNat
  if v.extractLsb' 8 2 = 1 then generateKey s k else if v.extractLsb' 8 2 = 2 then eraseSlot s k else s

/-- A write of SYS.SEALLD for polder p, its block read in the writer's address space. -/
def writeSealld (s : State) (c : Ctx) (p : BitVec 4) (v : Word) : State :=
  let done (t : State) (n : Nat) : State := modPolder t p fun d => { d with sealst := BitVec.ofNat 8 n }
  match checkAccess s (agentOf s c) .read v.toNat 64 64 with
  | .ok segs =>
    if segs.any Seg.fabric || segsPoisoned s segs then done s 2
    else
      let b := segsRead s segs
      let t := noteAccess s (agentOf s c) .read segs
      let k := natAt b 36 1
      if natAt b 37 27 ≠ 0 then done t 2
      else if 32 ≤ k || !(getPolder t p).keys.getLsbD k then done t 1
      else
        done { t with keys := t.keys.modify k fun y =>
          { y with sealKey := some (BitVec.ofNat 256 (natAt b 0 32), BitVec.ofNat 32 (natAt b 32 4)) } } 0
  | _ => done (if spanOk v.toNat 64 then touch s (agentOf s c) .read (granules 2 v.toNat 64) else s) 2

/-- The load waits: its block is being copied, or not yet filled (R117, R301). -/
def sealldWaits (s : State) (c : Ctx) (v : Word) : Bool :=
  spanOk v.toNat 64 && v.toNat % 64 == 0 && waits s (agentOf s c) .read v.toNat 64

/-- R300, R428. -/
def execSealld (id : CtxId) (v : Word) (s : State) : Answer :=
  match getCtx s id with
  | none => notNow s
  | some c =>
    let p := regPolder s c
    .next (if polderAbsent s p then s else if sealldWaits s c v then stall s (.sealld id v) else writeSealld s c p v)

/-! Periods (R287, R306, R307) -/

/-- R287. -/
def execCommonsMeteringPeriod (s : State) : Answer :=
  if s.cycle % 65536 = 0 then .next { s with polders := s.polders.map fun d => { d with bal := d.share } }
  else notNow s

/-- R306: a bandwidth-floor window begins. -/
def execQosWindow (s : State) : Answer :=
  if s.cycle % 4096 = 0 then .next { s with qosStart := s.cycle } else notNow s

/-- The units of every slice: those of each ACTIVE polder; unused ones lapse. -/
def creditUnits (s : State) : List (Nat × Nat × Nat) :=
  (List.range 16).flatMap fun k =>
    ((List.range 16).filter fun p => isActive s p).map fun p => (k, p, (s.polders.getD p .reset).atomc)

/-- R307; what waits for credits from outside is made again. -/
def execAtomicCredit (s : State) : Answer :=
  if s.cycle % 1024 = 0 then
    .next (unstall { s with dies := s.dies.map fun d => { d with credits := creditUnits s } })
  else notNow s

end Sys2Proof.Machine
end

