-- ==== Sys2Proof/Machine/Sys.lean ====
section
/-! DEFINITION. SYSRD and SYSWR over every system register, TLBINV and PSDONE (R6, R41, R61, R65, R88, R111, R119, R122, R123,
R126, R132, R158 to R160, R169, R188, R201, R207, R234, R235, R243, R246, R247, R249, R251, R254, R257, R261, R263, R265,
R276, R279, R280, R286, R299, R302, R303, R305, R312, R369, R379 to R383, R390). -/

namespace Sys2Proof.Machine

/-! Privilege and instance (R379 to R381) -/

/-- The minimum privilege of a register: 0 task, 1 steward, 2 reeve. -/
def sysMin (r : SysReg) : Nat :=
  let n := (sysCode r).toNat
  if n < 0x010 then 0
  else if n < 0x018 then 1
  else if n < 0x020 then 2
  else if n = 0x020 ∨ n = 0x022 then 1
  else if n = 0x021 then 2
  else if 0x100 ≤ n ∧ n < 0x110 then 1
  else if n = 0x307 then 1
  else 2

/-- Check 4 of a SYSRD or SYSWR; a steward of a polder with CVPERM may use two more registers. -/
def sysAllowed (s : State) (c : Ctx) (r : SysReg) : Bool :=
  sysMin r ≤ privNat c.effPriv
    || ((r == .cvadmit || r == .cvstat) && c.effPriv == .steward && (getPolder s (effPolder s c)).cvperm)

/-- Check 5: the tests of R207 and R235 below reeve privilege. -/
def sysTested (s : State) (c : Ctx) (r : SysReg) : Bool :=
  c.effPriv == .reeve ||
    (match r with
     | .prctl => (getRegion s c.prsel.toNat).owner == effPolder s c
     | .asroot => (getAsid s c.asselA).valid && (getAsid s c.asselA).polder == effPolder s c
     | _ => true)

/-- A per-context register. -/
def sysCtx (r : SysReg) : Bool := (sysCode r).toNat < 0x020

/-! Words -/

/-- SYS.PLACE (R65). -/
def placeWord (c : Ctx) : Word :=
  let g := c.gang.map fun g => g.pos
  (0#50 ++ BitVec.ofBool g.isSome ++ BitVec.ofNat 3 (g.getD 0) ++ BitVec.ofNat 2 c.id.slot ++ BitVec.ofNat 8 c.id.core).cast
    (by decide)

/-- SYS.BUNTING (R169). -/
def buntingWord (s : State) (c : Ctx) : Word :=
  match c.neutral.bind (bunting s) with
  | none => 0
  | some b =>
    let n := buntingRows b
    (0#40 ++ BitVec.ofNat 4 ((n + 31) / 32) ++ BitVec.ofNat 7 b.members.length ++ 0#4 ++ BitVec.ofNat 9 n).cast (by decide)

/-- SYS.WBASE (R169, R201). -/
def wbaseWord (s : State) (c : Ctx) : Word :=
  match (c.neutral.bind (bunting s)).bind fun b => keyVersion s b.key with
  | none => 0
  | some v => (BitVec.ofNat 40 (vaultOff s (vaultBase s v.home + 65536 * v.page))).setWidth 64

def asselWord (c : Ctx) : Word := (0#44 ++ c.asselP ++ 0#7 ++ c.asselA).cast (by decide)

def asrootWord (e : AsEntry) : Word := (BitVec.ofBool e.valid ++ e.polder ++ 0#7 ++ e.root ++ 0#16).cast (by decide)

def s2rootWord (d : Polder) : Word := (BitVec.ofBool d.s2en ++ 0#11 ++ d.s2root ++ 0#16).cast (by decide)

def rnpoolWord (d : Polder) : Word := (0#12 ++ d.rnBase ++ d.rnSize).cast (by decide)

def pgcfgWord (d : Polder) : Word := (0#27 ++ d.pgKey ++ d.pgQuota).cast (by decide)

/-- A 64-bit word of a wider set. -/
def getWord {w : Nat} (x : BitVec w) (k : Nat) : Word := x.extractLsb' (64 * k) 64

/-- The register of a polder; one that is ABSENT reads 0. -/
def polderWord (s : State) (p : BitVec 4) (f : Polder → Word) : Word := if polderAbsent s p then 0 else f (getPolder s p)

/-- What SYSRD reads: the state after the read and the word. -/
def readSys (s : State) (c : Ctx) (r : SysReg) : State × Word :=
  let p := regPolder s c
  let d := dieOf c.id.core
  let pol (f : Polder → Word) : State × Word := (s, polderWord s p f)
  match r with
  | .fpcr => (s, c.fpcr)
  | .workid => (s, c.workid)
  | .wfields => (s, c.wfields.setWidth 64)
  | .place => (s, placeWord c)
  | .padrows => (s, c.padrows.setWidth 64)
  | .padcols => (s, c.padcols.setWidth 64)
  | .lhandle => (s, c.handle.setWidth 64)
  | .cancel => (s, (BitVec.ofBool c.cancel).setWidth 64)
  | .bunting => (s, buntingWord s c)
  | .wbase => (s, wbaseWord s c)
  | .ctxas => (s, c.asid.setWidth 64)
  | .trec => (s, c.trec)
  | .taddr => (s, c.taddr)
  | .fltaddr => (s, c.fltaddr)
  | .assel => (s, asselWord c)
  | .prsel => (s, c.prsel.setWidth 64)
  | .pdsel => (s, c.pdsel.setWidth 64)
  | .fpsel => (s, c.fpsel.setWidth 64)
  | .asroot => (s, asrootWord (getAsid s c.asselA))
  | .s2root => (s, s2rootWord (getPolder s c.asselP))
  | .prctl => (s, prctlWord s c.prsel.toNat)
  | .rnpool => pol rnpoolWord
  | .qstat => pol fun _ => qstatWord s p
  | .sublog => readSublog s c
  | .parklog => readParklog s c
  | .parkinfo => pol fun d => d.parkinfo
  | .fltq => readFltq s c false
  | .fltq2 => readFltq s c true
  | .pgstat => pol fun _ => pgstatWord s p
  | .sealst => pol fun d => d.sealst.setWidth 64
  | .tvec => pol fun d => d.tvec.setWidth 64 <<< 16
  | .pgcfg => pol pgcfgWord
  | .pbudget => pol fun d => BitVec.ofNat 64 d.pbudget
  | .savebase => pol fun d => d.saveBase.setWidth 64 <<< 16
  | .pdctl => (s, pdctlWord s p)
  | .pdcore0 => (s, getWord (getPolder s p).cores 0)
  | .pdcore1 => (s, getWord (getPolder s p).cores 1)
  | .pdcore2 => (s, getWord (getPolder s p).cores 2)
  | .pdcomm => (s, pdcommWord s p)
  | .pdchan0 => (s, getWord (getPolder s p).chans 0)
  | .pdchan1 => (s, getWord (getPolder s p).chans 1)
  | .pdqos => (s, pdqosWord s p)
  | .pdkeys => (s, (getPolder s p).keys.setWidth 64)
  | .weircfg => (s, weircfgWord s d)
  | .vaultcfg => (s, vaultcfgWord s d)
  | .sweep => (s, sweepWord s d)
  | .scrub => (s, scrubWord s d)
  | .cvstat => (s, cvstatWord s)
  | .vlstat => (s, vlstatWord s)
  | .burgeedst => (s, s.burgeeDst)
  | .poolstat => (s, poolstatWord s)
  | .rtvec => (s, s.rtvec)
  | .pstat => (s, pstatWord s)
  | .audcfg => (s, audcfgWord s)
  | .audbuf => (s, s.audbuf)
  | .audlog => readAudlog s
  | .suspect => (s, suspectWord s)
  | .commons0 => (s, getWord s.commons 0)
  | .commons1 => (s, getWord s.commons 1)
  | .commons2 => (s, getWord s.commons 2)
  | .fpmap0 => (s, getWord (s.fpmap.getD c.fpsel.toNat 0) 0)
  | .fpmap1 => (s, getWord (s.fpmap.getD c.fpsel.toNat 0) 1)
  | .fpmap2 => (s, getWord (s.fpmap.getD c.fpsel.toNat 0) 2)
  | .fpmap3 => (s, getWord (s.fpmap.getD c.fpsel.toNat 0) 3)
  | .fablog => readFablog s
  | .mkeystat => (s, mkeystatWord s)
  | .fabid => (s, s.fabid)
  | .fltres | .pgmap | .pgunmap | .sealld | .cvadmit | .cvwd0 | .cvwd1 | .vload | .pgfree | .preq | .keyctl | .mkey
  | .froute => (s, 0)

/-! Writes -/

/-- SYS.TREC: ACTION alone is RW, and 11 is ignored (R257). -/
def trecWrite (old v : Word) : Word :=
  if v.extractLsb' 56 2 = 3 then old else (old &&& ~~~ (3#64 <<< 56)) ||| (v &&& (3#64 <<< 56))

/-- SYS.ASROOT: below reeve privilege ROOT alone is written (R235). -/
def writeAsroot (s : State) (c : Ctx) (v : Word) : State :=
  let reeve := c.effPriv == .reeve
  { s with asids := s.asids.modify c.asselA.toNat fun e =>
      { e with
        root := v.extractLsb' 16 36
        valid := if reeve then v.getLsbD 63 else e.valid
        polder := if reeve then v.extractLsb' 59 4 else e.polder } }

/-- SYS.FROUTE: the ports of an endpoint or group (R305). -/
def writeFroute (s : State) (v : Word) : State :=
  let k := (v.extractLsb' 0 11).toNat
  if k < 1280 then { s with froute := alSet s.froute k (v.extractLsb' 16 12) } else s

/-- A word of the map of the port that SYS.FPSEL names (R302). -/
def writeFpmap (s : State) (c : Ctx) (k : Nat) (v : Word) : State :=
  { s with fpmap := s.fpmap.modify c.fpsel.toNat fun m => setWord m k v }

/-- The register of a polder that is not ABSENT written. -/
def polderWrite (s : State) (p : BitVec 4) (f : State → State) : State := if polderAbsent s p then s else f s

/-- What SYSWR writes. -/
def writeSys (s : State) (c : Ctx) (r : SysReg) (v : Word) : State :=
  let p := regPolder s c
  let d := dieOf c.id.core
  let own (f : Ctx → Ctx) : State := modCtx s c.id f
  let pol (f : Polder → Polder) : State := polderWrite s p fun t => modPolder t p f
  match r with
  | .fpcr => own fun c => { c with fpcr := fpcrWrite c.fpcr v }
  | .padrows => own fun c => { c with padrows := v.setWidth 16 }
  | .padcols => own fun c => { c with padcols := v.setWidth 16 }
  | .trec => own fun c => { c with trec := trecWrite c.trec v }
  | .assel => own fun x =>
      { x with asselA := v.extractLsb' 0 9, asselP := if c.effPriv = .reeve then v.extractLsb' 16 4 else x.asselP }
  | .prsel => own fun c => { c with prsel := v.setWidth 14 }
  | .pdsel => own fun c => { c with pdsel := v.setWidth 4 }
  | .fpsel => own fun c => { c with fpsel := v.setWidth 4 }
  | .asroot => writeAsroot s c v
  | .s2root => modPolder s c.asselP fun d => { d with s2en := v.getLsbD 63, s2root := v.extractLsb' 16 36 }
  | .prctl => writePrctl s (c.effPriv == .reeve) c.prsel.toNat v
  | .rnpool => polderWrite s p fun t => writeRnpool t p v
  | .fltres => writeFltres s c (v.getLsbD 9) (v.getLsbD 8) (v.extractLsb' 0 8)
  | .pgmap => polderWrite s p fun t => writePgmap t p v
  | .pgunmap => polderWrite s p fun t => writePgunmap t p v
  | .sealld => polderWrite s p fun t => writeSealld t c p v
  | .tvec => pol fun d => { d with tvec := v.extractLsb' 16 48 }
  | .pgcfg => pol fun d => { d with pgKey := v.extractLsb' 32 5, pgQuota := v.extractLsb' 0 32 }
  | .pbudget => pol fun d =>
      let b := (v.extractLsb' 0 17).toNat
      if 256 ≤ b ∧ b ≤ 65536 then { d with pbudget := b } else d
  | .savebase => pol fun d => { d with saveBase := v.extractLsb' 16 36 }
  | .pdctl => writePdctl s p v
  | .pdcore0 => writePdcore s p 0 v
  | .pdcore1 => writePdcore s p 1 v
  | .pdcore2 => writePdcore s p 2 v
  | .pdcomm => writePdcomm s p v
  | .pdchan0 => writePdchan s p 0 v
  | .pdchan1 => writePdchan s p 1 v
  | .pdqos => writePdqos s p v
  | .pdkeys => writePdkeys s p v
  | .weircfg => writeHeight s d (v.extractLsb' 0 9).toNat
  | .vaultcfg => writeVaultcfg s d (v.extractLsb' 0 8).toNat
  | .sweep => writeSweep s d v
  | .cvadmit => writeCvadmit s c.id (agentOf s c).asid v
  | .cvwd0 => { s with cvwd0 := v }
  | .cvwd1 => writeCvwd1 s v
  | .vload => writeVload s v
  | .burgeedst => writeBurgeedst s v
  | .pgfree => scrubPage s ((v.extractLsb' 16 36).toNat * 65536)
  | .rtvec => { s with rtvec := v &&& 0xFFFFFFFFFFFF01FF#64 }
  | .preq => writePreq s v
  | .audcfg => writeAudcfg s v
  | .audbuf => { s with audbuf := v &&& 0xFFFFFFFFFFFFF#64 }
  | .suspect => writeSuspect s v
  | .commons0 => writeCommons s 0 v
  | .commons1 => writeCommons s 1 v
  | .commons2 => writeCommons s 2 v
  | .keyctl => writeKeyctl s v
  | .fpmap0 => writeFpmap s c 0 v
  | .fpmap1 => writeFpmap s c 1 v
  | .fpmap2 => writeFpmap s c 2 v
  | .fpmap3 => writeFpmap s c 3 v
  | .mkey => writeMkey s v
  | .fabid => { s with fabid := v &&& 0x80000000000003FF#64 }
  | .froute => writeFroute s v
  | .workid | .wfields | .place | .lhandle | .cancel | .bunting | .wbase | .ctxas | .taddr | .fltaddr | .qstat | .sublog
  | .parklog | .parkinfo | .fltq | .fltq2 | .pgstat | .sealst | .scrub | .cvstat | .vlstat | .poolstat | .pstat | .audlog
  | .fablog | .mkeystat => s

/-! SYSRD and SYSWR -/

/-- Check 4 reads the polder's controls, so the form is that of a state. -/
def sysForm (i : Instr) (s : State) (r : SysReg) : Ctx → Form := fun c =>
  { wf := checkOne i, regs := scalarRegs i, seqs := allSeqs, queue := true, perm := sysAllowed s c r }

/-- R379 to R381, R383: it waits for every earlier instruction of its sequencer, and is an acquire at dev scope for a
register that is not per context. -/
def execSysrd (h : Hdr) (d : SReg) (r : SysReg) (s : State) : Answer :=
  issue s h (sysForm (.sysrd h d r) s r) fun c q =>
    if !sysTested s c r then .trap s 0x0B 0 0
    else if !(c.seq q).ops.all (fun o => o.done) then .wait
    else
      let x := readSys s c r
      .done (modCtx (acquireL1 x.1 c (!sysCtx r) .dev) c.id fun c => c.wS q d x.2) .plain Exc.none none

/-- What a write starts is not accepted yet: a PGUNMAP's invalidation, or a block in memory that waits (R249, R251, R301,
R376). -/
def sysWaits (s : State) (c : Ctx) (r : SysReg) (v : Word) : Bool :=
  match r with
  | .pgunmap => !polderAbsent s (regPolder s c) && unmapWaits s (regPolder s c) v
  | .sealld => !polderAbsent s (regPolder s c) && sealldWaits s c v
  | .vload => vloadWaits s v
  | .mkey => spanHeld s v.toNat 64
  | _ => false

/-- R379 to R381, R383: a release, at ctx scope for a per-context register and at dev scope for the others. -/
def execSyswr (h : Hdr) (r : SysReg) (a : SReg) (s : State) : Answer :=
  issue s h (sysForm (.syswr h r a) s r) fun c q =>
    let sc := if sysCtx r then Scope.ctx else Scope.dev
    if !sysTested s c r then .trap s 0x0B 0 0
    else if !releaseReady s c q sc then .waitRel sc
    else if sysWaits s c r (c.rS q a) then .wait
    else .done (writeSys (releaseEffect s sc) c r (c.rS q a)) .plain Exc.none none

/-! TLBINV (R122, R132, R249, R390) -/

/-- The identifier or polder may be named. -/
def tlbOk (s : State) (c : Ctx) (s2 : Bool) (v : Word) : Bool :=
  if s2 then v.toNat < 16
  else
    v.toNat < 512
      && (c.effPriv == .reeve
        || ((getAsid s (v.setWidth 9)).valid && asidPolder s (v.setWidth 9) == effPolder s c))

/-- The bytes that a TLBINV names, from the first up to the end, cut at 2^64 - 1 (R390). -/
def tlbRange (all : Bool) (b len : Word) : Nat × Nat :=
  if all then (0, 2 ^ 64) else (b.toNat, min (b.toNat + len.toNat) (2 ^ 64))

/-- The cached translations that it names go; then watched pages are looked at again, and held tokens retried. A stage-2
form retries those of launches of the polder, and those whose completion word lies in an address space of the polder
(DESIGN CHOICE, log entry 82). -/
def tlbEffect (s : State) (s2 : Bool) (v : Word) (lo hi : Nat) : State :=
  let s0 := if lo = hi then s else if s2 then dropStage2 s (v.setWidth 4) lo hi else dropStage1 s (v.setWidth 9) lo hi
  let s1 := recheckWatches s0
  if s2 then retryTokens s1 fun p a => p == v.setWidth 4 || asidPolder s1 a == v.setWidth 4
  else retryTokens s1 fun _ a => a == v.setWidth 9

/-- R249, R390. -/
def execTlbinv (h : Hdr) (s2 all : Bool) (a b e : SReg) (s : State) : Answer :=
  issue s h (fun c =>
      { wf := checkOne (.tlbinv h s2 all a b e), regs := scalarRegs (.tlbinv h s2 all a b e), seqs := [.X], queue := true
        perm := (if s2 then 2 else 1) ≤ privNat c.effPriv }) fun c q =>
    let v := c.rS q a
    if !tlbOk s c s2 v then .trap s 0x0B 0 0
    else if !releaseReady s c q .dev then .waitRel .dev
    else if translatedWait s then .wait
    else
      let r := tlbRange all (c.rS q b) (c.rS q e)
      .done (tlbEffect (releaseEffect s .dev) s2 v r.1 r.2) .plain Exc.none none

/-! PSDONE (R263, R369) -/

/-- The sequencer stops; the save follows when all four have stopped. -/
def execPsdone (h : Hdr) (a : SReg) (imm : BitVec 32) (s : State) : Answer :=
  issue s h (fun c =>
      { wf := checkOne (.psdone h a imm), regs := scalarRegs (.psdone h a imm), seqs := allSeqs, queue := true
        perm := c.inHandler s.cur.seq && c.frame.any fun f => f.preempt }) fun c q =>
    let k := (c.rS q a).toNat + imm.toNat
    if c.units < k then .trap s 0x10 0 0
    else .done (modSeq s c.id q fun x => { x with run := .psdone k }) .plain Exc.none none

end Sys2Proof.Machine
end

