-- ==== Sys2Proof/Machine/Host.lean ====
section
/-! DEFINITION. The host port: the boot register, BAR2 and configuration requests; TDISP, SPDM and IDE; module reset and
start-up, loss of power, heat and firmware (R21, R23 to R25, R291 to R297, R310, R311, R427, R429). -/

namespace Sys2Proof.Machine

/-! BOOTREC (R292) -/

/-- Polder 0 has a resident or saved context or a queued launch. -/
def bootBusy (s : State) : Bool := !polderIdle s 0

/-- PRIV of a record is taken as reeve. -/
def asReeve (r : List Byte) : List Byte := r.modify 28 fun b => (b &&& 0xE7) ||| 0x10

/-- The bytes at an address of identifier 0, or the cause of the read's failure. -/
def bootRead (s : State) (a n : Nat) : Except Nat (State × List Byte) :=
  let g := devAgent 0 0
  match checkAccess s g .read a n 1 with
  | .ok segs =>
    if segs.any Seg.fabric then .error 0x0B
    else if segsPoisoned s segs then .error 0x12
    else .ok (noteAccess s g .read segs, segsRead s segs)
  | .trap cause _ => .error cause
  | .fault _ | .fill _ | .held => .error 0x0A

/-- The launch of the record at an address, or the cause with which its checks fail. -/
def bootLaunch (s : State) (v : Word) : Except Nat (State × Launch) :=
  let y : Submitter := { polder := 0, asid := 0, priv := .reeve, tsub := true }
  if v.toNat % 256 ≠ 0 then .error 0x0E
  else
    match bootRead s v.toNat 256 with
    | .error e => .error e
    | .ok (s1, bs) =>
      match recordHead s1 y v (asReeve bs) with
      | some e => .error e.1
      | none =>
        let x := parseRecord (asReeve bs)
        let tail (t : State) (hd : List Byte) : Except Nat (State × Launch) :=
          match recordTail t x hd with
          | some e => .error e.1
          | none => .ok (t, newLaunch t y x 0 0)
        if x.coal then
          match bootRead s1 x.image.toNat 64 with
          | .error e => .error e
          | .ok (s2, hd) => tail s2 hd
        else tail s1 []

/-- A write of BOOTREC and the status that BOOTSTAT then shows. -/
def writeBootrec (s : State) (v : Word) : State :=
  if s.startup < 5 then { s with bootstat := 3 }
  else if bootBusy s then { s with bootstat := 1 }
  else
    match bootLaunch s v with
    | .error cause => { s with bootstat := BitVec.ofNat 16 (256 * cause + 2) }
    | .ok (t, l) => { (enterQueue t l).1 with bootstat := 0 }

/-- The record, or the header of its image, lies in a page that a SCOPY holds (R301). -/
def bootWaits (s : State) (v : Word) : Bool :=
  s.startup == 5 && !bootBusy s && v.toNat % 256 == 0
    && (waits s (devAgent 0 0) .read v.toNat 256
      || (match bootRead s v.toNat 256 with
          | .ok (_, bs) => waits s (devAgent 0 0) .read (parseRecord bs).image.toNat 64
          | .error _ => false))

/-- R21, R236, R292. -/
def execBootrec (v : Word) (s : State) : Answer :=
  .next (if bootWaits s v then stall s (.bootrec v) else writeBootrec s v)

/-! BAR2 (R291, R293, R298, R301) -/

/-- The polder of a function: the ACTIVE one that names it, else one that is not ABSENT. -/
def fnPolder (s : State) (fn : BitVec 4) : Option (BitVec 4) :=
  let ps := ((List.range 16).map (BitVec.ofNat 4)).filter fun p => (getPolder s p).state != 0 && (getPolder s p).vf == fn
  (ps.find? fun p => (getPolder s p).state == 2).or ps.head?

/-- A physical span that the physical function reaches (DEDUCED: an address without memory fails, log entry 30). -/
def pfOk (s : State) (wr : Bool) (a n : Nat) : Bool :=
  a + n ≤ 2 ^ 39 && isHbm s a && isHbm s (a + n - 1) && physKind a == physKind (a + n - 1) && linkUp s 4 (farDie a)
    && !(wr && (inVault s a || inVault s (a + n - 1)))

/-- A request that failed: a read completes with Unsupported Request, a posted write is dropped. -/
def barFail (s : State) (fn : BitVec 4) (wr : Bool) : State := if wr then s else putOut s (.hostData fn.toNat false [])

/-- The entry of SYS.FLTQ2 that a request's translation fault adds. -/
def barFault (s : State) (p : BitVec 4) (wr : Bool) (a : Nat) (e : WalkStop) : State :=
  (queueFault s { stage2 := true, polder := p, asid := 0, page := e.gpa, va := a, kind := BitVec.ofNat 3 e.kind
                  acc := accCode (if wr then .write else .read), level := BitVec.ofNat 2 e.level } .host false).1

/-- The pieces that the physical function reaches, through no leaf. -/
def pfSegs (off n : Nat) : List Seg :=
  (granules (n / 4096 + 2) off n).map fun g =>
    { va := g.1, pa := g.1, len := g.2, key := 0, leaf1 := none, leaf2 := none, ren := none, ok := true, tlb := none, walks := [] }

/-- Bytes written or read for a function. -/
def barMove (s : State) (fn p : BitVec 4) (segs : List Seg) (data : Option (List Byte)) : State :=
  match data with
  | some bs => segsWrite (noteAccess s (farAgent p) .write segs) (farAgent p) segs bs
  | none =>
    if segsPoisoned s segs then barFail s fn false
    else putOut (noteAccess s (farAgent p) .read segs) (.hostData fn.toNat true (segsRead s segs))

/-- A request at BAR2; none while a page of it is held (R301). A function of no ACTIVE polder answers Unsupported Request,
and so does one whose polder is in RUN to a request that does not travel on its stream (R291, R294; PRESUMED of TDISP, log
entry 30). -/
def bar2Access (s : State) (fn : BitVec 4) (off n : Nat) (data : Option (List Byte)) : Option State :=
  let wr := data.isSome
  let go (p : BitVec 4) (segs : List Seg) : Option State :=
    if segs.any fun x => pageHeld s x.pa then none else some (barMove s fn p segs data)
  if fn = 0 then (if pfOk s wr off n then go 0 (pfSegs off n) else some (barFail s 0 wr))
  else
    match fnPolder s fn with
    | none => some (barFail s fn wr)
    | some p =>
      if (getPolder s p).state ≠ 2 || ((getPolder s p).tdi == 2 && !s.ide.getD fn.toNat false) || 2 ^ 36 < off + n then
        some (barFail s fn wr)
      else
        match gpaSegs s p wr off n with
        | .error (some e) => if stopHeld (some e) then none else some (barFail (barFault s p wr off e) fn wr)
        | .error none => some (barFail s fn wr)
        | .ok segs => go p segs

/-! BAR0 (R134, R291, R292) -/

/-- The bytes of an MSI-X table entry: address, data, and the control word whose bit 0 is the mask. -/
def msixBytes (e : MsixEntry) : List Byte :=
  leBytes e.addr.toNat 8 ++ leBytes e.data.toNat 4 ++ leBytes (if e.mask then 1 else 0) 4

def msixOf (bs : List Byte) (pend : Bool) : MsixEntry :=
  { addr := BitVec.ofNat 64 (natAt bs 0 8), data := BitVec.ofNat 32 (natAt bs 8 4), mask := natAt bs 12 1 % 2 == 1, pend := pend }

/-- A byte of BAR0: the table, the pending bits, and in the physical function BOOTSTAT; every other one reads 0. -/
def bar0Byte (s : State) (fn : BitVec 4) (o : Nat) : Byte :=
  let f := getFn s fn.toNat
  if o < 1024 then (msixBytes (msixEntry f (o / 16))).getD (o % 16) 0
  else if 0x800 ≤ o ∧ o < 0x808 then
    BitVec.ofNat 8 ((List.range 8).foldl (fun n i => if (msixEntry f (8 * (o - 0x800) + i)).pend then n + 2 ^ i else n) 0)
  else if fn = 0 ∧ 0x1008 ≤ o ∧ o < 0x1010 then (leBytes s.bootstat.toNat 8).getD (o - 0x1008) 0
  else 0

/-- A byte of the table written. -/
def bar0Put (s : State) (fn : BitVec 4) (o : Nat) (b : Byte) : State :=
  if o < 1024 then
    modFn s fn.toNat fun f =>
      let e := msixEntry f (o / 16)
      { f with table := alSet f.table (o / 16) (msixOf ((msixBytes e).set (o % 16) b) e.pend) }
  else s

/-- A request at BAR0. BOOTREC is written whole, by a write of its 8 bytes; what an unmasked entry has pending is sent. -/
def bar0Access (s : State) (fn : BitVec 4) (off n : Nat) (data : Option (List Byte)) : State :=
  let wr := data.isSome
  let live := fn == 0 || (fnPolder s fn).any fun p =>
    (getPolder s p).state == 2 && ((getPolder s p).tdi != 2 || s.ide.getD fn.toNat false)
  if !live || 65536 < off + n then barFail s fn wr
  else
    match data with
    | none => putOut s (.hostData fn.toNat true ((List.range n).map fun i => bar0Byte s fn (off + i)))
    | some bs =>
      if fn = 0 ∧ off = 0x1000 ∧ n = 8 then
        let v := BitVec.ofNat 64 (natAt bs 0 8)
        if bootWaits s v then stall s (.bootrec v) else writeBootrec s v
      else
        unpend (((List.range n).zip bs).foldl (fun t x => bar0Put t fn (off + x.1) x.2) s) fn.toNat

/-- A memory request that can reach the device: none does before start-up ends (R24). It carries 1 to 4,096 bytes, as PCIe
has it (PRESUMED, log entry 30). -/
def barOpen (s : State) (size : Nat) (data : Option (List Byte)) : Bool :=
  s.startup == 5 && 0 < size && size ≤ 4096 && (match data with | some bs => bs.length == size | none => true)

/-- A posted write of the host that waits. Neither a later write nor a later read passes it: the device answers a function's
requests in the order of PCIe (R231). -/
def postedWaits (s : State) : Bool :=
  s.stalled.any fun i => match i with | .hostBar2Access _ _ _ (some _) | .bootrec _ => true | _ => false

/-- R21, R24, R231, R291 to R294, R298, R301. -/
def execHostBar2Access (fn : BitVec 4) (off : BarPlace) (size : Nat) (data : Option (List Byte)) (s : State) : Answer :=
  if !barOpen s size data then notNow s
  else if postedWaits s then .next (stall s (.hostBar2Access fn off size data))
  else if off.bar0 then .next (bar0Access s fn off.off size data)
  else .next ((bar2Access s fn off.off size data).getD (stall s (.hostBar2Access fn off size data)))

/-- R24. -/
def execConfigurationRequest (s : State) : Answer := .next (putOut s (.config (s.startup < 5)))

/-! TDISP (R294, R429) -/

/-- A TDISP answer: code 0 and a body, or code 1, an error. -/
def tdispAnswer (s : State) (fn : BitVec 4) (code : Nat) (body : List Word) : State :=
  putOut s (.tdisp fn.toNat code body)

/-- A request to a function's TDISP interface within a secured session. -/
def tdisp (s : State) (fn : BitVec 4) (f : State → State) : Answer :=
  if s.startup = 5 ∧ s.spdm ≠ [] then .next (if fn = 0 then tdispAnswer s fn 1 [] else f s)
  else notNow s

/-- The polder of an interface. -/
def withFn (s : State) (fn : BitVec 4) (f : BitVec 4 → State) : State :=
  match fnPolder s fn with
  | some p => f p
  | none => tdispAnswer s fn 1 []

/-- The interface's state; a function without a polder is unlocked. -/
def fnTdi (s : State) (fn : BitVec 4) : BitVec 2 := ((fnPolder s fn).map fun p => (getPolder s p).tdi).getD 0

/-- The measurements of R297 of a die's slot: index and the eight words of each. -/
def measureBlock (s : State) (i : Nat) : List Word :=
  let v : BitVec 512 :=
    if i = 5 then ((List.range 4).filter fun d => (getDie s d).present).foldl (fun m d => m ||| (1#512 <<< d)) 0
    else Config.measurement i s.firmware
  BitVec.ofNat 64 i :: (List.range 8).map fun k => v.extractLsb' (64 * k) 64

/-- The measurement indices that a slot owns. -/
def slotIndices (slot : Nat) : List Nat :=
  (List.range 4).map (fun i => 16 * slot + 1 + i) ++ (if slot = 0 then [5] else [])

/-- The slot's die is there; slot 0 is the I/O die's. -/
def slotPresent (s : State) (slot : Nat) : Bool := slot == 0 || (getDie s (slot - 1)).present

/-- The interface report. -/
def reportWords (s : State) (p : BitVec 4) : List Word :=
  let d := getPolder s p
  [p.setWidth 64, getWord d.cores 0, getWord d.cores 1, getWord d.cores 2, getWord s.commons 0, getWord s.commons 1
   , getWord s.commons 2, getWord d.chans 0, getWord d.chans 1, pdqosWord s p, d.keys.setWidth 64, d.ptag.setWidth 64
   , d.qdepth.setWidth 64]
    ++ ((List.range 5).filter (slotPresent s)).flatMap fun k => (slotIndices k).flatMap (measureBlock s)

/-- R294: TDISP 1.0. -/
def execGetTdispVersion (fn : BitVec 4) (s : State) : Answer :=
  tdisp s fn fun s => tdispAnswer s fn 0 [0x10]

/-- R294: the seven requests, one bit each in the rule's order. -/
def execGetTdispCapabilities (fn : BitVec 4) (s : State) : Answer :=
  tdisp s fn fun s => tdispAnswer s fn 0 [0x7F]

/-- R294: CONFIG_UNLOCKED to CONFIG_LOCKED, while the polder is ACTIVE. -/
def lockFn (s : State) (fn p : BitVec 4) : State :=
  if (getPolder s p).state = 2 ∧ (getPolder s p).tdi = 0 then tdispAnswer (setTdi s p 1) fn 0 [] else tdispAnswer s fn 1 []

/-- R294: CONFIG_LOCKED to RUN. -/
def startFn (s : State) (fn p : BitVec 4) : State :=
  if (getPolder s p).tdi = 1 then tdispAnswer (setTdi s p 2) fn 0 [] else tdispAnswer s fn 1 []

/-- R294, R429: the polder is quiesced; the answer follows. -/
def stopFn (s : State) (fn p : BitVec 4) : State :=
  if (getPolder s p).state = 2 then startDestroy (setTdi s p 0) p true
  else if (getPolder s p).state = 1 then tdispAnswer (setTdi s p 0) fn 0 []
  else tdispAnswer s fn 1 []

/-- R294. -/
def execLockInterfaceRequest (fn : BitVec 4) (s : State) : Answer :=
  tdisp s fn fun s => withFn s fn (lockFn s fn)

/-- R294. -/
def execGetDeviceInterfaceReport (fn : BitVec 4) (s : State) : Answer :=
  tdisp s fn fun s => withFn s fn fun p => tdispAnswer s fn 0 (reportWords s p)

/-- R294. -/
def execGetDeviceInterfaceState (fn : BitVec 4) (s : State) : Answer :=
  tdisp s fn fun s => tdispAnswer s fn 0 [(fnTdi s fn).setWidth 64]

/-- R294. -/
def execStartInterfaceRequest (fn : BitVec 4) (s : State) : Answer :=
  tdisp s fn fun s => withFn s fn (startFn s fn)

/-- R294, R429. -/
def execStopInterfaceRequest (fn : BitVec 4) (s : State) : Answer :=
  tdisp s fn fun s => withFn s fn (stopFn s fn)

/-! IDE (R295, R429) -/

/-- Streams 0 to 15 are the functions' selective streams, 16 the link stream. The keys are no state of their own: no
register or message returns one (R299). -/
def execIdeKm (stream : Nat) (s : State) : Answer :=
  if s.startup = 5 ∧ s.spdm ≠ [] ∧ stream < 17 then .next { s with ide := s.ide.set stream true }
  else notNow s

/-- A function uses its selective stream, and without one the link stream (DEDUCED, log entry 31). -/
def usesStream (s : State) (stream : Nat) (fn : BitVec 4) : Bool :=
  stream == fn.toNat || (stream == 16 && !s.ide.getD fn.toNat false)

/-- The TDI of every function that uses the stream enters ERROR; the physical function has no TDISP interface. -/
def failStream (s : State) (stream : Nat) : State :=
  let hit := ((List.range 16).map (BitVec.ofNat 4)).filter fun p =>
    (getPolder s p).state != 0 && (getPolder s p).vf != 0 && usesStream s stream (getPolder s p).vf
  hit.foldl (fun t p => setTdi t p 3) { s with ide := s.ide.set stream false }

/-- R295, R429. -/
def execIdeIntegrityFailure (stream : Nat) (s : State) : Answer :=
  if s.ide.getD stream false then .next (failStream s stream)
  else notNow s

/-! SPDM (R296, R297) -/

/-- An SPDM answer: code 0, or the SPDM code of an ERROR: 1 InvalidRequest, 4 UnexpectedRequest, 5 Unspecified (the numbers
are PRESUMED from SPDM, log entry 32). -/
def spdmAnswer (s : State) (code : Nat) (body : List Word) : State := putOut s (.spdm code body)

/-- R296: offered says, for each of the six fields in the rule's order, whether the requester offers the one algorithm that
the responder accepts. -/
def execNegotiateAlgorithms (offered : List Bool) (s : State) : Answer :=
  if s.startup = 5 ∧ offered.length = 6 then
    .next (if offered.all id then spdmAnswer { s with spdmReady := true } 0 [] else spdmAnswer s 1 [])
  else notNow s

/-- The chain of a slot, which ends in its die's identity key (R296). -/
def certChain (slot : Nat) : List (List Byte) := Config.certIssuers slot ++ [Config.identityKey slot]

/-- R296, R297: a session with the slot of a die, which shows its chain. -/
def execSpdmSecuredSession (slot : Nat) (s : State) : Answer :=
  if s.startup ≠ 5 then notNow s
  else
    .next (
      if !s.spdmReady then spdmAnswer s 4 []
      else if 5 ≤ slot then spdmAnswer s 1 []
      else if !slotPresent s slot then spdmAnswer s 5 []
      else spdmAnswer { s with spdm := slot :: s.spdm.filter (· != slot) } 0
        (BitVec.ofNat 64 slot :: (certChain slot).flatMap fun b => b.map fun x => x.setWidth 64))

/-- The indices that a request names, of those its slot owns. -/
def asked (slot index : Nat) : List Nat :=
  if index = 0xFF then slotIndices slot else (slotIndices slot).filter (· == index)

/-- R297. -/
def measureAnswer (s : State) (slot index : Nat) (signed : Bool) : State :=
  if !s.spdmReady then spdmAnswer s 4 []
  else if 5 ≤ slot then spdmAnswer s 1 []
  else if !slotPresent s slot then spdmAnswer s 5 []
  else if asked slot index = [] then spdmAnswer s 1 []
  else
    let body := (asked slot index).flatMap (measureBlock s)
    spdmAnswer s 0 (body ++ if signed then Config.slotSignature slot body else [])

/-- R297. -/
def execGetMeasurements (slot index : Nat) (signed : Bool) (s : State) : Answer :=
  if s.startup = 5 then .next (measureAnswer s slot index signed) else notNow s

/-! Power, reset and start-up (R23, R24, R290, R291, R310, R311, R427) -/

/-- What outlives the device's own state: the non-volatile stores, the memory of the host and of the pool, and the model's
own fields. -/
def retained (s : State) : State :=
  { State.reset with
    mem := s.mem.filter fun x => physKind x.1 == .host
    poison := s.poison.filter fun ln => physKind (64 * ln) == .host
    pool := s.pool
    keys := State.reset.keys.modify 0 fun k => { k with gen := s.nextGen }
    nextGen := s.nextGen + 1
    optis := s.optis, corrected := s.corrected, fwVersion := s.fwVersion, firmware := s.firmware, fwPending := s.fwPending
    agenda := s.agenda, freeCtr := s.freeCtr, outbox := s.outbox }

/-- A module reset: an accepted firmware image takes effect (R311). R23 has a firmware store in each die and one of Optis, and
R311 does not say which of them an image replaces: the model has one image, and the update replaces it whole (DESIGN
CHOICE, log entry 85). -/
def moduleReset (s : State) : State :=
  let t := retained s
  { t with firmware := (t.fwPending.map Prod.snd).getD t.firmware, fwPending := none }

/-- R24, R290, R291, R311, R427. A trip holds the module in reset until power is cycled (R25). -/
def execModuleReset (s : State) : Answer :=
  if s.powered && s.halted then notNow s else .next (moduleReset s)

/-- R23. -/
def execPowerLoss (s : State) : Answer :=
  if s.powered then .next { retained s with powered := false } else notNow s

/-- A compute die that fails stays in reset and is reported (R24). -/
def dieUp (s : State) (d : Nat) : State :=
  if Config.dieFails s.freeCtr d then
    reportReeve (optisLog (modDie s d fun x => { x with present := false }) 12 d) 12 d
  else s

/-- One step of start-up (R24): the root of trust and Optis, firmware, links, memory, host port. The I/O die's own firmware
passes its verification (DESIGN CHOICE, log entry 88). -/
def startupStep (s : State) : State :=
  let s1 := { s with startup := s.startup + 1 }
  if s.startup = 3 then { (List.range 4).foldl dieUp s1 with freeCtr := s.freeCtr + 1 } else s1

/-- What Optis's sensors read: the junctions, the HBM stacks, voltage and current, inlet and outlet, power (R310). -/
def sensorReadings (s : State) : List Nat := (List.range (5 + 8 + 2 + 2 + 1)).map (Config.sensor s.cycle)

/-- R25, R310: a die at 95 °C; die 4 is the I/O die. -/
def execThermalWarning (die : Nat) (s : State) : Answer :=
  if die < 5 then .next (reportReeve (optisLog s 8 die) 8 die) else notNow s

/-- R25, R310. -/
def execThermalTrip (die : Nat) (s : State) : Answer :=
  if die < 5 then .next { optisLog s 9 die with halted := true } else notNow s

/-- R311: an image that fails a check is discarded and logged. -/
def execFirmwareUpdate (version : Nat) (image signature : List Byte) (s : State) : Answer :=
  .next (
    if Config.ed448Verifies Config.tolurikKey (shake256 image 64) signature && s.fwVersion ≤ version then
      { s with fwPending := some (version, image) }
    else optisLog s 11 version)

end Sys2Proof.Machine
end

