-- ==== Sys2Proof/Machine/Scalar.lean ====
section
/-! DEFINITION. The scalar integer instructions (R57, R325, R326, R334, R338, R347, R352, R356, R364, R378, R418). -/

namespace Sys2Proof.Machine

/-- A result in a scalar register from two scalar registers. -/
def scalar2 (i : Instr) (s : State) (h : Hdr) (d a b : SReg) (f : Word → Word → Word) : Answer :=
  issue s h (anyCtx i allSeqs) fun c q => effect s c.id fun c => c.wS q d (f (c.rS q a) (c.rS q b))

/-- A result in a scalar register from one scalar register. -/
def scalar1 (i : Instr) (s : State) (h : Hdr) (d a : SReg) (f : Word → Word) : Answer :=
  issue s h (anyCtx i allSeqs) fun c q => effect s c.id fun c => c.wS q d (f (c.rS q a))

/-- R326: a + b. -/
def execAdd (h : Hdr) (d a b : SReg) (s : State) : Answer := scalar2 (.add h d a b) s h d a b (· + ·)

/-- R326: a + sext(imm, 32). -/
def execAddi (h : Hdr) (d a : SReg) (imm : BitVec 32) (s : State) : Answer :=
  scalar1 (.addi h d a imm) s h d a (· + imm.signExtend 64)

/-- R326: a - b. -/
def execSub (h : Hdr) (d a b : SReg) (s : State) : Answer := scalar2 (.sub h d a b) s h d a b (· - ·)

/-- R326: bits 63:0 of a * b. -/
def execMul (h : Hdr) (d a b : SReg) (s : State) : Answer := scalar2 (.mul h d a b) s h d a b (· * ·)

/-- R326: bits 127:64 of the exact product. -/
def execMulh (h : Hdr) (u : Bool) (d a b : SReg) (s : State) : Answer :=
  scalar2 (.mulh h u d a b) s h d a b (mulHigh u)

/-- R57, R326: the quotient truncated toward zero, 0 for b = 0. -/
def execDiv (h : Hdr) (u : Bool) (d a b : SReg) (s : State) : Answer :=
  scalar2 (.div h u d a b) s h d a b (divWord u)

/-- R57, R326: the remainder with the dividend's sign, a for b = 0. -/
def execRem (h : Hdr) (u : Bool) (d a b : SReg) (s : State) : Answer :=
  scalar2 (.rem h u d a b) s h d a b (remWord u)

/-- R326: a and b. -/
def execAnd (h : Hdr) (d a b : SReg) (s : State) : Answer := scalar2 (.and h d a b) s h d a b (· &&& ·)

def execAndImm (h : Hdr) (d a : SReg) (imm : BitVec 32) (s : State) : Answer :=
  scalar1 (.andImm h d a imm) s h d a (· &&& imm.signExtend 64)

/-- R326: a or b. -/
def execOr (h : Hdr) (d a b : SReg) (s : State) : Answer := scalar2 (.or h d a b) s h d a b (· ||| ·)

def execOrImm (h : Hdr) (d a : SReg) (imm : BitVec 32) (s : State) : Answer :=
  scalar1 (.orImm h d a imm) s h d a (· ||| imm.signExtend 64)

/-- R326: a xor b. -/
def execXor (h : Hdr) (d a b : SReg) (s : State) : Answer := scalar2 (.xor h d a b) s h d a b (· ^^^ ·)

def execXorImm (h : Hdr) (d a : SReg) (imm : BitVec 32) (s : State) : Answer :=
  scalar1 (.xorImm h d a imm) s h d a (· ^^^ imm.signExtend 64)

/-- R326: a and not b. -/
def execAndn (h : Hdr) (d a b : SReg) (s : State) : Answer := scalar2 (.andn h d a b) s h d a b (fun x y => x &&& ~~~ y)

/-- R326: a << b[5:0]. -/
def execShl (h : Hdr) (d a b : SReg) (s : State) : Answer :=
  scalar2 (.shl h d a b) s h d a b (fun x y => x <<< (y.toNat % 64))

def execShlImm (h : Hdr) (d a : SReg) (sh : BitVec 6) (s : State) : Answer :=
  scalar1 (.shlImm h d a sh) s h d a (· <<< sh.toNat)

/-- R326: a >> b[5:0], filling with zeros. -/
def execShr (h : Hdr) (d a b : SReg) (s : State) : Answer :=
  scalar2 (.shr h d a b) s h d a b (fun x y => x >>> (y.toNat % 64))

def execShrImm (h : Hdr) (d a : SReg) (sh : BitVec 6) (s : State) : Answer :=
  scalar1 (.shrImm h d a sh) s h d a (· >>> sh.toNat)

/-- R326: a >> b[5:0], filling with a[63]. -/
def execSar (h : Hdr) (d a b : SReg) (s : State) : Answer :=
  scalar2 (.sar h d a b) s h d a b (fun x y => x.sshiftRight (y.toNat % 64))

def execSarImm (h : Hdr) (d a : SReg) (sh : BitVec 6) (s : State) : Answer :=
  scalar1 (.sarImm h d a sh) s h d a (fun x => x.sshiftRight sh.toNat)

/-- R326: the lesser of a and b. -/
def execMin (h : Hdr) (u : Bool) (d a b : SReg) (s : State) : Answer :=
  scalar2 (.min h u d a b) s h d a b (fun x y => if wordLt u y x then y else x)

/-- R326: the greater of a and b. -/
def execMax (h : Hdr) (u : Bool) (d a b : SReg) (s : State) : Answer :=
  scalar2 (.max h u d a b) s h d a b (fun x y => if wordLt u x y then y else x)

/-- R338: leading zeros; 64 for 0. -/
def execClz (h : Hdr) (d a : SReg) (s : State) : Answer := scalar1 (.clz h d a) s h d a clzWord

/-- R338: set bits. -/
def execPopc (h : Hdr) (d a : SReg) (s : State) : Answer := scalar1 (.popc h d a) s h d a popWord

/-- R338: all 64 bits reversed. -/
def execBrev (h : Hdr) (d a : SReg) (s : State) : Answer := scalar1 (.brev h d a) s h d a BitVec.reverse

/-- R334: extraction of a field. -/
def execBfx (h : Hdr) (sx : Bool) (d a : SReg) (pos wm1 : BitVec 6) (s : State) : Answer :=
  scalar1 (.bfx h sx d a pos wm1) s h d a (bfxWord sx pos.toNat (wm1.toNat + 1))

/-- R334: insertion of a field. -/
def execBfi (h : Hdr) (d a b : SReg) (pos wm1 : BitVec 6) (s : State) : Answer :=
  scalar2 (.bfi h d a b pos wm1) s h d a b (bfiWord pos.toNat (wm1.toNat + 1))

/-- R378: a guarded choice of two registers. -/
def execSel (h : Hdr) (d a b : SReg) (g : GReg) (s : State) : Answer :=
  issue s h (anyCtx (.sel h d a b g) allSeqs) fun c q =>
    effect s c.id fun c => c.wS q d (if c.rG q g then c.rS q a else c.rS q b)

/-- R364: a copied. -/
def execMov (h : Hdr) (d a : SReg) (s : State) : Answer := scalar1 (.mov h d a) s h d a id

/-- R364: an immediate. -/
def execMovi (h : Hdr) (mode : MoviMode) (d a : SReg) (imm : BitVec 32) (s : State) : Answer :=
  scalar1 (.movi h mode d a imm) s h d a (moviWord mode imm)

/-- R356: a word, or two, of a constant window. -/
def execLdk (h : Hdr) (form : LdkForm) (d i : SReg) (w : BitVec 3) (off : BitVec 17) (s : State) : Answer :=
  issue s h (anyCtx (.ldk h form d i w off) allSeqs) fun c q =>
    let k := off.toNat + (c.rS q i).toNat * (if form = .d then 2 else 1)
    match readWindow s c q w.toNat k (if form = .d then 2 else 1) with
    | .error a => a
    | .ok (t, v) =>
      effect t c.id fun c => c.wS q d
        (match form with
         | .w | .d => BitVec.ofNat 64 v
         | .sx => (BitVec.ofNat 32 v).signExtend 64)

/-- R347: a comparison into a guard. -/
def execCmp (h : Hdr) (k : Cond) (g : GReg) (a b : SReg) (s : State) : Answer :=
  issue s h (anyCtx (.cmp h k g a b) allSeqs) fun c q =>
    effect s c.id fun c => c.wG q g (condHolds k (c.rS q a) (c.rS q b))

def execCmpImm (h : Hdr) (k : Cond) (g : GReg) (a : SReg) (imm : BitVec 32) (s : State) : Answer :=
  issue s h (anyCtx (.cmpImm h k g a imm) allSeqs) fun c q =>
    effect s c.id fun c => c.wG q g (condHolds k (c.rS q a) (imm.signExtend 64))

/-- R352: guard logic. -/
def execGand (h : Hdr) (na nb nd : Bool) (g ga gb : GReg) (s : State) : Answer :=
  issue s h (anyCtx (.gand h na nb nd g ga gb) allSeqs) fun c q =>
    effect s c.id fun c => c.wG q g (((c.rG q ga != na) && (c.rG q gb != nb)) != nd)

def execGor (h : Hdr) (na nb nd : Bool) (g ga gb : GReg) (s : State) : Answer :=
  issue s h (anyCtx (.gor h na nb nd g ga gb) allSeqs) fun c q =>
    effect s c.id fun c => c.wG q g (((c.rG q ga != na) || (c.rG q gb != nb)) != nd)

/-- R61, R418: a field of the work identifier; every field of a neutral context reads 0. -/
def execWfld (h : Hdr) (d : SReg) (j : BitVec 3) (s : State) : Answer :=
  issue s h (anyCtx (.wfld h d j) allSeqs) fun c q =>
    effect s c.id fun c => c.wS q d (if c.neutral.isSome then 0 else workField c.workid c.wfields j.toNat)

end Sys2Proof.Machine
end

