-- ==== Sys2Proof/Machine/Vector.lean ====
section
/-! DEFINITION. The vector instructions: checks in the order of R385, pennants, parking and the writing of destinations
(R34, R168, R172, R173, R370, R384 to R386, R401 to R409, R416, R417). -/

namespace Sys2Proof.Machine

/-- What R172 says of the pennants of an instruction's vector sources. -/
inductive Pennants where
  | parked (p : BitVec 12)
  | mix
  | carries (p : BitVec 12)
  deriving DecidableEq, Repr

/-- The pennant rule of R172. -/
def pennants (s : State) (c : Ctx) (srcs : List VecReg) : Pennants :=
  let ps := (srcs.map fun x => x.pen).filter (· != 0)
  match ps.find? fun p => memberParked s c p with
  | some p => .parked p
  | none =>
    let p := ps.headD 0
    if ps.any (· != p) then (if c.effPriv = .task then .mix else .carries 0) else .carries p

/-- The enables that govern a destination with pennant p, where they are a member's (R168). -/
def memberEnables (s : State) (c : Ctx) (p : BitVec 12) : Option (Nat × BitVec 5) :=
  match c.neutral with
  | none => none
  | some b => if p = 0 then none else (memberOf s b p.toNat).map fun m => (b, m.enables)

/-- An instruction with a vector destination, or a group of them: tags, then the operand check, then pennants; the
destination takes the result tag and the pennant (R384, R385). -/
def vecWrite (s : State) (c : Ctx) (tagsOk : Bool) (srcs : List VecReg) (dests : List VReg) (tag : Fmt)
    (res : List VData × Exc) : Act :=
  if !tagsOk then .trap s 0x04 0 0
  else
    match pennants s c srcs with
    | .mix => .trap s 0x16 0 0
    | .parked p =>
      effect s c.id fun c => dests.foldl (fun c d => c.wV d { c.rV d with pen := p }) c
    | .carries p =>
      let t := modCtx s c.id fun c =>
        (dests.zip res.1).foldl (fun c x => c.wV x.1 { data := tagForm tag x.2, tag := tag, pen := p }) c
      match memberEnables s c p with
      | none => .done t .plain res.2 none
      | some (b, e) => .quiet (if enabledExc e res.2 = 0 then t else parkMember t b p.toNat 0x05 0) res.2

/-- An instruction whose destination is a predicate or a scalar (R385). -/
def vecOther (s : State) (c : Ctx) (tagsOk : Bool) (srcs : List VecReg) (f : Ctx → Ctx) : Act :=
  if !tagsOk then .trap s 0x04 0 0
  else
    match pennants s c srcs with
    | .mix => .trap s 0x16 0 0
    | .parked _ => .done s .plain Exc.none none
    | .carries _ => effect s c.id f

/-- The captured rounding and flush control (R36, R42). -/
def fctl (c : Ctx) (rm : Round) : FCtl :=
  { mode := match rm with | .dyn => fpcrMode c.fpcr | .rne => .rne | .rtz => .rtz | .rup => .rup | .rdn => .rdn
    ftz := fpcrFtz c.fpcr }

def laneOf (c : Ctx) (m : VMod) : Option PData := m.lane.map c.rQ

/-- A source that may be a scalar: its elements and its register, if it is one (R384). -/
def vsrc (c : Ctx) (q : Seqr) (f : Fmt) : VSrc → VOperand × List VecReg
  | .v r => (.reg (c.rV r).data, [c.rV r])
  | .s r => (.all (scalarElem f (c.rS q r)), [])

/-- Every source carries the format (R34). -/
def tagged (f : Fmt) (l : List VecReg) : Bool := l.all fun x => x.tag == f

def onC (i : Instr) : Ctx → Form := anyCtx i [.C]

/-- A two-source arithmetic instruction. -/
def vecArith (op : VArith) (i : Instr) (h : Hdr) (m : VMod) (d a : VReg) (b : VSrc) (s : State) : Answer :=
  issue s h (onC i) fun c q =>
    let y := vsrc c q m.fmt b
    let x := c.rV a
    let w := fmtWidth m.fmt
    let r := laneMap w (laneOf c m) m.pz (c.rV d).data fun k =>
      arithElem op m.fmt (fctl c m.rm) m.sat (elem w x.data k) (y.1.elem w k)
    vecWrite s c (tagged m.fmt (x :: y.2)) (x :: y.2) [d] m.fmt ([r.1], r.2)

def execVadd (h : Hdr) (m : VMod) (d a : VReg) (b : VSrc) (s : State) : Answer := vecArith .add (.vadd h m d a b) h m d a b s
def execVsub (h : Hdr) (m : VMod) (d a : VReg) (b : VSrc) (s : State) : Answer := vecArith .sub (.vsub h m d a b) h m d a b s
def execVmul (h : Hdr) (m : VMod) (d a : VReg) (b : VSrc) (s : State) : Answer := vecArith .mul (.vmul h m d a b) h m d a b s
def execVmin (h : Hdr) (m : VMod) (d a : VReg) (b : VSrc) (s : State) : Answer := vecArith .min (.vmin h m d a b) h m d a b s
def execVmax (h : Hdr) (m : VMod) (d a : VReg) (b : VSrc) (s : State) : Answer := vecArith .max (.vmax h m d a b) h m d a b s

/-- R401. -/
def execVfma (h : Hdr) (m : VMod) (d a : VReg) (b e : VSrc) (s : State) : Answer :=
  issue s h (onC (.vfma h m d a b e)) fun c q =>
    let x := c.rV a
    let y := vsrc c q m.fmt b
    let z := vsrc c q m.fmt e
    let w := fmtWidth m.fmt
    let srcs := x :: (y.2 ++ z.2)
    let r := laneMap w (laneOf c m) m.pz (c.rV d).data fun k =>
      fmaElem m.fmt (fctl c m.rm) m.sat (elem w x.data k) (y.1.elem w k) (z.1.elem w k)
    vecWrite s c (tagged m.fmt srcs) srcs [d] m.fmt ([r.1], r.2)

/-- A result from each element of one source, without exceptions. -/
def vecUnary (i : Instr) (h : Hdr) (m : VMod) (d a : VReg) (f : Nat → Nat) (s : State) : Answer :=
  issue s h (onC i) fun c _ =>
    let x := c.rV a
    let w := fmtWidth m.fmt
    vecWrite s c (tagged m.fmt [x]) [x] [d] m.fmt
      ([laneMapI w (laneOf c m) m.pz (c.rV d).data fun k => f (elem w x.data k)], Exc.none)

/-- R402. -/
def execVabs (h : Hdr) (m : VMod) (d a : VReg) (s : State) : Answer :=
  vecUnary (.vabs h m d a) h m d a (absElem m.fmt m.sat) s

def execVneg (h : Hdr) (m : VMod) (d a : VReg) (s : State) : Answer :=
  vecUnary (.vneg h m d a) h m d a (negElem m.fmt m.sat) s

/-- A bitwise instruction or a shift; .raw ignores tags and gives a raw result (R403). -/
def vecBit (op : VBit) (i : Instr) (h : Hdr) (m : VMod) (d a : VReg) (b : VSrc) (s : State) : Answer :=
  issue s h (onC i) fun c q =>
    let x := c.rV a
    let y := vsrc c q m.fmt b
    let w := fmtWidth m.fmt
    vecWrite s c (m.fmt == .raw || tagged m.fmt (x :: y.2)) (x :: y.2) [d] m.fmt
      ([laneMapI w (laneOf c m) m.pz (c.rV d).data fun k => bitElem op m.fmt (elem w x.data k) (y.1.elem w k)], Exc.none)

def execVand (h : Hdr) (m : VMod) (d a : VReg) (b : VSrc) (s : State) : Answer := vecBit .and (.vand h m d a b) h m d a b s
def execVor (h : Hdr) (m : VMod) (d a : VReg) (b : VSrc) (s : State) : Answer := vecBit .or (.vor h m d a b) h m d a b s
def execVxor (h : Hdr) (m : VMod) (d a : VReg) (b : VSrc) (s : State) : Answer := vecBit .xor (.vxor h m d a b) h m d a b s
def execVshl (h : Hdr) (m : VMod) (d a : VReg) (b : VSrc) (s : State) : Answer := vecBit .shl (.vshl h m d a b) h m d a b s
def execVshr (h : Hdr) (m : VMod) (d a : VReg) (b : VSrc) (s : State) : Answer := vecBit .shr (.vshr h m d a b) h m d a b s

/-- A predicate from a condition on two sources (R403, R406). -/
def vecPred (i : Instr) (h : Hdr) (m : VMod) (p : QReg) (a : VReg) (b : VSrc) (f : FCtl → Nat → Nat → Bool) (s : State) :
    Answer :=
  issue s h (onC i) fun c q =>
    let x := c.rV a
    let y := vsrc c q m.fmt b
    let w := fmtWidth m.fmt
    vecOther s c (tagged m.fmt (x :: y.2)) (x :: y.2) fun c =>
      c.wQ p (predMap w (laneOf c m) m.pz (c.rQ p) fun k => f (fctl c m.rm) (elem w x.data k) (y.1.elem w k))

/-- R406. -/
def execVcmp (h : Hdr) (k : VCond) (m : VMod) (p : QReg) (a : VReg) (b : VSrc) (s : State) : Answer :=
  vecPred (.vcmp h k m p a b) h m p a b (fun e x y => cmpElem k m.fmt e x y) s

/-- R403. -/
def execVbtst (h : Hdr) (m : VMod) (p : QReg) (a : VReg) (b : VSrc) (s : State) : Answer :=
  vecPred (.vbtst h m p a b) h m p a b (fun _ x y => Nat.land x y != 0) s

/-- R406: a move that chooses by a selector predicate. -/
def execVsel (h : Hdr) (m : VMod) (d a b : VReg) (p : QReg) (s : State) : Answer :=
  issue s h (onC (.vsel h m d a b p)) fun c _ =>
    let x := c.rV a
    let y := c.rV b
    let w := fmtWidth m.fmt
    let sel := c.rQ p
    vecWrite s c (m.fmt == .raw || tagged m.fmt [x, y]) [x, y] [d] m.fmt
      ([laneMapI w (laneOf c m) m.pz (c.rV d).data fun k =>
          if sel.getLsbD (k * w / 4) then elem w x.data k else elem w y.data k], Exc.none)

/-- R403. -/
def execVpcnt (h : Hdr) (x : PcntArg) (s : State) : Answer :=
  match x with
  | .elems m d a => vecUnary (.vpcnt h x) h m d a (fun v => popCount v (fmtWidth m.fmt)) s
  | .pred f d p =>
    issue s h (onC (.vpcnt h x)) fun c q =>
      effect s c.id fun y => y.wS q d (BitVec.ofNat 64 (predCount (fmtWidth f) (c.rQ p)))

/-- R416. -/
def execVred (h : Hdr) (op : RedOp) (m : VMod) (d a : VReg) (s : State) : Answer :=
  issue s h (onC (.vred h op m d a)) fun c _ =>
    let x := c.rV a
    let r := redData op m.fmt (fctl c m.rm) (laneOf c m) x.data
    vecWrite s c (tagged m.fmt [x]) [x] [d] m.fmt ([r.1], r.2)

/-- R416. -/
def execVscan (h : Hdr) (op : RedOp) (m : VMod) (d a : VReg) (s : State) : Answer :=
  issue s h (onC (.vscan h op m d a)) fun c _ =>
    let x := c.rV a
    let r := scanData op m.fmt (fctl c m.rm) (laneOf c m) m.pz (c.rV d).data x.data
    vecWrite s c (tagged m.fmt [x]) [x] [d] m.fmt ([r.1], r.2)

/-- R408, R409. -/
def execVcvt (h : Hdr) (df : Fmt) (m : VMod) (d a : VReg) (s : State) : Answer :=
  issue s h (onC (.vcvt h df m d a)) fun c _ =>
    let src := c.rGroup a (cvtSrcRegs m.fmt df)
    let n := cvtDstRegs m.fmt df
    let old := (c.rGroup d n).map fun x => x.data
    let r := cvtGroup m.fmt df (fctl c m.rm) m.sat m.pz (laneOf c m) (src.map fun x => x.data) old
    vecWrite s c (tagged m.fmt src) src ((List.range n).map fun i => d + BitVec.ofNat 5 i) df r

/-- A permutation of two sources, element by element (R407). -/
def vecPerm2 (i : Instr) (h : Hdr) (m : VMod) (d a b : VReg) (f : Nat → VData → VData → Nat → Nat) (s : State) : Answer :=
  issue s h (onC i) fun c _ =>
    let x := c.rV a
    let y := c.rV b
    let w := fmtWidth m.fmt
    vecWrite s c (tagged m.fmt [x, y]) [x, y] [d] m.fmt
      ([laneMapI w (laneOf c m) m.pz (c.rV d).data (f w x.data y.data)], Exc.none)

/-- R407. -/
def execVpack (h : Hdr) (od : Bool) (m : VMod) (d a b : VReg) (s : State) : Answer :=
  vecPerm2 (.vpack h od m d a b) h m d a b (fun w => packSrc w od) s

/-- R407. -/
def execVunpk (h : Hdr) (hi : Bool) (m : VMod) (d a b : VReg) (s : State) : Answer :=
  vecPerm2 (.vunpk h hi m d a b) h m d a b (fun w => unpkSrc w hi) s

/-- R417. -/
def execVsfn (h : Hdr) (fn : Sfn) (m : VMod) (d a : VReg) (s : State) : Answer :=
  issue s h (onC (.vsfn h fn m d a)) fun c _ =>
    let x := c.rV a
    let w := fmtWidth m.fmt
    let r := laneMap w (laneOf c m) m.pz (c.rV d).data fun k =>
      sfnElem (fpOf m.fmt) (fctl c m.rm) fn (elem w x.data k)
    vecWrite s c (tagged m.fmt [x]) [x] [d] m.fmt ([r.1], r.2)

/-- R407. -/
def execVperm (h : Hdr) (m : VMod) (d a x : VReg) (s : State) : Answer :=
  issue s h (onC (.vperm h m d a x)) fun c _ =>
    let w := fmtWidth m.fmt
    let v := c.rV a
    let g := c.rGroup x (permRegs w)
    vecWrite s c (tagged m.fmt [v] && tagged (permTag w) g) (v :: g) [d] m.fmt
      ([laneMapI w (laneOf c m) m.pz (c.rV d).data (permSrc w v.data (g.map fun r => r.data))], Exc.none)

/-- R404. -/
def execVbcast (h : Hdr) (m : VMod) (x : BcastArg) (s : State) : Answer :=
  issue s h (onC (.vbcast h m x)) fun c q =>
    let w := fmtWidth m.fmt
    match x with
    | .scalar d a =>
      let e := scalarElem m.fmt (c.rS q a)
      vecWrite s c true [] [d] m.fmt ([laneMapI w (laneOf c m) m.pz (c.rV d).data fun _ => e], Exc.none)
    | .vector d a i =>
      let v := c.rV a
      let e := elem w v.data ((c.rS q i).toNat % (4096 / w))
      vecWrite s c (tagged m.fmt [v]) [v] [d] m.fmt
        ([laneMapI w (laneOf c m) m.pz (c.rV d).data fun _ => e], Exc.none)

/-- R404. -/
def execVidx (h : Hdr) (m : VMod) (d : VReg) (a b : SReg) (s : State) : Answer :=
  issue s h (onC (.vidx h m d a b)) fun c q =>
    let w := fmtWidth m.fmt
    let val (r : SReg) : Int := if isSigned m.fmt then (c.rS q r).toInt else (c.rS q r).toNat
    vecWrite s c true [] [d] m.fmt
      ([laneMapI w (laneOf c m) m.pz (c.rV d).data fun k => intResult m.fmt m.sat (val a + k * val b)], Exc.none)

/-- A register with one element replaced. -/
def insertElem (w : Nat) (d : VData) (i e : Nat) : VData :=
  ofElems w ((List.range (4096 / w)).map fun k => if k = i then e else elem w d k)

/-- R405. -/
def execVmovs (h : Hdr) (x : MovsArg) (s : State) : Answer :=
  issue s h (onC (.vmovs h x)) fun c q =>
    match x with
    | .move f pz lane d a =>
      let v := c.rV a
      let w := fmtWidth f
      vecWrite s c (f == .raw || tagged f [v]) [v] [d] f
        ([laneMapI w (lane.map c.rQ) pz (c.rV d).data (elem w v.data)], Exc.none)
    | .ins f d a i =>
      let w := fmtWidth f
      let v := c.rV d
      vecWrite s c (tagged f [v]) [v] [d] f
        ([insertElem w v.data ((c.rS q i).toNat % (4096 / w)) (scalarElem f (c.rS q a))], Exc.none)
    | .ext f d a i =>
      let v := c.rV a
      let w := fmtWidth f
      let e := elem w v.data ((c.rS q i).toNat % (4096 / w))
      vecOther s c (tagged f [v]) [v] fun c =>
        c.wS q d (if isSigned f then BitVec.ofInt 64 (intVal f e) else BitVec.ofNat 64 e)
    | .fromq d p => vecWrite s c true [] [d] .pimg ([(c.rQ p).setWidth 4096], Exc.none)
    | .toq p a =>
      let v := c.rV a
      vecOther s c (tagged .pimg [v]) [v] fun c => c.wQ p (v.data.extractLsb' 0 1024)
    | .as f pz lane d a =>
      let v := c.rV a
      let w := fmtWidth f
      let r := laneMapI w (lane.map c.rQ) pz (c.rV d).data (elem w v.data)
      vecWrite s c true [v] [d] f ([r], Exc.none)

/-- R407: the enabled elements gathered at the bottom. -/
def execVcprs (h : Hdr) (m : VMod) (d a : VReg) (s : State) : Answer :=
  issue s h (onC (.vcprs h m d a)) fun c _ =>
    let v := c.rV a
    vecWrite s c (tagged m.fmt [v]) [v] [d] m.fmt ([cprsData (fmtWidth m.fmt) (laneOf c m) v.data], Exc.none)

/-- R407: the low elements spread over the enabled ones. -/
def execVxpnd (h : Hdr) (m : VMod) (d a : VReg) (s : State) : Answer :=
  issue s h (onC (.vxpnd h m d a)) fun c _ =>
    let v := c.rV a
    let w := fmtWidth m.fmt
    let lane := laneOf c m
    vecWrite s c (tagged m.fmt [v]) [v] [d] m.fmt
      ([laneMapI w lane m.pz (c.rV d).data fun k => elem w v.data (laneRank w lane k)], Exc.none)

/-- Bitwise logic of two predicates (R370). -/
def predLogic (i : Instr) (h : Hdr) (d a b : QReg) (f : PData → PData → PData) (s : State) : Answer :=
  issue s h (onC i) fun c _ => effect s c.id fun x => x.wQ d (f (c.rQ a) (c.rQ b))

def flipIf (n : Bool) (x : PData) : PData := if n then ~~~ x else x

/-- R370. -/
def execQand (h : Hdr) (na nb nd : Bool) (d a b : QReg) (s : State) : Answer :=
  predLogic (.qand h na nb nd d a b) h d a b (fun x y => flipIf nd (flipIf na x &&& flipIf nb y)) s

def execQor (h : Hdr) (na nb nd : Bool) (d a b : QReg) (s : State) : Answer :=
  predLogic (.qor h na nb nd d a b) h d a b (fun x y => flipIf nd (flipIf na x ||| flipIf nb y)) s

def execQnot (h : Hdr) (d a : QReg) (s : State) : Answer :=
  predLogic (.qnot h d a) h d a a (fun x _ => ~~~ x) s

end Sys2Proof.Machine
end

