-- ==== Sys2Proof/Machine/Dispatch.lean ====
section
/-! DEFINITION. The dispatch of exec: one arm for each constructor of Instr. -/

namespace Sys2Proof.Machine

def exec (i : Instr) (s : State) : Host.Outcome State Fault Refusal :=
  match i with
  | .add h d a b => Sys2Proof.Machine.execAdd h d a b s
  | .addi h d a imm => Sys2Proof.Machine.execAddi h d a imm s
  | .sub h d a b => Sys2Proof.Machine.execSub h d a b s
  | .mul h d a b => Sys2Proof.Machine.execMul h d a b s
  | .mulh h u d a b => Sys2Proof.Machine.execMulh h u d a b s
  | .div h u d a b => Sys2Proof.Machine.execDiv h u d a b s
  | .rem h u d a b => Sys2Proof.Machine.execRem h u d a b s
  | .and h d a b => Sys2Proof.Machine.execAnd h d a b s
  | .andImm h d a imm => Sys2Proof.Machine.execAndImm h d a imm s
  | .or h d a b => Sys2Proof.Machine.execOr h d a b s
  | .orImm h d a imm => Sys2Proof.Machine.execOrImm h d a imm s
  | .xor h d a b => Sys2Proof.Machine.execXor h d a b s
  | .xorImm h d a imm => Sys2Proof.Machine.execXorImm h d a imm s
  | .andn h d a b => Sys2Proof.Machine.execAndn h d a b s
  | .shl h d a b => Sys2Proof.Machine.execShl h d a b s
  | .shlImm h d a sh => Sys2Proof.Machine.execShlImm h d a sh s
  | .shr h d a b => Sys2Proof.Machine.execShr h d a b s
  | .shrImm h d a sh => Sys2Proof.Machine.execShrImm h d a sh s
  | .sar h d a b => Sys2Proof.Machine.execSar h d a b s
  | .sarImm h d a sh => Sys2Proof.Machine.execSarImm h d a sh s
  | .min h u d a b => Sys2Proof.Machine.execMin h u d a b s
  | .max h u d a b => Sys2Proof.Machine.execMax h u d a b s
  | .clz h d a => Sys2Proof.Machine.execClz h d a s
  | .popc h d a => Sys2Proof.Machine.execPopc h d a s
  | .brev h d a => Sys2Proof.Machine.execBrev h d a s
  | .bfx h sx d a pos wm1 => Sys2Proof.Machine.execBfx h sx d a pos wm1 s
  | .bfi h d a b pos wm1 => Sys2Proof.Machine.execBfi h d a b pos wm1 s
  | .sel h d a b g => Sys2Proof.Machine.execSel h d a b g s
  | .mov h d a => Sys2Proof.Machine.execMov h d a s
  | .movi h mode d a imm => Sys2Proof.Machine.execMovi h mode d a imm s
  | .ldk h form d ix w off => Sys2Proof.Machine.execLdk h form d ix w off s
  | .cmp h c g a b => Sys2Proof.Machine.execCmp h c g a b s
  | .cmpImm h c g a imm => Sys2Proof.Machine.execCmpImm h c g a imm s
  | .gand h na nb nd g ga gb => Sys2Proof.Machine.execGand h na nb nd g ga gb s
  | .gor h na nb nd g ga gb => Sys2Proof.Machine.execGor h na nb nd g ga gb s
  | .wfld h d j => Sys2Proof.Machine.execWfld h d j s
  | .bra h off slot => Sys2Proof.Machine.execBra h off slot s
  | .brx h a => Sys2Proof.Machine.execBrx h a s
  | .call h l off slot => Sys2Proof.Machine.execCall h l off slot s
  | .ret h a => Sys2Proof.Machine.execRet h a s
  | .loop h c off slot => Sys2Proof.Machine.execLoop h c off slot s
  | .bkt h d a w off => Sys2Proof.Machine.execBkt h d a w off s
  | .endTask h => Sys2Proof.Machine.execEndTask h s
  | .yield h => Sys2Proof.Machine.execYield h s
  | .trap h imm => Sys2Proof.Machine.execTrap h imm s
  | .tret h => Sys2Proof.Machine.execTret h s
  | .nop h => Sys2Proof.Machine.execNop h s
  | .tkpost h sc q => Sys2Proof.Machine.execTkpost h sc q s
  | .tkwait h sc q => Sys2Proof.Machine.execTkwait h sc q s
  | .tkqry h d q => Sys2Proof.Machine.execTkqry h d q s
  | .bar h sc => Sys2Proof.Machine.execBar h sc s
  | .cbar h sc => Sys2Proof.Machine.execCbar h sc s
  | .fence h o sc => Sys2Proof.Machine.execFence h o sc s
  | .ld h size sx m d => Sys2Proof.Machine.execLd h size sx m d s
  | .st h size m a => Sys2Proof.Machine.execSt h size m a s
  | .atom h op w8 m d => Sys2Proof.Machine.execAtom h op w8 m d s
  | .red h op w8 m a => Sys2Proof.Machine.execRed h op w8 m a s
  | .pref h k m => Sys2Proof.Machine.execPref h k m s
  | .cmnt h k m => Sys2Proof.Machine.execCmnt h k m s
  | .vld h f m v => Sys2Proof.Machine.execVld h f m v s
  | .vldScratchpad h f v p r => Sys2Proof.Machine.execVldScratchpad h f v p r s
  | .vldAcc h trec v p r => Sys2Proof.Machine.execVldAcc h trec v p r s
  | .vst h f m v => Sys2Proof.Machine.execVst h f m v s
  | .vstScratchpad h f p r v => Sys2Proof.Machine.execVstScratchpad h f p r v s
  | .vldx h x => Sys2Proof.Machine.execVldx h x s
  | .vstx h x => Sys2Proof.Machine.execVstx h x s
  | .vredx h op x => Sys2Proof.Machine.execVredx h op x s
  | .tld h t => Sys2Proof.Machine.execTld h t s
  | .tldRows h t => Sys2Proof.Machine.execTldRows h t s
  | .tldAdp h t => Sys2Proof.Machine.execTldAdp h t s
  | .tst h t => Sys2Proof.Machine.execTst h t s
  | .tscat h t => Sys2Proof.Machine.execTscat h t s
  | .scopy h k d a b l c => Sys2Proof.Machine.execScopy h k d a b l c s
  | .rrot h dst src l => Sys2Proof.Machine.execRrot h dst src l s
  | .wld h w a => Sys2Proof.Machine.execWld h w a s
  | .mma h m => Sys2Proof.Machine.execMma h m s
  | .mmas h m => Sys2Proof.Machine.execMmas h m s
  | .mmag h m => Sys2Proof.Machine.execMmag h m s
  | .mzero h w32 trec acc p => Sys2Proof.Machine.execMzero h w32 trec acc p s
  | .mstat h trec d => Sys2Proof.Machine.execMstat h trec d s
  | .vadd h m d a b => Sys2Proof.Machine.execVadd h m d a b s
  | .vsub h m d a b => Sys2Proof.Machine.execVsub h m d a b s
  | .vmul h m d a b => Sys2Proof.Machine.execVmul h m d a b s
  | .vfma h m d a b c => Sys2Proof.Machine.execVfma h m d a b c s
  | .vmin h m d a b => Sys2Proof.Machine.execVmin h m d a b s
  | .vmax h m d a b => Sys2Proof.Machine.execVmax h m d a b s
  | .vabs h m d a => Sys2Proof.Machine.execVabs h m d a s
  | .vneg h m d a => Sys2Proof.Machine.execVneg h m d a s
  | .vand h m d a b => Sys2Proof.Machine.execVand h m d a b s
  | .vor h m d a b => Sys2Proof.Machine.execVor h m d a b s
  | .vxor h m d a b => Sys2Proof.Machine.execVxor h m d a b s
  | .vshl h m d a b => Sys2Proof.Machine.execVshl h m d a b s
  | .vshr h m d a b => Sys2Proof.Machine.execVshr h m d a b s
  | .vcmp h c m q a b => Sys2Proof.Machine.execVcmp h c m q a b s
  | .vsel h m d a b q => Sys2Proof.Machine.execVsel h m d a b q s
  | .vpcnt h x => Sys2Proof.Machine.execVpcnt h x s
  | .vbtst h m q a b => Sys2Proof.Machine.execVbtst h m q a b s
  | .vred h op m d a => Sys2Proof.Machine.execVred h op m d a s
  | .vscan h op m d a => Sys2Proof.Machine.execVscan h op m d a s
  | .vcvt h df m d a => Sys2Proof.Machine.execVcvt h df m d a s
  | .vpack h od m d a b => Sys2Proof.Machine.execVpack h od m d a b s
  | .vunpk h hi m d a b => Sys2Proof.Machine.execVunpk h hi m d a b s
  | .vsfn h fn m d a => Sys2Proof.Machine.execVsfn h fn m d a s
  | .vperm h m d a x => Sys2Proof.Machine.execVperm h m d a x s
  | .vbcast h m x => Sys2Proof.Machine.execVbcast h m x s
  | .vidx h m d a b => Sys2Proof.Machine.execVidx h m d a b s
  | .vmovs h x => Sys2Proof.Machine.execVmovs h x s
  | .vcprs h m d a => Sys2Proof.Machine.execVcprs h m d a s
  | .vxpnd h m d a => Sys2Proof.Machine.execVxpnd h m d a s
  | .qand h na nb nd d a b => Sys2Proof.Machine.execQand h na nb nd d a b s
  | .qor h na nb nd d a b => Sys2Proof.Machine.execQor h na nb nd d a b s
  | .qnot h d a => Sys2Proof.Machine.execQnot h d a s
  | .tsub h d a c => Sys2Proof.Machine.execTsub h d a c s
  | .tcan h all d hd ix => Sys2Proof.Machine.execTcan h all d hd ix s
  | .dqpush h d a => Sys2Proof.Machine.execDqpush h d a s
  | .dqpop h d e => Sys2Proof.Machine.execDqpop h d e s
  | .dqstl h d e v => Sys2Proof.Machine.execDqstl h d e v s
  | .watch h d a => Sys2Proof.Machine.execWatch h d a s
  | .unwatch h d a => Sys2Proof.Machine.execUnwatch h d a s
  | .resq h sum d a b => Sys2Proof.Machine.execResq h sum d a b s
  | .carve h d a => Sys2Proof.Machine.execCarve h d a s
  | .sysrd h d r => Sys2Proof.Machine.execSysrd h d r s
  | .syswr h r a => Sys2Proof.Machine.execSyswr h r a s
  | .tlbinv h s2 all a b c => Sys2Proof.Machine.execTlbinv h s2 all a b c s
  | .psdone h a imm => Sys2Proof.Machine.execPsdone h a imm s
  | .rdcnt h d n => Sys2Proof.Machine.execRdcnt h d n s
  | .rdtime h d => Sys2Proof.Machine.execRdtime h d s
  | .notify h d a => Sys2Proof.Machine.execNotify h d a s
  | .tokenPost q => Sys2Proof.Machine.execTokenPost q s
  | .instructionComplete q k => Sys2Proof.Machine.execInstructionComplete q k s
  | .transferComplete q k => Sys2Proof.Machine.execTransferComplete q k s
  | .wldFillComplete c ws => Sys2Proof.Machine.execWldFillComplete c ws s
  | .matrixComplete c => Sys2Proof.Machine.execMatrixComplete c s
  | .rrotComplete c => Sys2Proof.Machine.execRrotComplete c s
  | .watchdogTrap c => Sys2Proof.Machine.execWatchdogTrap c s
  | .tsubQueueEntry c => Sys2Proof.Machine.execTsubQueueEntry c s
  | .dependencesMet p seq => Sys2Proof.Machine.execDependencesMet p seq s
  | .taskRoute p seq ix => Sys2Proof.Machine.execTaskRoute p seq ix s
  | .weirTestCycle die => Sys2Proof.Machine.execWeirTestCycle die s
  | .buntingStart die => Sys2Proof.Machine.execBuntingStart die s
  | .taskDispatch p seq ix => Sys2Proof.Machine.execTaskDispatch p seq ix s
  | .gangDispatch p seq gang => Sys2Proof.Machine.execGangDispatch p seq gang s
  | .contextRetire c => Sys2Proof.Machine.execContextRetire c s
  | .launchCommit p seq => Sys2Proof.Machine.execLaunchCommit p seq s
  | .heldFireSubmit k => Sys2Proof.Machine.execHeldFireSubmit k s
  | .faultQueueJoin k => Sys2Proof.Machine.execFaultQueueJoin k s
  | .sideLogReplay core k => Sys2Proof.Machine.execSideLogReplay core k s
  | .fltresRetry c s2 token => Sys2Proof.Machine.execFltresRetry c s2 token s
  | .fltresAbandon c s2 token => Sys2Proof.Machine.execFltresAbandon c s2 token s
  | .fltqRead q d => Sys2Proof.Machine.execFltqRead q d s
  | .fltq2Read q d => Sys2Proof.Machine.execFltq2Read q d s
  | .sublogRead q d => Sys2Proof.Machine.execSublogRead q d s
  | .parklogRead q d => Sys2Proof.Machine.execParklogRead q d s
  | .audlogRead q d => Sys2Proof.Machine.execAudlogRead q d s
  | .fablogRead q d => Sys2Proof.Machine.execFablogRead q d s
  | .sweep die => Sys2Proof.Machine.execSweep die s
  | .scrubPage die => Sys2Proof.Machine.execScrubPage die s
  | .pgmap p v => Sys2Proof.Machine.execPgmap p v s
  | .pgmapPageTaken p => Sys2Proof.Machine.execPgmapPageTaken p s
  | .pgunmap p v => Sys2Proof.Machine.execPgunmap p v s
  | .pgfree v => Sys2Proof.Machine.execPgfree v s
  | .cvadmit c v => Sys2Proof.Machine.execCvadmit c v s
  | .codeVaultAdmissionEnd => Sys2Proof.Machine.execCodeVaultAdmissionEnd s
  | .cvwd1 v => Sys2Proof.Machine.execCvwd1 v s
  | .vload v => Sys2Proof.Machine.execVload v s
  | .shardTimeout n => Sys2Proof.Machine.execShardTimeout n s
  | .burgeeSend => Sys2Proof.Machine.execBurgeeSend s
  | .burgeedst v => Sys2Proof.Machine.execBurgeedst v s
  | .weircfgHeight die v => Sys2Proof.Machine.execWeircfgHeight die v s
  | .vaultcfgSize die v => Sys2Proof.Machine.execVaultcfgSize die v s
  | .rnpool p v => Sys2Proof.Machine.execRnpool p v s
  | .preqSaveContext c => Sys2Proof.Machine.execPreqSaveContext c s
  | .preqSavePolder p => Sys2Proof.Machine.execPreqSavePolder p s
  | .preqPartitionSwap p q => Sys2Proof.Machine.execPreqPartitionSwap p q s
  | .preqRestorePolder p => Sys2Proof.Machine.execPreqRestorePolder p s
  | .forcedSave c => Sys2Proof.Machine.execForcedSave c s
  | .contextRestore c => Sys2Proof.Machine.execContextRestore c s
  | .swapExchange => Sys2Proof.Machine.execSwapExchange s
  | .uncorrectableError site => Sys2Proof.Machine.execUncorrectableError site s
  | .dieLinkFailure a b => Sys2Proof.Machine.execDieLinkFailure a b s
  | .auditReplay k core wrong => Sys2Proof.Machine.execAuditReplay k core wrong s
  | .suspectClr core => Sys2Proof.Machine.execSuspectClr core s
  | .suspectQuar core on => Sys2Proof.Machine.execSuspectQuar core on s
  | .leveeClosing n => Sys2Proof.Machine.execLeveeClosing n s
  | .leveeCloseComplete n => Sys2Proof.Machine.execLeveeCloseComplete n s
  | .leveeOpen n => Sys2Proof.Machine.execLeveeOpen n s
  | .regionDetach n => Sys2Proof.Machine.execRegionDetach n s
  | .poolLinkDown port => Sys2Proof.Machine.execPoolLinkDown port s
  | .poolCompletionTimeout port => Sys2Proof.Machine.execPoolCompletionTimeout port s
  | .poolIdeLoss port => Sys2Proof.Machine.execPoolIdeLoss port s
  | .viralIndication port => Sys2Proof.Machine.execViralIndication port s
  | .backInvalidationSnoop k addr => Sys2Proof.Machine.execBackInvalidationSnoop k addr s
  | .readRequest port p => Sys2Proof.Machine.execReadRequest port p s
  | .writeRequest port p => Sys2Proof.Machine.execWriteRequest port p s
  | .atomicRequest port p => Sys2Proof.Machine.execAtomicRequest port p s
  | .readResponse port p => Sys2Proof.Machine.execReadResponse port p s
  | .writeAcknowledgement port p => Sys2Proof.Machine.execWriteAcknowledgement port p s
  | .errorResponse port p => Sys2Proof.Machine.execErrorResponse port p s
  | .shard port p => Sys2Proof.Machine.execShard port p s
  | .shardRequest port p => Sys2Proof.Machine.execShardRequest port p s
  | .burgee port p => Sys2Proof.Machine.execBurgee port p s
  | .fabricRequestTimeout rtag => Sys2Proof.Machine.execFabricRequestTimeout rtag s
  | .fabricAckTimeout port => Sys2Proof.Machine.execFabricAckTimeout port s
  | .fabricLinkDown port => Sys2Proof.Machine.execFabricLinkDown port s
  | .commonsMeteringPeriod => Sys2Proof.Machine.execCommonsMeteringPeriod s
  | .qosWindow => Sys2Proof.Machine.execQosWindow s
  | .atomicCredit => Sys2Proof.Machine.execAtomicCredit s
  | .pdctlConfigure p => Sys2Proof.Machine.execPdctlConfigure p s
  | .pdctlActivate p v => Sys2Proof.Machine.execPdctlActivate p v s
  | .pdctlDestroy p => Sys2Proof.Machine.execPdctlDestroy p s
  | .polderDestroyComplete p => Sys2Proof.Machine.execPolderDestroyComplete p s
  | .commons k v => Sys2Proof.Machine.execCommons k v s
  | .keyctlGenerate k => Sys2Proof.Machine.execKeyctlGenerate k s
  | .keyctlErase k => Sys2Proof.Machine.execKeyctlErase k s
  | .sealld c v => Sys2Proof.Machine.execSealld c v s
  | .mkey v => Sys2Proof.Machine.execMkey v s
  | .bootrec v => Sys2Proof.Machine.execBootrec v s
  | .hostBar2Access fn off size data => Sys2Proof.Machine.execHostBar2Access fn off size data s
  | .msixUnmask fn vec => Sys2Proof.Machine.execMsixUnmask fn vec s
  | .configurationRequest => Sys2Proof.Machine.execConfigurationRequest s
  | .getTdispVersion fn => Sys2Proof.Machine.execGetTdispVersion fn s
  | .getTdispCapabilities fn => Sys2Proof.Machine.execGetTdispCapabilities fn s
  | .lockInterfaceRequest fn => Sys2Proof.Machine.execLockInterfaceRequest fn s
  | .getDeviceInterfaceReport fn => Sys2Proof.Machine.execGetDeviceInterfaceReport fn s
  | .getDeviceInterfaceState fn => Sys2Proof.Machine.execGetDeviceInterfaceState fn s
  | .startInterfaceRequest fn => Sys2Proof.Machine.execStartInterfaceRequest fn s
  | .stopInterfaceRequest fn => Sys2Proof.Machine.execStopInterfaceRequest fn s
  | .negotiateAlgorithms offered => Sys2Proof.Machine.execNegotiateAlgorithms offered s
  | .getMeasurements slot index signed => Sys2Proof.Machine.execGetMeasurements slot index signed s
  | .ideKm stream => Sys2Proof.Machine.execIdeKm stream s
  | .ideIntegrityFailure stream => Sys2Proof.Machine.execIdeIntegrityFailure stream s
  | .moduleReset => Sys2Proof.Machine.execModuleReset s
  | .powerLoss => Sys2Proof.Machine.execPowerLoss s
  | .thermalWarning die => Sys2Proof.Machine.execThermalWarning die s
  | .thermalTrip die => Sys2Proof.Machine.execThermalTrip die s
  | .firmwareUpdate version image signature => Sys2Proof.Machine.execFirmwareUpdate version image signature s
  | .poolLinkActive port narrow slow => Sys2Proof.Machine.execPoolLinkActive port narrow slow s
  | .sweepComplete die => Sys2Proof.Machine.execSweepComplete die s
  | .spdmSecuredSession slot => Sys2Proof.Machine.execSpdmSecuredSession slot s
  | .otherPacketType port p => Sys2Proof.Machine.execOtherPacketType port p s

end Sys2Proof.Machine
end

