-- ==== Sys2Proof/Machine/Sched.lean ====
section
/-! DEFINITION. What a step does next: the events of the device that are due, the sequencer that issues, and the passing of
time (R80, R83, R87, R163, R243, R261, R287, R306, R307; log entries 3 and 4). The order of the choices is one of those
that the spec allows (DESIGN CHOICE, log entry 4). -/

namespace Sys2Proof.Machine


/-- The first answer of a list of choices. -/
def firstSome {α : Type} : List (Option α) → Option α
  | [] => none
  | some a :: _ => some a
  | none :: l => firstSome l

def dieNums : List (BitVec 2) := [0, 1, 2, 3]
def polderNums : List (BitVec 4) := (List.range 16).map (BitVec.ofNat 4)

/-! Effects that no row of the table stands for -/

/-- What a context does by itself: a pending trap, its header's check, a pre-emption request, the end of a fill's wait, the
elements of a reduction that credits reach, the end of a replay, a cooperative save. -/
def ctxQuiet (s : State) (c : Ctx) : Option State :=
  match pendingTrap c with
  | some t => some (takePending s c t)
  | none =>
    if headerDue s c then some (headerCheck s c.id)
    else if preemptDue c then some (takePreempt s c)
    else
      match fourSeqs.find? (fillDue s c) with
      | some q => some (modCtx s c.id fun c => c.freeHold q (Hold.filled s))
      | none =>
        match fourSeqs.findSome? (creditStep s c) with
        | some t => some t
        | none =>
          match c.replay with
          | some r => if c.retags = [] then some (endReplay s c r) else none
          | none => if coopDue s c then some (saveCtx s c false) else none

/-- Start-up, a watchpoint's fire that can go on, a rename buffer's fill that waited, and what a context does by itself. -/
def quietStep (s : State) : Option State :=
  if s.startup < 5 then some (startupStep s)
  else
    match nextFire s s.fires [] with
    | some f => some (runFire { s with fires := s.fires.erase f } f)
    | none =>
      match fillDueIn s with
      | some (l, r) => some (fillBuffer s l r)
      | none => s.ctxs.findSome? (ctxQuiet s)

/-! Events that are due -/

/-- A completion or a post of a sequencer. -/
def seqEvent (s : State) (c : Ctx) (q : Seqr) : Option Instr :=
  let id : SeqId := { core := c.id.core, slot := c.id.slot, seq := q }
  let ops := (c.seq q).ops
  match ((List.range ops.length).zip ops).find? fun x => opReady s c q x.1 x.2 with
  | some x => some (.instructionComplete id x.1)
  | none => if (postReady s c q).isSome then some (.tokenPost id) else none

/-- A transfer that goes on. -/
def xferEvent (s : State) (c : Ctx) : Option Instr :=
  (c.xfers.find? fun x =>
      (match x.kind with | .wld _ => false | _ => true) && xferReady s c.id x).map
    fun x => .transferComplete { core := c.id.core, slot := c.id.slot, seq := x.seq } x.id

/-- What is due in a context. -/
def ctxEvent (s : State) (c : Ctx) : Option Instr :=
  firstSome
    [ fourSeqs.findSome? (seqEvent s c)
    , xferEvent s c
    , ([false, true].find? (wldReady s c)).map fun ws => .wldFillComplete c.id ws
    , if c.matrix != [] && c.replay.isNone then some (.matrixComplete c.id) else none
    , if c.rrotWait && (c.gang.any fun g => rrotReady s g) then some (.rrotComplete c.id) else none
    , if watchdogDue c then some (.watchdogTrap c.id) else none
    , if forcedDue s c then some (.forcedSave c.id) else none
    , if retireReady s c then some (.contextRetire c.id) else none ]

/-- A side-log entry that can be replayed. -/
def sideEvent (s : State) (c : Ctx) : Option Instr :=
  ((ctxSide s c.id).find? fun e => sideReady s c.id.core e && (replaySide s c e).isSome).map
    fun e => .sideLogReplay c.id.core e.id

/-- What is due for a launch. -/
def launchEvent (s : State) (l : Launch) : Option Instr :=
  if !l.blocked s then some (.dependencesMet l.polder l.seq)
  else if commitReady s l then some (.launchCommit l.polder l.seq)
  else none

/-- The task that the front end moves. -/
def routeEvent (s : State) : Option Instr :=
  let all := routeCands s
  all.findSome? fun c =>
    match findLaunch s c.polder c.seq with
    | none => none
    | some l =>
      if !goesFirst s all c then none
      else if (routeTask s l c.index).isSome then some (.taskRoute c.polder c.seq c.index)
      else none

/-- The routed task, or the gang, that a die's dispatcher starts. -/
def dispatchEvent (s : State) : Option Instr :=
  let all := dispatchCands s
  (all.find? (goesFirst s all)).bind fun c => (findLaunch s c.polder c.seq).map fun l =>
    if l.rcd.gang then .gangDispatch c.polder c.seq (c.index / 8) else .taskDispatch c.polder c.seq c.index

def buntingEvent (s : State) (d : BitVec 2) : Option Instr :=
  match firstBunting s d.toNat with
  | none => none
  | some b => if (bunPlace s b).isSome && meterOk s b then some (.buntingStart d) else none

/-- What is due in a die. -/
def dieEvent (s : State) (d : BitVec 2) : Option Instr :=
  if scrubDue s d.toNat then some (.scrubPage d)
  else if (getDie s d.toNat).sweepBusy then some (.sweepComplete d)
  else none

/-- What is due for a polder. -/
def polderEvent (s : State) (p : BitVec 4) : Option Instr :=
  if (pageReady s p).isSome then some (.pgmapPageTaken p)
  else if destroyDue s p then some (.polderDestroyComplete p)
  else none

/-- A shard that has not come. -/
def shardEvent (s : State) : Option Instr :=
  match s.load with
  | none => none
  | some l =>
    if l.active then
      ((List.range l.shards).find? fun n => !l.got.getD n true && l.asked.getD n 0 + l.timeout ≤ s.cycle).map .shardTimeout
    else none

/-- An audit with no replay under way: its next replay starts, or the one that has ended is compared (R277). -/
def auditEvent (s : State) : Option Instr :=
  (s.audits.find? fun a => !auditRunning s a.index).map fun a => .auditReplay a.index (auditTurn s a) 0

/-- What is due anywhere in the device. -/
def nextEvent (s : State) : Option Instr :=
  firstSome
    [ s.ctxs.findSome? (ctxEvent s)
    , s.ctxs.findSome? (sideEvent s)
    , ((List.range s.roomWait.length).find? fun k => ((s.roomWait[k]?).map fun x => joinReady s k x.1) == some true).map
        .faultQueueJoin
    , (s.heldSubs.find? fun h => (subReady s h).isSome).map fun h => .tsubQueueEntry h.ctx
    , ((List.range s.heldFires.length).find? fun k => ((s.heldFires[k]?).map (heldFireReady s)) == some true).map
        .heldFireSubmit
    , (s.saved.find? fun v => restoreDue s v).map fun v => .contextRestore v.ctx.id
    , if (exchangeDue s).isSome then some .swapExchange else none
    , s.polders.findSome? fun d => d.queue.findSome? (launchEvent s)
    , routeEvent s
    , dispatchEvent s
    , dieNums.findSome? (buntingEvent s)
    , dieNums.findSome? (dieEvent s)
    , polderNums.findSome? (polderEvent s)
    , auditEvent s
    , if admissionDue s then some .codeVaultAdmissionEnd else none
    , (s.regions.find? fun r => closeReady s r.1).map fun r => .leveeCloseComplete (BitVec.ofNat 14 r.1)
    , shardEvent s
    , (s.fabReqs.find? fun r => r.since + 115200 ≤ s.cycle).map fun r => .fabricRequestTimeout r.rtag
    , if s.burgeeDst != 0 && s.burgeeDue ≤ s.cycle then some .burgeeSend else none ]

/-! The sequencer that issues next (R80) -/

/-- Where a sequencer could issue: first core with a context at or after the given one, in a circle. -/
def nextCore (s : State) (core : Nat) : Option Nat :=
  ((List.range 160).map fun i => (core + i) % 160).find? fun k => s.ctxs.any fun c => c.id.core == k

/-- The first context in a port's order. -/
def portFirst (s : State) (core : Nat) (q : Seqr) : Option SeqId :=
  (((getCore s core).ports.getD (seqIndex q) []).head?).map fun n => { core := core, slot := n, seq := q }

/-- The contexts behind a slot in a port's order. -/
def portAfter (s : State) (q : SeqId) : Option SeqId :=
  let l := ((getCore s q.core).ports.getD (seqIndex q.seq) []).dropWhile (· != q.slot)
  (l.tail.head?).map fun n => { q with slot := n }

/-- The ports of a core from the given one on. -/
def portsFrom (s : State) (core : Nat) (qs : List Seqr) : Option SeqId := qs.findSome? (portFirst s core)

def laterSeqs : Seqr → List Seqr
  | .X => [.L, .C, .S] | .L => [.C, .S] | .C => [.S] | .S => []

/-- The next sequencer: a port that did not issue asks the next context in its order; then the next port, then the next
core. -/
def turn (s : State) (issued : Bool) : State :=
  let next := firstSome
    [ if issued then none else portAfter s s.cur
    , portsFrom s s.cur.core (laterSeqs s.cur.seq)
    , (nextCore s (s.cur.core + 1)).bind fun k => portsFrom s k fourSeqs ]
  { s with cur := next.getD s.cur }

/-- The current sequencer has issued, or has entered or left a handler. -/
def issuedIn (s t : State) : Bool :=
  match getCtx s (ctxOf s.cur), getCtx t (ctxOf s.cur) with
  | some a, some b =>
    (a.seq s.cur.seq).retired != (b.seq s.cur.seq).retired || a.frames.length != b.frames.length
  | some _, none => true
  | none, _ => false

/-! Time -/

/-- A request's budget: once the polder's is used up, the sequencers stop for the forced save (R264). -/
def PreemptReq.tick (budget : Nat) (r : PreemptReq) : PreemptReq :=
  { r with used := if budget ≤ r.used + 1 then 65536 else r.used + 1 }

/-- A cycle of a resident context (R83, R261, R309). -/
def Ctx.tick (s : State) (c : Ctx) : Ctx :=
  { c with watchdog := c.watchdog + 1, resident := c.resident + 1
           preempt := c.preempt.map (PreemptReq.tick (getPolder s c.polder).pbudget) }

/-- A cycle of a running bunting's member on the commons (R287). -/
def meterMember (s : State) (m : Member) : State :=
  if m.parked.isSome then s
  else
    modPolder s m.task.polder fun d =>
      let b := d.bal - Int.ofNat m.rows
      { d with bal := if b < -(2 ^ 31) then -(2 ^ 31) else b }

def meterAll (s : State) : State :=
  s.buntings.foldl (fun t b => if b.running.isSome && b.replay.isNone then b.members.foldl meterMember t else t) s

/-- Events that fall on the cycle that begins (R243, R287, R306, R307). -/
def periodic (s : State) : List Instr :=
  (if s.cycle % 65536 = 0 then [.commonsMeteringPeriod] else [])
    ++ (if s.cycle % 4096 = 0 then [.qosWindow] else [])
    ++ (if s.cycle % 1024 = 0 then [.atomicCredit] else [])
    ++ (dieNums.filter fun d => sweepDue s d.toNat).map .sweep

/-- The entries of a TLB or walk cache that are still held (R241). -/
def keepEntries {α : Type} (cycle place : Nat) (l : List α) : List α :=
  ((List.range l.length).zip l).filterMap fun x => if Config.entryKept cycle (place + x.1) then some x.2 else none

/-- The TLBs and walk caches after a cycle: any entry may go at any time (R241). The places of the tables do not meet. -/
def ageTlbs (s : State) : State :=
  { s with
    cores := s.cores.mapIdx fun n k => { k with tlb := keepEntries s.cycle (n * 2 ^ 14) k.tlb }
    dies := s.dies.mapIdx fun n d =>
      { d with tlb2 := keepEntries s.cycle ((160 + n) * 2 ^ 14) d.tlb2
               walks := keepEntries s.cycle ((164 + n) * 2 ^ 14) d.walks } }

/-- The residency tables after a cycle: what a core or an L2 no longer holds has left them (R179). -/
def refreshTables (s : State) : State :=
  (List.range 160).foldl refreshResid { s with dies := s.dies.map refreshSummary }

/-- A cycle passes. The deadline releases of a test cycle come after all that has arrived in it (R163, R165). -/
def tick (s : State) : State :=
  let s := dueReleases s
  let s1 := refreshTables (ageTlbs (meterAll { s with cycle := s.cycle + 1, ctxs := s.ctxs.map (Ctx.tick s) }))
  { s1 with agenda := periodic s1 ++ s1.agenda }

/-- A step of the device's own ends: its cycle passes. -/
def afterEvent : Answer → Answer
  | .next t => .next (tick t)
  | r => r

/-- A sequencer's step ends: the next sequencer has its turn and the cycle passes. -/
def afterIssue (s : State) : Answer → Answer
  | .next t => .next (tick (turn t (issuedIn s t)))
  | r => r

/-! The sequencer's step (R80, R81, R89 to R95) -/

/-- The instruction at a point whose line is there: passed over, no instruction, or executed. -/
def runSlot (s : State) (c : Ctx) (x : Seq) (l : Line) : Answer :=
  if x.skip then .next (skipOne s c.id s.cur.seq)
  else
    match fetched l x.pc.slot with
    | .illegal => .next (illegalAt s c s.cur.seq)
    | .instr i => exec i s

/-- The current sequencer fetches its line if it has none, and issues. -/
def runSeq (s : State) : Answer :=
  match getCtx s (ctxOf s.cur) with
  | none => .next s
  | some c =>
    if !c.canIssue s.cur.seq then .next s
    else
      match c.lateTrap s.cur.seq with
      | some t => .next (takeTrap (modCtx s c.id fun c => { c with pending := c.pending.erase t }) c t)
      | none =>
        match (c.seq s.cur.seq).line with
        | some l => runSlot s c (c.seq s.cur.seq) l
        | none =>
          let s1 := fetchStep s c s.cur.seq
          match getCtx s1 (ctxOf s.cur) with
          | none => .next s1
          | some c1 =>
            match (c1.seq s.cur.seq).line with
            | some l => if c1.frames.length = c.frames.length then runSlot s1 c1 (c1.seq s.cur.seq) l else .next s1
            | none => .next s1

/-- A powered device whose clocks run: an outside or periodic event, an event that is due, or an instruction. -/
def runStep (s : State) : Answer :=
  match s.agenda with
  | i :: l => exec i { s with agenda := l }
  | [] =>
    match quietStep s with
    | some t => .next (tick t)
    | none =>
      match nextEvent s with
      | some i => afterEvent (exec i s)
      | none => afterIssue s (runSeq s)

/-- Without power nothing but a module reset happens (R23); a trip holds the module until power is cycled (R25). What else
was to come from outside is lost. -/
def deviceStep (s : State) : Answer :=
  if !s.powered then
    (match s.agenda with
     | .moduleReset :: l => exec .moduleReset { s with agenda := l }
     | _ :: l => .next { s with agenda := l }
     | [] => .fault .noPower)
  else if s.halted then
    (match s.agenda with
     | .powerLoss :: l => exec .powerLoss { s with agenda := l }
     | _ :: l => .next { s with agenda := l }
     | [] => .fault .halted)
  else runStep s

/-! A program's first instruction (log entry 3) -/

/-- The sequencer on which an instruction is legal, X first. -/
def homeSeq : Instr → Seqr
  | .pref .. | .cmnt .. => .X
  | .vld .. | .vst .. | .vldScratchpad .. | .vstScratchpad .. | .vldAcc .. | .vldx .. | .vstx .. | .vredx .. => .L
  | .tld .. | .tldRows .. | .tldAdp .. | .scopy .. | .rrot .. | .wld .. => .L
  | .tst .. | .tscat .. => .S
  | .mma .. | .mmas .. | .mmag .. | .mzero .. | .mstat .. => .C
  | .vadd .. | .vsub .. | .vmul .. | .vfma .. | .vmin .. | .vmax .. | .vabs .. | .vneg .. | .vand .. | .vor .. | .vxor ..
  | .vshl .. | .vshr .. | .vcmp .. | .vsel .. | .vpcnt .. | .vbtst .. | .vred .. | .vscan .. | .vcvt .. | .vpack ..
  | .vunpk .. | .vsfn .. | .vperm .. | .vbcast .. | .vidx .. | .vmovs .. | .vcprs .. | .vxpnd .. | .qand .. | .qor ..
  | .qnot .. => .C
  | _ => .X

/-- The address of the placed image, and its one line of instructions: link word, then the word in slot 0. -/
def bootImage : Nat := 0x10000

def bootLine (q : Seqr) (w : InstrWord) : Nat := seqIndex q * 2 ^ 30 + 2 * 2 ^ 27 + 2 ^ 26 + w.toNat * 2 ^ 32

/-- A reeve context of polder 0 in slot 0 of core 0, standing at line 1, slot 0, of the placed image. -/
def bootCtx (q : Seqr) : Ctx :=
  let c := Ctx.fresh { core := 0, slot := 0 }
  { c with priv := .reeve, image := BitVec.ofNat 64 bootImage, headerBad := false, lines := 2, entries := [1, 1, 1, 1] }.modSeq
    q fun x => { x with pc := { line := 1, slot := 0, bad := false } }

/-- A loaded program whose first instruction is the word: start-up has ended and the boot task's context runs. -/
def placeInstr (s : State) (w : InstrWord) : State :=
  let q := match decode w with | .ok i => homeSeq i | .error _ => .X
  let s1 := { s with
    startup := 5, powered := true, halted := false, agenda := [], fires := [], cur := { core := 0, slot := 0, seq := q }
    ctxs := s.ctxs.filter fun c => c.id != { core := 0, slot := 0 } }
  addCtx (hbmWrite s1 0 (bootImage + 64) (leBytes (bootLine q w) 64)) (bootCtx q)

end Sys2Proof.Machine
end

