-- ==== Sys2Proof/Machine/Step.lean ====
section
/-! DEFINITION. One step of the machine, and the placing of an instruction where the next step fetches it. -/

namespace Sys2Proof.Machine

/-- One step: an event, or an instruction of the sequencer whose turn it is. -/
def step (s : State) : Host.Outcome State Fault Refusal := deviceStep s

/-- The state with a word stored where step fetches its next instruction (log entry 3). -/
def State.withFetchWord (s : State) (nbits w : Nat) : State := placeInstr s (BitVec.ofNat 96 (w % 2 ^ Nat.max nbits 96))

end Sys2Proof.Machine
end

