-- ==== Sys2Proof/Safety.lean ====
section
/-! DEFINITION. What counts as a safe run, and the terms in which claims speak of a step: the canonical form of the
memories, when an instruction issues (R71, R81, R94, R95), and what an instruction leaves unchanged. -/

namespace Sys2Proof

open Machine

/-- Both memories stand in their canonical form: addresses strictly rising, no entry equal to what an unlisted address
reads as. -/
def MemoryOk (s : State) : Prop := Memory.wf s.mem = true ∧ Memory.wf s.pool = true

/-- A safe step: it answers a next state whose memories stand in their canonical form. -/
def SafeStep (s : State) : Prop := ∃ t, step s = .next t ∧ MemoryOk t

/-- The instruction i with header h issues on the current sequencer of context c and its guards hold: the sequencer may
issue (R81), no imprecise trap waits for it (R252), checks 1 to 3 pass (R95), its wait would succeed (R71) and its guards
are true (R94). seqs are the sequencers on which the spec makes it legal. Check 4 is stated apart, where there is one. -/
structure Issues (s : State) (c : Ctx) (i : Instr) (h : Hdr) (seqs : List Seqr) : Prop where
  ctx    : getCtx s (ctxOf s.cur) = some c
  ready  : c.canIssue s.cur.seq = true
  late   : c.lateTrap s.cur.seq = none
  form   : WellFormed i
  legal  : seqs.contains s.cur.seq = true
  waits  : waitsAt h.wq.toNat s.cur.seq = true
  posts  : postsFrom h.pq.toNat s.cur.seq = true
  tokens : c.waitOk s.cur.seq h = true
  free   : c.busyReg s.cur.seq (scalarRegs i) = false
  guards : c.guardsHold s.cur.seq h = true

/-- Nothing outside the issuing context changes, but for the rotation of the issue ports (R80): no device, die, polder or
special register, no memory, no other context. -/
structure FrameOutside (s t : State) : Prop where
  device : { t with ctxs := s.ctxs, cores := s.cores } = s
  cores  : ∀ n, { getCore t n with ports := [] } = { getCore s n with ports := [] }
  others : ∀ id, id ≠ ctxOf s.cur → getCtx t id = getCtx s id
  memory : ∀ k a, physByte t k a = physByte s k a

/-- A context without its registers, its sequencers' progress, its queues, its watchdog and its count of issues: its
identity, its special registers, its windows, its scratchpad, its handlers, its tiles, staging slots and transfers. -/
def ctxRest (d : Ctx) : Ctx :=
  let z := Ctx.fresh { core := 0, slot := 0 }
  { d with x := z.x, l := z.l, c := z.c, s := z.s, shared := z.shared, vreg := z.vreg, preg := z.preg, tokens := z.tokens
           watchdog := 0, issued := 0 }

/-- Within the issuing context, apart from the registers and the sequencer's own progress, only the wait's queue changes
(R71) and the watchdog starts again (R83): no other sequencer, no special register, no FPCR flag, no scratchpad byte. -/
structure FrameContext (q : Seqr) (h : Hdr) (c d : Ctx) : Prop where
  others : ∀ p, p ≠ q → d.seq p = c.seq p
  tokens : d.tokens = (takeWait h q c).tokens
  rest   : ctxRest d = ctxRest c

/-- No scalar register changes. -/
def ScalarKept (q : Seqr) (c d : Ctx) : Prop := ∀ r, d.rS q r = c.rS q r

/-- Scalar register r becomes v, a write to s0 is discarded, and every other scalar register is as before (R74). -/
def ScalarWritten (q : Seqr) (r : SReg) (v : Word) (c d : Ctx) : Prop :=
  ∀ x, d.rS q x = if x = r ∧ x ≠ 0 then v else c.rS q x

/-- No guard changes. -/
def GuardsKept (q : Seqr) (c d : Ctx) : Prop := ∀ g, d.rG q g = c.rG q g

/-- Guard g becomes b, a write to g0 is discarded, and every other guard is as before (R74). -/
def GuardWritten (q : Seqr) (g : GReg) (b : Bool) (c d : Ctx) : Prop :=
  ∀ x, d.rG q x = if x = g ∧ x ≠ 0 then b else c.rG q x

/-- No vector and no predicate register changes. -/
def VectorsKept (c d : Ctx) : Prop := d.vreg = c.vreg ∧ d.preg = c.preg

/-- The sequencer stands behind the instruction, which counts as issued (R71, R92). -/
def Advanced (q : Seqr) (c d : Ctx) : Prop :=
  (d.seq q).pc = (c.seq q).advance.1 ∧ (d.seq q).retired = (c.seq q).retired + 1

/-- The sequencer stands at the point p, which its next fetch uses (R92). -/
def BranchedTo (q : Seqr) (p : CodePoint) (c d : Ctx) : Prop :=
  (d.seq q).pc = p ∧ (d.seq q).line = none ∧ (d.seq q).retired = (c.seq q).retired + 1

/-- An instruction of the current sequencer that writes scalar register r with v and nothing else but its own progress. -/
def WritesScalar (s t : State) (c : Ctx) (h : Hdr) (r : SReg) (v : Word) : Prop :=
  FrameOutside s t ∧ ∃ d, getCtx t (ctxOf s.cur) = some d ∧ FrameContext s.cur.seq h c d ∧ VectorsKept c d
    ∧ GuardsKept s.cur.seq c d ∧ ScalarWritten s.cur.seq r v c d ∧ Advanced s.cur.seq c d

/-- The same for a guard. -/
def WritesGuard (s t : State) (c : Ctx) (h : Hdr) (g : GReg) (b : Bool) : Prop :=
  FrameOutside s t ∧ ∃ d, getCtx t (ctxOf s.cur) = some d ∧ FrameContext s.cur.seq h c d ∧ VectorsKept c d
    ∧ ScalarKept s.cur.seq c d ∧ GuardWritten s.cur.seq g b c d ∧ Advanced s.cur.seq c d

/-- The instruction, issued on one of the given sequencers, completes: it writes v to scalar register r, and nothing else
changes. -/
def GivesScalar (s : State) (c : Ctx) (i : Instr) (h : Hdr) (seqs : List Seqr) (r : SReg) (v : Word) : Prop :=
  Issues s c i h seqs → ∃ t, exec i s = .next t ∧ WritesScalar s t c h r v

/-- The same for a guard. -/
def GivesGuard (s : State) (c : Ctx) (i : Instr) (h : Hdr) (seqs : List Seqr) (g : GReg) (b : Bool) : Prop :=
  Issues s c i h seqs → ∃ t, exec i s = .next t ∧ WritesGuard s t c h g b

/-- The instruction, whose post is at scope sc, issued, completes its issue: outside its context nothing changes from u, what
its effect leaves of the device, but the L1 lines that its wait drops at that scope (R72, R196); within it only what P
says. -/
def GivesFrom (s u : State) (c : Ctx) (i : Instr) (h : Hdr) (seqs : List Seqr) (sc : Scope) (P : Ctx → Prop) : Prop :=
  Issues s c i h seqs → ∃ t d, exec i s = .next t ∧ FrameOutside (waitAcquire u (ctxOf s.cur).core h sc) t
    ∧ getCtx t (ctxOf s.cur) = some d ∧ FrameContext s.cur.seq h c d ∧ VectorsKept c d ∧ GuardsKept s.cur.seq c d ∧ P d

/-- The same of an instruction without an effect outside its context, whose post is at context scope. -/
def Gives (s : State) (c : Ctx) (i : Instr) (h : Hdr) (seqs : List Seqr) (P : Ctx → Prop) : Prop :=
  GivesFrom s s c i h seqs .ctx P

/-- The answer of an instruction that has issued and traps before its effect, in the state u that its checks leave: its port
has had its turn (R80). -/
def trapsIn (u : State) (h : Hdr) (cause detail : Nat) (addr : Word) : Answer :=
  .next (trapBefore (rotate u (ctxOf u.cur) u.cur.seq h.yld) (ctxOf u.cur) u.cur.seq (mkTrap u.cur.seq cause detail addr))

/-- The operation that the sequencer issued last: its kind, its post, the trap that stands behind it and its
exceptions. -/
def LastOp (q : Seqr) (d : Ctx) (kind : OpKind) (post : BitVec 4) (trap : Option TrapReq) (bits : BitVec 5)
    (causes : BitVec 8) : Prop :=
  ∃ o, (d.seq q).ops.getLast? = some o ∧ o.kind = kind ∧ o.post = post ∧ o.trap = trap ∧ o.exc.bits = bits
    ∧ o.exc.causes = causes ∧ o.done = false

/-- The trap of an enabled exception (R44): none if no raised exception is enabled. -/
def enabledTrap (q : Seqr) (c : Ctx) (e : Exc) : Option TrapReq :=
  let hit := enabledExc (fpcrEnables c.fpcr) e
  if hit = 0 then none else some (mkTrap q 0x05 hit.toNat 0)

/-- The results in the registers ds: each takes its result, the tag and the pennant, and every other register stays as it
was (R384, R385). -/
def VectorWritten (c d : Ctx) (ds : List VReg) (xs : List VData) (tag : Fmt) (pen : BitVec 12) : Prop :=
  ∀ k, d.rV k =
    match (ds.zip xs).find? (fun y => y.1 == k) with
    | some y => { data := y.2, tag := tag, pen := pen }
    | none => c.rV k

/-- What no vector instruction with a vector destination changes: predicate registers, guards, scalar registers. -/
def VectorFrame (c d : Ctx) : Prop :=
  d.preg = c.preg ∧ GuardsKept .C c d ∧ ScalarKept .C c d ∧ Advanced .C c d

/-- A vector instruction issued on C with sources srcs, whose tags are as it needs them (tags), destinations ds, results
xs and exceptions e (R34, R44, R168, R172, R173, R385). A wrong tag and pennants that mix trap before effect. A parked
member's pennant alone reaches the destinations, without results and exceptions. Otherwise the results are written, with
the pennant of the sources; the exceptions go to the completion, and an enabled one traps behind the instruction; those of
a bunting's member go by the member's own enables, and an enabled one parks it. -/
def GivesVector (s : State) (c : Ctx) (i : Instr) (h : Hdr) (tags : Bool) (srcs : List VecReg) (ds : List VReg)
    (xs : List VData) (e : Exc) (tag : Fmt) : Prop :=
  Issues s c i h [.C] →
    (tags = false → exec i s = trapsIn s h 0x04 0 0)
      ∧ (tags = true → pennants s c srcs = .mix →
          exec i s = trapsIn s h 0x16 0 0)
      ∧ (tags = true → ∀ p, pennants s c srcs = .parked p →
          ∃ t d, exec i s = .next t ∧ FrameOutside s t ∧ getCtx t (ctxOf s.cur) = some d ∧ FrameContext .C h c d
            ∧ VectorFrame c d ∧ (∀ k, d.rV k = if k ∈ ds then { c.rV k with pen := p } else c.rV k)
            ∧ LastOp .C d .plain h.pq none 0 0)
      ∧ (tags = true → ∀ p, pennants s c srcs = .carries p → memberEnables s c p = none →
          ∃ t d, exec i s = .next t ∧ FrameOutside s t ∧ getCtx t (ctxOf s.cur) = some d ∧ FrameContext .C h c d
            ∧ VectorFrame c d ∧ VectorWritten c d ds xs tag p
            ∧ LastOp .C d .plain h.pq (enabledTrap .C c e) e.bits e.causes)
      ∧ (tags = true → ∀ p b en, pennants s c srcs = .carries p → memberEnables s c p = some (b, en) →
          ∃ t d, exec i s = .next t ∧ getCtx t (ctxOf s.cur) = some d ∧ VectorFrame c d ∧ VectorWritten c d ds xs tag p
            ∧ LastOp .C d .plain h.pq none e.bits e.causes
            ∧ (enabledExc en e = 0 → FrameOutside s t ∧ FrameContext .C h c d)
            ∧ (enabledExc en e ≠ 0 → memberParked t d p = true))

/-- A vector instruction whose destination is no vector register: the change f of its context, under the same checks of
tags and pennants; a parked member's leaves nothing (R385). -/
def GivesOther (s : State) (c : Ctx) (i : Instr) (h : Hdr) (tags : Bool) (srcs : List VecReg) (P : Ctx → Prop) : Prop :=
  Issues s c i h [.C] →
    (tags = false → exec i s = trapsIn s h 0x04 0 0)
      ∧ (tags = true → pennants s c srcs = .mix →
          exec i s = trapsIn s h 0x16 0 0)
      ∧ (tags = true → ∀ p, pennants s c srcs = .parked p →
          ∃ t d, exec i s = .next t ∧ FrameOutside s t ∧ getCtx t (ctxOf s.cur) = some d ∧ FrameContext .C h c d
            ∧ VectorsKept c d ∧ GuardsKept .C c d ∧ ScalarKept .C c d ∧ Advanced .C c d)
      ∧ (tags = true → ∀ p, pennants s c srcs = .carries p →
          ∃ t d, exec i s = .next t ∧ FrameOutside s t ∧ getCtx t (ctxOf s.cur) = some d ∧ FrameContext .C h c d
            ∧ d.vreg = c.vreg ∧ GuardsKept .C c d ∧ Advanced .C c d ∧ P d)

/-- Predicate register r becomes x, and every other stays as it was (R75). -/
def PredicateWritten (c d : Ctx) (r : QReg) (x : PData) : Prop := ∀ k, d.rQ k = if k = r then x else c.rQ k

/-! Numbers -/

/-- The number that a finite value stands for (R26). -/
def Machine.FVal.num : FVal → Rat
  | .fin s m e => (if s then -1 else 1) * (m : Rat) * (2 : Rat) ^ e
  | _ => 0

/-- Neither a NaN nor an infinity. -/
def Machine.FVal.finite : FVal → Bool
  | .fin _ _ _ => true
  | _ => false

/-- Rounding in a mode carries x away from 0 as far as b or farther, where d is how far the number before b lies below it;
a tie goes to b if it is even. -/
def Reaches (mode : RMode) (even : Bool) (b d x : Rat) : Prop :=
  match mode with
  | .rne => if even then b - d / 2 ≤ x.abs else b - d / 2 < x.abs
  | .rtz => b ≤ x.abs
  | .rup => if x < 0 then b ≤ x.abs else b - d < x.abs
  | .rdn => if x < 0 then b - d < x.abs else b ≤ x.abs

/-- y encodes the finite number of the format to which x rounds in a mode, with the sign of x (R36). -/
def RoundsTo (p : FP) (mode : RMode) (x : Rat) (y : Nat) : Prop :=
  let v := (decodeF p y).num
  y < 2 ^ p.width ∧ (decodeF p y).finite = true ∧ (2 ^ p.signBit ≤ y ↔ x < 0)
    ∧ ∀ z, z < 2 ^ p.width → (decodeF p z).finite = true →
        let w := (decodeF p z).num
        match mode with
        | .rne => (v - x).abs < (w - x).abs ∨ w = v ∨ ((v - x).abs = (w - x).abs ∧ y % 2 = 0)
        | .rtz => v.abs ≤ x.abs ∧ (w.abs ≤ x.abs → w.abs ≤ v.abs)
        | .rup => x ≤ v ∧ (x ≤ w → v ≤ w)
        | .rdn => v ≤ x ∧ (w ≤ x → w ≤ v)

/-- r is x, not 0, rounded once into a format, with its exceptions (R36, R38, R39, R45, R50): beyond the largest finite
number an infinity or that number, as the mode and .sat give, or in E4M3 the NaN of cause 6; else the number to which x
rounds, a subnormal one flushed to 0 under FTZ. -/
def Rounded (p : FP) (mode : RMode) (ftz sat : Bool) (x : Rat) (r : Nat × Exc) : Prop :=
  let top := (decodeF p p.maxBits).num
  let ulp := top - (decodeF p (p.maxBits - 1)).num
  let normal := (decodeF p (2 ^ p.fb)).num
  let beyond := Reaches mode (p.maxBits % 2 == 1) (top + ulp) ulp x
  let neg := if x < 0 then 2 ^ p.signBit else 0
  let on : Exc := { Exc.none with ov := true, nx := true }
  let outward : Prop := mode = .rne ∨ (mode = .rup ∧ 0 < x) ∨ (mode = .rdn ∧ x < 0)
  (beyond → sat = true → r = (neg + p.maxBits, on))
    ∧ (beyond → sat = false → p.inf = true → (outward → r = (neg + p.infBits, on)) ∧ (¬ outward → r = (neg + p.maxBits, on)))
    ∧ (beyond → sat = false → p.inf = false → r = (0x7F, { on with nv := true, causes := causeSet 6 }))
    ∧ (¬ beyond → ∃ y, RoundsTo p mode x y
        ∧ let low := ftz = true ∧ p.eb = 8 ∧ 0 < y % 2 ^ p.signBit ∧ y % 2 ^ p.signBit < 2 ^ p.fb
          (low → r = (neg, { Exc.none with uf := true, nx := true }))
            ∧ (¬ low → r = (y, { Exc.none with nx := r.2.nx, uf := r.2.uf })
              ∧ (r.2.nx = true ↔ (decodeF p y).num ≠ x)
              ∧ (r.2.uf = true ↔ (decodeF p y).num ≠ x ∧ ¬ Reaches mode true normal (normal / 2 ^ (p.fb + 1)) x)))

/-- n is x rounded to a whole number (R36, R52). -/
def RoundsToInt (mode : RMode) (x : Rat) (n : Int) : Prop :=
  match mode with
  | .rne => ((n : Rat) - x).abs ≤ 1 / 2 ∧ (((n : Rat) - x).abs = 1 / 2 → n % 2 = 0)
  | .rtz => (n : Rat).abs ≤ x.abs ∧ x.abs < (n : Rat).abs + 1 ∧ 0 ≤ (n : Rat) * x
  | .rup => x ≤ n ∧ (n : Rat) < x + 1
  | .rdn => (n : Rat) ≤ x ∧ x < n + 1

/-! Memory -/

/-- A byte of one of the pieces. -/
def PieceAt (segs : List Seg) (a : Nat) : Prop := ∃ x ∈ segs, x.pa ≤ a ∧ a < x.pa + x.len

/-- Every piece that touches the line of address a is written under key slot k. -/
def KeyFits (segs : List Seg) (k a : Nat) : Prop :=
  ∀ x ∈ segs, lineOf x.pa ≤ lineOf a → lineOf a ≤ lineOf (x.pa + x.len - 1) → x.key = k

/-- Every byte of HBM and of the host window outside the pieces reads as before, under the key that its line is written
with, or any key where no piece touches its line (R250, R298). -/
def BytesKept (u t : State) (segs : List Seg) : Prop :=
  ∀ k a, (physKind a = .host ∨ ∃ d, physKind a = .hbm d) → ¬ PieceAt segs a → KeyFits segs k a →
    physByte t k a = physByte u k a

/-- Of the dirty lines and the lines of the pieces, only the byte's own line names its place in the pool memory; software
gives each region its own HPA (R207). -/
def OwnPlace (u : State) (segs : List Seg) (a : Nat) : Prop :=
  ∀ ln, (rdcFind u ln).isSome = true ∨ (∃ x ∈ segs, lineOf x.pa ≤ ln ∧ ln ≤ lineOf (x.pa + x.len - 1)) →
    poolAddr u (64 * ln) / 64 = poolAddr u a / 64 → ln = lineOf a

/-- Every byte of the pool outside the pieces reads as before. -/
def PoolKept (u t : State) (segs : List Seg) : Prop :=
  ∀ k a n, physKind a = .pool n → ¬ PieceAt segs a → OwnPlace u segs a → physByte t k a = physByte u k a

/-- A core without its issue ports, its TLB and its L1. -/
def coreRest (k : CoreState) : CoreState := { k with ports := [], tlb := [], l1 := [] }

/-- A die without its caches, its TLB and walk cache, the summary of its L2 and its atomic credits. -/
def dieRest (d : DieState) : DieState :=
  { d with rdc := [], rdcClean := [], rdcRemote := [], rdcOrder := [], l2 := [], tlb2 := [], walks := [], summary := [], credits := [] }

/-- Only memory and what serves it differ: its bytes, keys and poison, the watchpoints that a write has met, the requests to
the host, the count of free values used; of cores their TLBs, L1s and ports, of dies their caches, TLBs and credits. -/
structure OnlyMemory (s u : State) : Prop where
  rest  : { u with mem := s.mem, marks := s.marks, poison := s.poison, pool := s.pool, watches := s.watches
                   fires := s.fires, outbox := s.outbox, freeCtr := s.freeCtr, cores := s.cores, dies := s.dies } = s
  cores : ∀ n, coreRest (getCore u n) = coreRest (getCore s n)
  dies  : ∀ n, dieRest (getDie u n) = dieRest (getDie s n)

/-- The pieces of memory ps can be read at once in a mode: no entry of the side log stands on them (R248), none of the
sequencer's reductions is still to come there (R211, R217), at sys scope no earlier write of its is outstanding (R227), every
check of R233 passes, what lies behind the fabric has come (R304) and nothing is poisoned (R274). -/
structure Readable (s : State) (c : Ctx) (q : Seqr) (m : ReadMode) (acc : Acc) (ps : List (Nat × Nat)) (segs : List Seg) :
    Prop where
  side  : sideTouches s c.id ps = false
  sys   : m.sys = true → sysOwed s c q = false
  reds  : redsMeet c q segs = false
  check : checkGranules s (hintAgent s c m.hint) acc (ps.flatMap fun p => granules (p.2 / 4096 + 2) p.1 p.2) = .ok segs
  come  : segs.filter (fun x => x.fabric && !fabHas (c.seq q).fab x.pa x.len) = []
  clean : segsPoisoned s (segs.filter fun x => !x.fabric) = false

/-- The state in which a load leaves TLBs, heat and caches: the tables' leaves count it (R242), the caches have its lines
(R196, R198, R205), and an acquire at cluster scope or wider has dropped the L1's (R196). -/
def afterRead (s : State) (c : Ctx) (h : Hdr) (sc : Scope) (acq : Bool) (segs : List Seg) : State :=
  acquireL1 (noteAccess s (hintAgent s c h.hint) .read segs (usesL1 h sc)) c acq sc

/-- The instruction, issued outside a neutral context (R168), reads its pieces of memory at scope sc, with its wait and post
at scope psc (R72), and completes: beyond TLBs, heat and caches only its own context changes, as P says of the bytes read. -/
def GivesLoad (s : State) (c : Ctx) (i : Instr) (h : Hdr) (seqs : List Seqr) (sc psc : Scope) (acq : Bool)
    (ps : List (Nat × Nat)) (P : List Byte → Ctx → Prop) : Prop :=
  Issues s c i h seqs → c.neutral = none → ∀ segs, Readable s c s.cur.seq (readMode h sc) .read ps segs →
    ∃ t d, exec i s = .next t
      ∧ FrameOutside (waitAcquire (afterRead s c h sc acq segs) (ctxOf s.cur).core h psc) t
      ∧ getCtx t (ctxOf s.cur) = some d ∧ FrameContext s.cur.seq h c d ∧ GuardsKept s.cur.seq c d
      ∧ Advanced s.cur.seq c d ∧ P (segsReadFab s (c.seq s.cur.seq).fab segs) d

/-- The pieces of memory ps can be written at once: a release stands at its scope (R228), a write at sys scope has no other of
its sequencer before it (R227), no entry of the side log stands on them (R248), none of the sequencer's reductions is still to
come there (R211, R217), every check of R233 passes, and no piece lies behind the fabric. -/
structure Writable (s : State) (c : Ctx) (q : Seqr) (h : Hdr) (sc : Scope) (rel : Bool) (ps : List (Nat × Nat))
    (segs : List Seg) : Prop where
  release : rel = true → releaseReady s c q sc = true
  sys     : sc = .sys → sysOwed s c q = false
  side    : sideTouches s c.id ps = false
  reds    : redsMeet c q segs = false
  check   : checkGranules s (writeAgent s c q h.hint) .write (ps.flatMap fun p => granules (p.2 / 4096 + 2) p.1 p.2) = .ok segs
  here    : ∀ x ∈ segs, x.fabric = false
  /-- a piece stays within its 4 KiB granule (R117, R237; Obligations.PiecesAndHeat) -/
  granule : ∀ x ∈ segs, ∀ a, x.pa ≤ a → a < x.pa + x.len → a / 4096 = x.pa / 4096

/-- The state just before a write's bytes land: the release's effect, TLBs, heat and caches. -/
def beforeWrite (s : State) (g : Agent) (acc : Acc) (sc : Scope) (rel : Bool) (segs : List Seg) : State :=
  noteAccess (if rel then releaseEffect s sc else s) g acc segs

/-- What a store leaves of everything but memory and the launch's rename buffers: nothing changes but its own issue; and of
memory: every byte outside the pieces reads as in u, the state just before its bytes land. -/
def StoreFrame (s : State) (c : Ctx) (h : Hdr) (segs : List Seg) (u t : State) : Prop :=
  (∃ d, getCtx t (ctxOf s.cur) = some d ∧ FrameContext s.cur.seq h c d ∧ ScalarKept s.cur.seq c d
      ∧ GuardsKept s.cur.seq c d ∧ VectorsKept c d ∧ Advanced s.cur.seq c d)
    ∧ (∀ id, id ≠ ctxOf s.cur → getCtx t id = getCtx s id)
    ∧ OnlyMemory s { t with ctxs := s.ctxs, polders := s.polders }
    ∧ BytesKept u t segs
    ∧ ((agentOf s c).die < 4 → 4 ≤ s.dies.length → PoolKept u t segs)

/-- The instruction, issued outside a neutral context (R168), stores bytes at addresses, in order, at scope sc, with its wait
and post at scope psc (R72), and completes. -/
def GivesStore (s : State) (c : Ctx) (i : Instr) (h : Hdr) (seqs : List Seqr) (sc psc : Scope) (rel : Bool)
    (stores : List (Word × List Byte)) : Prop :=
  Issues s c i h seqs → c.neutral = none →
    ∀ segs, Writable s c s.cur.seq h sc rel (stores.map fun p => (p.1.toNat, p.2.length)) segs →
      let g := writeAgent s c s.cur.seq h.hint
      let u := beforeWrite s g .write sc rel segs
      ∃ t, exec i s = .next t ∧ StoreFrame s c h segs u t
        ∧ FrameOutside (waitAcquire (segsWrite u g segs (stores.flatMap Prod.snd)) (ctxOf s.cur).core h psc) t
        ∧ (∀ x, segs = [x] → (physKind x.pa = .host ∨ ∃ d, physKind x.pa = .hbm d) →
            physRead t x.key x.pa x.len = (stores.flatMap Prod.snd).take x.len)

/-- The instruction, issued outside a neutral context, applies one operation at each of the addresses, in order, while
credits are there (R307), and completes its issue; the elements that find none wait in its operation. The host takes the
operation (R203) and no line is poisoned (R274). -/
def GivesReduce (s : State) (c : Ctx) (i : Instr) (h : Hdr) (seqs : List Seqr) (sc psc : Scope) (rel : Bool) (op : AtomOp)
    (f : Fmt) (ops : List (Word × Nat)) : Prop :=
  Issues s c i h seqs → c.neutral = none →
    ∀ segs, Writable s c s.cur.seq h sc rel (ops.map fun p => (p.1.toNat, fmtWidth f / 8)) segs →
      (∀ x ∈ segs, poisoned s x.pa x.len = false) → hostRedBad s op segs = none →
      let g := writeAgent s c s.cur.seq h.hint
      (∀ x, segs.head? = some x → (takeCredits s g.polder x.pa).isSome = true) →
      let u := beforeWrite s g .write sc rel segs
      let r := redAll u c s.cur.seq g (redElems op f segs (ops.map Prod.snd))
      ∃ t, exec i s = .next t ∧ StoreFrame s c h segs u t
        ∧ FrameOutside (waitAcquire r.1 (ctxOf s.cur).core h psc) t
        ∧ (∀ d, getCtx t (ctxOf s.cur) = some d → LastOp s.cur.seq d (redKind [] g r.2.2 (sc == .sys)) h.pq none 0 0)
        ∧ (∀ x a v, segs = [x] → ops = [(a, v)] → (physKind x.pa = .host ∨ ∃ d, physKind x.pa = .hbm d) →
            r.2.2 = [] ∧ physRead t x.key x.pa x.len =
              leBytes (atomNew op f (leNat (physRead u x.key x.pa x.len)) v) x.len)

/-! Starts of transfers and of matrix instructions -/

/-- The instruction, whose post is at scope sc, completes its issue and starts a piece of work that its context holds: rest
keeps the fields of the context that the start changes, as P says; no register and no other context changes, and nothing
outside from u, what its checks leave, but the L1 lines that its wait drops. -/
def Starts (s u : State) (c : Ctx) (i : Instr) (h : Hdr) (sc : Scope) (kind : OpKind) (rest : Ctx → Ctx)
    (P : Ctx → Prop) : Prop :=
  ∃ t d, exec i s = .next t ∧ FrameOutside (waitAcquire u (ctxOf s.cur).core h sc) t ∧ getCtx t (ctxOf s.cur) = some d
    ∧ (∀ p, p ≠ s.cur.seq → d.seq p = c.seq p) ∧ d.tokens = (takeWait h s.cur.seq c).tokens
    ∧ ctxRest (rest d) = ctxRest c ∧ ScalarKept s.cur.seq c d ∧ GuardsKept s.cur.seq c d ∧ VectorsKept c d
    ∧ Advanced s.cur.seq c d ∧ LastOp s.cur.seq d kind h.pq none 0 0 ∧ P d

/-- The agent of a transfer of the instruction that issues now: its writes are the transfer's (R209). -/
def moveAgent (u : State) (c : Ctx) (q : Seqr) (hint : BitVec 2) : Agent :=
  { writeAgent u c q hint with who := (c.writer q).map fun w => { w with moves := true } }

/-- A transfer of the given kind joins its context, with its scope, the agent of its issue (R145, R177) under the hint that
acts on it (R317), and the levees that were closing then (R209); its post is at context scope (R72). -/
def StartsTransfer (s u : State) (c : Ctx) (i : Instr) (h : Hdr) (hint : BitVec 2) (sc : Scope) (kind : XferKind) : Prop :=
  Starts s u c i h .ctx (.transfer c.nextXfer) (fun d => { d with xfers := c.xfers, nextXfer := c.nextXfer }) fun d =>
    d.nextXfer = c.nextXfer + 1
      ∧ d.xfers = c.xfers ++
          [{ id := c.nextXfer, seq := s.cur.seq, point := (c.seq s.cur.seq).pc, scope := sc
             agent := moveAgent u c s.cur.seq hint, kind := kind, progress := 0, fault := none, since := u.cycle
             closing := (u.regions.filter fun r => r.2.levee == .closing).map Prod.fst, fab := [], rtags := [] }]

/-- A matrix instruction joins its context's matrix queue (R140). -/
def StartsMatrix (s : State) (c : Ctx) (i : Instr) (h : Hdr) (m : MatCmd) : Prop :=
  Starts s s c i h .ctx .matrix (fun d => { d with matrix := c.matrix }) fun d => d.matrix = c.matrix ++ [m]

/-- The rows of a block transfer that move: all but the padded ones (R392). -/
def liveRows (c : Ctx) (q : Seqr) (t : BlockArg) : List Nat :=
  (List.range (blockRows (c.rS q t.g))).filter fun i =>
    !padMasked (blockRows (c.rS q t.g)) (if t.pad then c.padrows.toNat else 0) i

/-- What R393 asks of the operands of a block transfer before any address is translated: room in the engine, alignment,
reserved fields, rows that stay inside a window, and the scratchpad's descriptor, of a store for the rows that move. -/
def BlockForm (s : State) (c : Ctx) (q : Seqr) (load : Bool) (t : BlockArg) : Prop :=
  engineRoom s c = true ∧ (c.rS q t.b).toNat % 16 = 0 ∧ (c.rS q t.p).toNat % 16 = 0
    ∧ blockReservedOk (c.rS q t.p) (c.rS q t.g) = true
    ∧ (t.win = true → ∀ r ∈ liveRows c q t,
        (c.rS q t.b).toNat % 2 ^ 22 + r * ((c.rS q t.p).toNat % 2 ^ 32) + blockBytes (c.rS q t.g) ≤ 2 ^ 22)
    ∧ descTrap c (c.rawDesc q t.sp)
        ((xferSpans t.ch (c.rawDesc q t.sp).desc (blockRows (c.rS q t.g)) (blockBytes (c.rS q t.g))).filter fun y =>
          load || (liveRows c q t).contains y.1) = none

/-- Row i of a block transfer. -/
def blockRow (c : Ctx) (q : Seqr) (t : BlockArg) (i : Nat) : Word :=
  rowAddr (c.rS q t.b) ((c.rS q t.p).toNat % 2 ^ 32) i

/-! What a device operation leaves unchanged -/

/-- Only contexts differ, and of them only the one named. -/
def OnlyContext (s t : State) (id : CtxId) : Prop :=
  { t with ctxs := s.ctxs } = s ∧ ∀ j, j ≠ id → getCtx t j = getCtx s j

/-- Only the controls, the queue and the logs of polders differ, and of them only those of the one named. -/
def OnlyPolder (s t : State) (p : BitVec 4) : Prop :=
  { t with polders := s.polders } = s ∧ ∀ q, q ≠ p → getPolder t q = getPolder s q

/-- Only the state of dies differs, and of it only that of the one named. -/
def OnlyDie (s t : State) (d : Nat) : Prop :=
  { t with dies := s.dies } = s ∧ ∀ e, e ≠ d → getDie t e = getDie s e

/-- Only the state of cores differs, and of it only that of the one named. -/
def OnlyCore (s t : State) (k : Nat) : Prop :=
  { t with cores := s.cores } = s ∧ ∀ j, j ≠ k → getCore t j = getCore s j

/-- Only what the device sends out differs: it is longer by the given message. -/
def Sends (s t : State) (m : OutMsg) : Prop := t = { s with outbox := s.outbox ++ [m] }

/-- Task k of a launch takes the state x, and the other tasks keep theirs. -/
def TaskBecomes (s t : State) (p : BitVec 4) (q : BitVec 48) (k : Nat) (x : TaskState) : Prop :=
  ∀ l, findLaunch s p q = some l → ∃ l', findLaunch t p q = some l' ∧ taskState l' k = x
    ∧ ∀ j, j ≠ k → taskState l' j = taskState l j

end Sys2Proof
end

