-- ==== Sys2Proof/Certificates/Slice0/Obligations.lean ====
section
/-! DEFINITION. The statements for the provers. Each docstring names the rules of spec/ that the statement formalises. -/

open Sys2Proof Sys2Proof.Machine

/-- R94 to R99, R313, R318, R320: no bit of an encoding is dropped. The word of every well-formed instruction of the opcode
map decodes to that instruction, with every operand at every value that its encoding has. -/
def Obligations.EncodeThenDecode : Prop :=
  ∀ (i : Instr) (w : InstrWord) (n : Nat), WellFormed i → encode i = some w → decodeTableWord n w.toNat = some i

/-- R95, R99, R322: no bit of a word is ignored. A word that decodes is the word of the well-formed instruction that it
decodes to, so no two words stand for one instruction, and no reserved bit may be set. -/
def Obligations.DecodeThenEncode : Prop :=
  ∀ (w : InstrWord) (i : Instr), decode w = .ok i → WellFormed i ∧ encode i = some w

/-- The words that the spec writes out, field by field, for instructions of six rows of its opcode map (the examples of
R94, R315, R340, R353, R358, R375, R391, R402, R413) decode to those instructions; a word with bit 64 set, or of an
unassigned opcode, is refused (R94, R314). -/
def Obligations.DecodedWords : Prop :=
  let h (ga gb : GReg) (gbi : Bool) (wq pq : BitVec 4) : Hdr :=
    { gai := false, ga := ga, gbi := gbi, gb := gb, wq := wq, pq := pq, hint := 0, yld := false }
  let n : Hdr := h 0 0 false 0 0
  let m (base : SReg) (sc : Scope) (o : MOrd) : MemArg := { base := base, idx := 0, off := 0, al := 0, sc := sc, ord := o }
  decode 0x004753B00721FFFFFFF00000#96 = .ok (.addi (h 3 5 true 3 11) 7 33 0xFFFFFFF0)
    ∧ decode 0x208000000500000040000000#96 = .ok (.call n 5 1 0)
    ∧ decode 0x210000000100000010000000#96 = .ok (.loop n 1 0 2)
    ∧ decode 0x250000000000000000400000#96 = .ok (.cbar n .cluster)
    ∧ decode 0x4000000006050000000011C0#96 = .ok (.ld n .d false (m 5 .dev .acq) 6)
    ∧ decode 0x4040000003050000000016C0#96 = .ok (.st n .d (m 5 .pool .rel) 3)
    ∧ decode 0x448000004C02540000100600#96 =
        .ok (.vredx n .fadd { v := 12, base := 2, ix := 20, fmt := .bf16, sc := .ctx, al := 0, sync := false })
    ∧ decode 0x60000020C107040500000000#96 =
        .ok (.tld (h 0 0 false 0 2) { sp := 1, b := 7, p := 4, g := 5, sc := .ctx, win := false, pad := false, ch := .flat })
    ∧ decode 0x60C00500C200070800000000#96 = .ok (.tscat (h 0 0 false 5 0) { sp := 2, b := 0, n := 7, g := 8, ch := .flat })
    ∧ decode 0x610000001415161718000006#96 = .ok (.scopy n 6 20 21 22 23 24)
    ∧ decode 0x80000150D440000000500800#96 = .ok (.mma (h 0 0 false 1 5)
        { acc := 20, a := .group 0, trec := 2, ws := true, af := .e4m3, wf := .w4g48, form := .dense, kx := 1, re := 0, ce := 0 })
    ∧ decode 0xA00000004142430000110000#96 =
        .ok (.vadd n { fmt := .bf16, rm := .rne, sat := false, pz := false, lane := none } 1 2 (.v 3))
    ∧ decode 0xA0C0015044454647820A0000#96 = .ok (.vfma (h 0 0 false 1 5)
        { fmt := .fp32, rm := .rtz, sat := false, pz := false, lane := some 2 } 4 5 (.v 6) (.v 7))
    ∧ decode 0x004753B10721FFFFFFF00000#96 = .error .reservedBit
    ∧ decode 0x000000000000000000000000#96 = .error .unassigned

/-- The memory and the pool stand in their canonical form, addresses strictly rising and no entry equal to what an
unlisted address reads as: every step that answers a next state keeps that, from every state in which it holds. The
form is the model's (log entry 1). -/
def Obligations.MemoryStaysCanonical : Prop :=
  ∀ s t : State, MemoryOk s → step s = .next t → MemoryOk t

/-- R80, R81, R89 to R95: where nothing else is due, a step executes the instruction that stands at the sequencer's
point: of the line that it holds, or of the line that it fetches from its image in memory or in the code vault. Around
exec a step passes the turn to the next sequencer and lets a cycle pass, at whose end the weirs release what is due
(R163). A word that is no instruction, of an opcode that R313 does not list among them, is trap 0x01, whatever its
guards (R314). An outside operation of the agenda, and an event that is due, are executed the same way. That a step
takes an agenda operation, a due event or the sequencer with the turn, in that order, and that a cycle passes after the
last, is the model's choice (log entry 4, DESIGN CHOICE). -/
def Obligations.StepRunsInstruction : Prop :=
  ∀ (s : State) (c : Ctx) (i : Instr) (l : Line),
    let q := s.cur.seq
    let x := c.seq q
    let w := slotWord l x.pc.slot
    let fits (n : Nat) : Prop := x.line = none ∧ pointOk x.pc n = true ∧ lineOk l q x.pc.slot = true
    let held (u : State) : State := modSeq u c.id q fun y => { y with line := some l, fab := [], rtags := [] }
    let span (a n : Nat) : List Nat := (List.range n).map (a + ·)
    let assigned : List Nat := span 0x001 0x24 ++ span 0x080 11 ++ span 0x090 6 ++ span 0x100 6 ++ span 0x108 3
      ++ span 0x10C 2 ++ span 0x110 3 ++ span 0x180 8 ++ span 0x200 5 ++ span 0x280 0x13 ++ span 0x300 13 ++ span 0x380 16
    let runs (u : State) : Prop := ∀ r, exec i u = r →
      step s = match r with
        | .next t => .next (tick (turn t (issuedIn s t)))
        | .fault e => .fault e
        | .refused e => .refused e
    s.powered = true → s.halted = false →
    (s.agenda = [] → quietStep s = none → nextEvent s = none → getCtx s (ctxOf s.cur) = some c → c.canIssue q = true →
        c.lateTrap q = none → x.skip = false →
        (x.line = some l → (decode w = .ok i → runs s)
            ∧ (((w.extractLsb' 86 10).toNat ∉ assigned ∨ ∃ e, decode w = .error e) →
              ∃ t, t = takeTrap s c { mkTrap q 0x01 0 0 with age := c.issued } ∧ step s = .next (tick (turn t (issuedIn s t)))))
          ∧ (∀ base n g segs, codeSrc s c = .mem base n g → fits n →
            checkAccess s g .fetch (base + BitVec.ofNat 64 (64 * x.pc.line.toNat)).toNat 64 1 = .ok segs →
            sideTouches s c.id [((base + BitVec.ofNat 64 (64 * x.pc.line.toNat)).toNat, 64)] = false →
            (∀ y ∈ segs, y.fabric = false) → segsPoisoned s segs = false → lineFromBytes (segsRead s segs) = l →
            decode w = .ok i → runs (held (noteAccess s g .fetch segs)))
          ∧ (∀ bs n place, codeSrc s c = .vault bs n place → fits n →
            lineFromBytes (bytesAt bs (64 * x.pc.line.toNat) 64) = l → decode w = .ok i →
            runs (held (match place with
              | some a => fillLine s (dieOf c.id.core) 0 c.polder none (lineOf (a + 64 * x.pc.line.toNat))
              | none => s))))
      ∧ (∀ a, s.agenda = i :: a → step s = exec i { s with agenda := a })
      ∧ (s.agenda = [] → quietStep s = none → nextEvent s = some i → ∀ t, exec i s = .next t → step s = .next (tick t))
      ∧ (∀ t b, { turn t b with cur := t.cur } = t ∧ (tick t).cycle = t.cycle + 1 ∧ (tick t).mem = (dueReleases t).mem
          ∧ (tick t).pool = (dueReleases t).pool ∧ (t.cycle % 64 ≠ 0 → dueReleases t = t)
          ∧ ∀ id, (getCtx (tick t) id).isSome = (getCtx t id).isSome)

/-- R188, R207, R235, R243, R261, R276, R280, R284, R287, R290, R291, R309: what module reset leaves, where the spec
gives it: no context, every register at its Reset value, polder 0 at the values of R290, every MSI-X entry masked; and
the memories list nothing, which is the model's choice (log entry 1, DESIGN CHOICE: the spec gives no contents). -/
def Obligations.ResetState : Prop :=
  let s := State.reset
  let p := getPolder s 0
  s.ctxs = [] ∧ s.saved = [] ∧ s.startup = 0 ∧ s.cycle = 0 ∧ s.mem = [] ∧ MemoryOk s
    ∧ p.state = 2 ∧ p.cores = BitVec.allOnes 160 ∧ p.chans = BitVec.allOnes 128 ∧ p.qdepth = 256 ∧ p.tclass = 0
    ∧ p.ptag = 0 ∧ p.floor = 0 ∧ p.atomc = 512 ∧ p.keys = 1 ∧ p.share = 0 ∧ p.cvperm = true ∧ p.vf = 0
    ∧ (∀ n : BitVec 4, (getPolder s n).queue = [] ∧ (getPolder s n).bal = 0 ∧ (getPolder s n).pbudget = 4096
        ∧ (getPolder s n).s2en = false ∧ (getPolder s n).s2root = 0 ∧ (getPolder s n).tvec = 0
        ∧ (n ≠ 0 → (getPolder s n).state = 0 ∧ (getPolder s n).qdepth = 0 ∧ (getPolder s n).cores = 0
          ∧ (getPolder s n).keys = 0 ∧ (getPolder s n).cvperm = false))
    ∧ (∀ d, d < 4 → (getDie s d).height = 32 ∧ (getDie s d).buckets = [] ∧ (getDie s d).sweepEn = false
        ∧ (getDie s d).sweepPeriod = 0 ∧ (getDie s d).sweepLate = false)
    ∧ (∀ k, k < 160 → (getCore s k).score = 0 ∧ (getCore s k).recomm = false ∧ (getCore s k).quar = false
        ∧ (getCore s k).deque = [] ∧ (getCore s k).side = [])
    ∧ s.audEn = false ∧ s.audRate = 10 ∧ s.audThresh = 4 ∧ s.rtvec = 0 ∧ s.fabid = 0 ∧ s.froute = [] ∧ s.burgeeDst = 0
    ∧ (∀ n, n < 512 → s.asids[n]? = some { valid := false, polder := 0, root := 0 })
    ∧ (∀ n, (getRegion s n).valid = false ∧ (getRegion s n).levee = .breached ∧ (getRegion s n).cause = 0)
    ∧ (∀ f n, f < 16 → n < 64 → msixEntry (getFn s f) n = { addr := 0, data := 0, mask := true, pend := false })

/-- R326 with R57 and R325: each integer instruction completes with the table's result in s[d], taken modulo 2^64, also
when d names a source; a write to s0 is discarded; no flag, no other register, no byte of memory changes. -/
def Obligations.ScalarIntegerResults : Prop :=
  ∀ (s : State) (c : Ctx) (h : Hdr) (d a b : SReg) (imm : BitVec 32) (sh : BitVec 6) (u : Bool),
    let x := c.rS s.cur.seq a
    let y := c.rS s.cur.seq b
    let k : Word := imm.signExtend 64
    let gives (i : Instr) (v : Word) : Prop := GivesScalar s c i h allSeqs d v
    gives (.add h d a b) (x + y)
      ∧ gives (.addi h d a imm) (x + k)
      ∧ gives (.sub h d a b) (x - y)
      ∧ gives (.mul h d a b) (x * y)
      ∧ gives (.mulh h u d a b)
          (if u then BitVec.ofNat 64 (x.toNat * y.toNat / 2 ^ 64) else BitVec.ofInt 64 (x.toInt * y.toInt / 2 ^ 64))
      ∧ gives (.div h u d a b)
          (if y = 0 then 0
           else if u then BitVec.ofNat 64 (x.toNat / y.toNat) else BitVec.ofInt 64 (x.toInt.tdiv y.toInt))
      ∧ gives (.rem h u d a b)
          (if y = 0 then x
           else if u then BitVec.ofNat 64 (x.toNat % y.toNat) else BitVec.ofInt 64 (x.toInt.tmod y.toInt))
      ∧ gives (.and h d a b) (x &&& y)
      ∧ gives (.andImm h d a imm) (x &&& k)
      ∧ gives (.or h d a b) (x ||| y)
      ∧ gives (.orImm h d a imm) (x ||| k)
      ∧ gives (.xor h d a b) (x ^^^ y)
      ∧ gives (.xorImm h d a imm) (x ^^^ k)
      ∧ gives (.andn h d a b) (x &&& ~~~ y)
      ∧ gives (.shl h d a b) (x <<< (y.toNat % 64))
      ∧ gives (.shlImm h d a sh) (x <<< sh.toNat)
      ∧ gives (.shr h d a b) (x >>> (y.toNat % 64))
      ∧ gives (.shrImm h d a sh) (x >>> sh.toNat)
      ∧ gives (.sar h d a b) (x.sshiftRight (y.toNat % 64))
      ∧ gives (.sarImm h d a sh) (x.sshiftRight sh.toNat)
      ∧ gives (.min h u d a b) (if wordLt u y x then y else x)
      ∧ gives (.max h u d a b) (if wordLt u x y then y else x)

/-- R334, R338, R364, R378, R418: the bit, field, move and select instructions and WFLD complete with their result in
s[d], and nothing else changes. -/
def Obligations.ScalarBitResults : Prop :=
  ∀ (s : State) (c : Ctx) (h : Hdr) (d a b : SReg) (imm : BitVec 32) (pos wm1 : BitVec 6) (j : BitVec 3) (g : GReg),
    let x := c.rS s.cur.seq a
    let y := c.rS s.cur.seq b
    let w := wm1.toNat + 1
    let field := x.toNat / 2 ^ pos.toNat % 2 ^ w
    let mask : Word := BitVec.ofNat 64 (2 ^ w - 1) <<< pos.toNat
    let gives (i : Instr) (v : Word) : Prop := GivesScalar s c i h allSeqs d v
    gives (.clz h d a) (BitVec.ofNat 64 (64 - bitLen x.toNat))
      ∧ gives (.popc h d a) (popWord x)
      ∧ gives (.brev h d a) x.reverse
      ∧ gives (.bfx h false d a pos wm1) (BitVec.ofNat 64 field)
      ∧ gives (.bfx h true d a pos wm1)
          (if 2 ^ wm1.toNat ≤ field then BitVec.ofInt 64 ((field : Int) - 2 ^ w) else BitVec.ofNat 64 field)
      ∧ gives (.bfi h d a b pos wm1) ((y &&& ~~~ mask) ||| ((x <<< pos.toNat) &&& mask))
      ∧ gives (.sel h d a b g) (if c.rG s.cur.seq g then x else y)
      ∧ gives (.mov h d a) x
      ∧ gives (.movi h .zx d a imm) (imm.setWidth 64)
      ∧ gives (.movi h .sx d a imm) (imm.signExtend 64)
      ∧ gives (.movi h .hi d a imm) (imm ++ x.extractLsb' 0 32)
      ∧ gives (.wfld h d j) (if c.neutral.isSome then 0 else workField c.workid c.wfields j.toNat)

/-- R347, R352: CMP with each of its ten conditions, GAND and GOR complete with their result in the guard, a write to g0 is discarded, and nothing else
changes. -/
def Obligations.GuardResults : Prop :=
  ∀ (s : State) (c : Ctx) (h : Hdr) (g ga gb : GReg) (a b : SReg) (imm : BitVec 32) (na nb nd : Bool),
    let x := c.rS s.cur.seq a
    let gives (i : Instr) (v : Bool) : Prop := GivesGuard s c i h allSeqs g v
    let ta := c.rG s.cur.seq ga != na
    let tb := c.rG s.cur.seq gb != nb
    let compares (i : Cond → Instr) (y : Word) : Prop :=
      gives (i .eq) (x == y) ∧ gives (i .ne) (x != y)
        ∧ gives (i .lt) (decide (x.toInt < y.toInt)) ∧ gives (i .le) (decide (x.toInt ≤ y.toInt))
        ∧ gives (i .gt) (decide (y.toInt < x.toInt)) ∧ gives (i .ge) (decide (y.toInt ≤ x.toInt))
        ∧ gives (i .ltu) (decide (x.toNat < y.toNat)) ∧ gives (i .leu) (decide (x.toNat ≤ y.toNat))
        ∧ gives (i .gtu) (decide (y.toNat < x.toNat)) ∧ gives (i .geu) (decide (y.toNat ≤ x.toNat))
    compares (fun k => .cmp h k g a b) (c.rS s.cur.seq b)
      ∧ compares (fun k => .cmpImm h k g a imm) (imm.signExtend 64)
      ∧ gives (.gand h na nb nd g ga gb) ((ta && tb) != nd)
      ∧ gives (.gor h na nb nd g ga gb) ((ta || tb) != nd)

/-- R337, R339, R340, R357: a branch stands at its target, relative to the line that holds it or named by a register;
CALL also writes the return point; LOOP counts its register down and branches while it is not 0. -/
def Obligations.BranchTargets : Prop :=
  ∀ (s : State) (c : Ctx) (h : Hdr) (a : SReg) (off : BitVec 26) (slot : BitVec 3),
    let q := s.cur.seq
    let near : CodePoint := { line := (c.seq q).pc.line + off.toInt, slot := slot.toNat, bad := false }
    let far : CodePoint := wordPoint (c.rS q a)
    Gives s c (.bra h off slot) h allSeqs (fun d => ScalarKept q c d ∧ BranchedTo q near c d)
      ∧ Gives s c (.brx h a) h allSeqs (fun d => ScalarKept q c d ∧ BranchedTo q far c d)
      ∧ Gives s c (.ret h a) h allSeqs (fun d => ScalarKept q c d ∧ BranchedTo q far c d)
      ∧ Gives s c (.call h a off slot) h allSeqs (fun d =>
          ScalarWritten q a (returnWord (c.seq q)) c d ∧ BranchedTo q near c d)
      ∧ Gives s c (.loop h a off slot) h allSeqs (fun d =>
          ScalarWritten q a (c.rS q a - 1) c d
            ∧ (if c.rS q a - 1 = 0 then Advanced q c d else BranchedTo q near c d))

/-- R72, R367, R421, R351, R389: NOP and YIELD complete with only their wait and post; FENCE.acq does the same, and a
FENCE with release effect stays outstanding until the conditions of its scope hold; TKPOST posts to its operand's queue
as a release; TKQRY reads a queue's count. An acquire at cluster scope or wider drops the L1 lines of its core (R196).
R389 with R71: TKWAIT on a queue that ends at its sequencer takes one token from it; on an empty queue nothing changes.
R396: TRAP completes and the trap of cause 0x13, whose DETAIL is its immediate's low byte, stands behind it. -/
def Obligations.WaitsAndTokens : Prop :=
  (∀ (s : State) (c : Ctx) (h : Hdr) (o : FenceOrd) (sc : Scope) (k : TokQ) (d : SReg),
     let q := s.cur.seq
     let plain (kind : OpKind) (post : BitVec 4) (x : Ctx) : Prop :=
       ScalarKept q c x ∧ Advanced q c x ∧ LastOp q x kind post none 0 0
     Gives s c (.nop h) h allSeqs (plain .plain h.pq)
       ∧ Gives s c (.yield h) h allSeqs (plain .plain h.pq)
       ∧ GivesFrom s (acquireL1 s c true sc) c (.fence h .acq sc) h allSeqs .ctx (plain .plain h.pq)
       ∧ (o ≠ .acq → GivesFrom s (acquireL1 s c (o != .rel) sc) c (.fence h o sc) h allSeqs .ctx (plain (.fence sc) h.pq))
       ∧ (postsFrom k.toNat q = true → GivesFrom s s c (.tkpost h sc k) h allSeqs sc (plain (.release sc) k))
       ∧ (waitsAt k.toNat q = true ∨ postsFrom k.toNat q = true →
           GivesScalar s c (.tkqry h d k) h allSeqs d ((c.tok k.toNat).setWidth 64)))
    ∧ (∀ (s : State) (c : Ctx) (h : Hdr) (sc : Scope) (k : TokQ),
         Issues s c (.tkwait h sc k) h allSeqs → waitsAt k.toNat s.cur.seq = true →
         (c.tok k.toNat = 0 → exec (.tkwait h sc k) s = .next s)
           ∧ (c.tok k.toNat ≠ 0 → ∃ t d, exec (.tkwait h sc k) s = .next t ∧ FrameOutside (acquireL1 s c true sc) t
               ∧ getCtx t (ctxOf s.cur) = some d ∧ d.tokens = (c.setTok k.toNat (c.tok k.toNat - 1)).tokens
               ∧ ScalarKept s.cur.seq c d ∧ GuardsKept s.cur.seq c d ∧ VectorsKept c d ∧ ctxRest d = ctxRest c
               ∧ Advanced s.cur.seq c d))
    ∧ (∀ (s : State) (c : Ctx) (h : Hdr) (imm : BitVec 32),
         Gives s c (.trap h imm) h allSeqs fun d =>
           ScalarKept s.cur.seq c d ∧ Advanced s.cur.seq c d
             ∧ LastOp s.cur.seq d .plain h.pq (some (mkTrap s.cur.seq 0x13 (imm.toNat % 256) 0)) 0 0)

/-- R228, R333, R343: BAR and CBAR, once the conditions of their release hold, count one more arrival of the sequencer or
the member and stop the sequencer at that instance; beyond the release's own effect at their scope nothing else changes.
R79, R341: CARVE of a task, outside handlers and buntings, arrives at the context's barrier with its count of units;
elsewhere it is trap 0x11. -/
def Obligations.BarrierAndCarveArrivals : Prop :=
  (∀ (s : State) (c : Ctx) (h : Hdr) (sc : Scope),
     let wide : Scope := if sc = .ctx ∨ sc = .core then .cluster else sc
     (releaseReady s c s.cur.seq sc = true → Issues s c (.bar h sc) h allSeqs →
         ∃ t d, exec (.bar h sc) s = .next t
           ∧ FrameOutside (releaseEffect s sc) t ∧ getCtx t (ctxOf s.cur) = some d
           ∧ (d.seq s.cur.seq).bars = (c.seq s.cur.seq).bars + 1
           ∧ (d.seq s.cur.seq).run = .bar ((c.seq s.cur.seq).bars + 1)
           ∧ ScalarKept s.cur.seq c d ∧ GuardsKept s.cur.seq c d ∧ VectorsKept c d ∧ FrameContext s.cur.seq h c d
           ∧ Advanced s.cur.seq c d ∧ LastOp s.cur.seq d (.bar ((c.seq s.cur.seq).bars + 1) sc) h.pq none 0 0)
       ∧ (releaseReady s c s.cur.seq wide = true → Issues s c (.cbar h sc) h [.X] → c.gang.isSome = true → c.neutral = none →
         ∃ t d, exec (.cbar h sc) s = .next t ∧ FrameOutside (releaseEffect s wide) t
           ∧ getCtx t (ctxOf s.cur) = some d
           ∧ d.cbars = c.cbars + 1 ∧ (d.seq s.cur.seq).run = .cbar (c.cbars + 1)
           ∧ ScalarKept s.cur.seq c d ∧ GuardsKept s.cur.seq c d ∧ VectorsKept c d
           ∧ ctxRest { d with cbars := c.cbars } = ctxRest c ∧ Advanced s.cur.seq c d
           ∧ LastOp s.cur.seq d (.cbar (c.cbars + 1) wide) h.pq none 0 0))
    ∧ (∀ (s : State) (c : Ctx) (h : Hdr) (d a : SReg),
         let q := s.cur.seq
         let n := (c.seq q).bars + 1
         Issues s c (.carve h d a) h [.X] →
         (c.neutral = none → c.inHandler q = false → releaseReady s c q .ctx = true →
             ∃ t x, exec (.carve h d a) s = .next t ∧ FrameOutside s t ∧ getCtx t (ctxOf s.cur) = some x
               ∧ (x.seq q).bars = n ∧ (x.seq q).run = .carve d (c.rS q a) n ∧ ScalarKept q c x ∧ GuardsKept q c x
               ∧ VectorsKept c x ∧ FrameContext q h c x ∧ Advanced q c x ∧ LastOp q x (.bar n .ctx) h.pq none 0 0)
           ∧ ((c.neutral.isSome = true ∨ c.inHandler q = true) →
             exec (.carve h d a) s = trapsIn s h 0x11 0 0))

/-- R100, R356: LDK completes with the window's word, or pair of words, zero-extended or sign-extended.
R100: a window read outside a neutral context. A pair of words at an odd offset is misaligned (0x09), also beyond the
bound, which is the model's choice (log entry 89, DESIGN CHOICE); a word at or beyond the bound length, an unbound
window among them, is an address trap (0x08); a word that may be read at once is the little-endian number of its bytes.
The read changes nothing but the heat of its translation, TLBs and caches. -/
def Obligations.ConstantWindows : Prop :=
  (∀ (s u : State) (c : Ctx) (h : Hdr) (d i : SReg) (w : BitVec 3) (off : BitVec 17) (v : Nat),
     let q := s.cur.seq
     let x := (c.rS q i).toNat
     let gives (form : LdkForm) (r : Word) : Prop :=
       GivesFrom s u c (.ldk h form d i w off) h allSeqs .ctx fun y => ScalarWritten q d r c y ∧ Advanced q c y
     (readWindow s c q w.toNat (off.toNat + x) 1 = .ok (u, v) →
         gives .w (BitVec.ofNat 64 v) ∧ gives .sx ((BitVec.ofNat 32 v).signExtend 64))
       ∧ (readWindow s c q w.toNat (off.toNat + 2 * x) 2 = .ok (u, v) → gives .d (BitVec.ofNat 64 v)))
    ∧ (∀ (s : State) (c : Ctx) (q : Seqr) (w k n : Nat), c.neutral = none → n = 1 ∨ n = 2 →
         let b := c.windows.getD w { base := 0, words := 0 }
         let a := (b.base + 4 * k) % 2 ^ 64
         (n = 2 → k % 2 = 1 → readWindow s c q w k n = .error (.trap s 0x09 0 (BitVec.ofNat 64 a)))
           ∧ ((n = 1 ∨ k % 2 = 0) → (2 ^ 17 ≤ k ∨ b.words < k + n) →
               readWindow s c q w k n = .error (.trap s 0x08 0 (BitVec.ofNat 64 a)))
           ∧ ((n = 1 ∨ k % 2 = 0) → k < 2 ^ 17 → k + n ≤ b.words → ∀ segs,
               checkAccess s (windowAgent s c) .read a (4 * n) (4 * n) = .ok segs → (∀ x ∈ segs, x.fabric = false) →
               segsPoisoned s segs = false → readWindow s c q w k n = .ok (noteWindow s c segs, leNat (segsRead s segs)))
           ∧ ∀ segs, OnlyMemory { s with cores := (noteWindow s c segs).cores } (noteWindow s c segs)
               ∧ ∀ j, { getCore (noteWindow s c segs) j with tlb := [], l1 := [], consts := [] }
                   = { getCore s j with tlb := [], l1 := [], consts := [] })

/-- R87, R336: BKT reads word 0 and then every bucket, chooses the first bucket that is at least the dimension, writes its
number and the rows or columns of padding, at most 65,535, and branches to its target; where no bucket is large enough it
writes 16 and goes on. A word 0 with a reserved bit set is trap 0x0E, DETAIL 16. -/
def Obligations.BucketBranch : Prop :=
  ∀ (s s0 s1 : State) (c : Ctx) (h : Hdr) (d a : SReg) (w : BitVec 3) (off : BitVec 17) (w0 : Nat) (bs : List Nat),
    let q := s.cur.seq
    let dim := (c.rS q a).toNat % 2 ^ 32
    let n := w0 % 16 + 1
    readWindow s c q w.toNat off.toNat 1 = .ok (s0, w0) →
    (32 ≤ w0 → Issues s c (.bkt h d a w off) h allSeqs → exec (.bkt h d a w off) s = trapsIn s0 h 0x0E 16 0)
      ∧ (w0 < 32 → readWords s0 c q w.toNat (off.toNat + 1) n = .ok (s1, bs) →
        bs.length = n
          ∧ ((∀ b ∈ bs, b < dim) →
            GivesFrom s s1 c (.bkt h d a w off) h allSeqs .ctx fun x => ScalarWritten q d 16 c x ∧ Advanced q c x)
          ∧ (∀ i b s2 tw, bs[i]? = some b → dim ≤ b → (∀ j x, j < i → bs[j]? = some x → x < dim) →
            readWindow s1 c q w.toNat (off.toNat + 17 + i) 1 = .ok (s2, tw) → tw < 2 ^ 29 →
            Issues s c (.bkt h d a w off) h allSeqs →
            ∃ t x, exec (.bkt h d a w off) s = .next t ∧ FrameOutside s2 t ∧ getCtx t (ctxOf s.cur) = some x
              ∧ ScalarWritten q d (BitVec.ofNat 64 i) c x ∧ GuardsKept q c x ∧ VectorsKept c x
              ∧ (let pad := BitVec.ofNat 16 (min (b - dim) 65535)
                 if w0 / 16 = 0 then x.padrows = pad ∧ x.padcols = c.padcols
                 else x.padcols = pad ∧ x.padrows = c.padrows)
              ∧ ctxRest { x with padrows := c.padrows, padcols := c.padcols } = ctxRest c
              ∧ BranchedTo q { line := (c.seq q).pc.line + (BitVec.ofNat 26 tw).toInt, slot := tw / 2 ^ 26, bad := false } c x))

/-- R66, R260, R350: END of a task with no trap pending ends X, and the context and its task are ENDING; a pre-emption
request that is pending then is dropped. That an imprecise trap of a sequencer at BAR does not keep END back is the model's
choice (log entry 80).
R263, R369: PSDONE in a pre-emption handler, with a count of units inside the carve-out, stops its sequencer with that
count. -/
def Obligations.EndsOfWork : Prop :=
  (∀ (s : State) (c : Ctx) (h : Hdr),
     Issues s c (.endTask h) h [.X] → c.inHandler .X = false →
     (∀ t ∈ c.pending, t.imprec = true ∧ ∃ n, (c.seq t.seq).run = .bar n) →
     ∃ t d, exec (.endTask h) s = .next t ∧ getCtx t (ctxOf s.cur) = some d ∧ d.life = .ending ∧ d.preempt = none
       ∧ (d.seq .X).run = .ended ∧ ScalarKept .X c d ∧ GuardsKept .X c d ∧ VectorsKept c d
       ∧ ctxRest { d with life := c.life, preempt := c.preempt } = ctxRest c ∧ Advanced .X c d
       ∧ (∀ id, id ≠ ctxOf s.cur → getCtx t id = getCtx s id) ∧ t.mem = s.mem ∧ t.pool = s.pool
       ∧ (∀ r, c.task = some r → { t with ctxs := s.ctxs, cores := s.cores } = setTask s r .ending)
       ∧ (c.task = none → FrameOutside s t))
    ∧ (∀ (s : State) (c : Ctx) (h : Hdr) (a : SReg) (imm : BitVec 32),
         let q := s.cur.seq
         let k := (c.rS q a).toNat + imm.toNat
         c.inHandler q = true → (∀ f, c.frame = some f → f.preempt = true) →
         (k ≤ c.units → Gives s c (.psdone h a imm) h allSeqs fun d =>
             (d.seq q).run = .psdone k ∧ ScalarKept q c d ∧ Advanced q c d)
           ∧ (c.units < k → Issues s c (.psdone h a imm) h allSeqs →
               exec (.psdone h a imm) s = trapsIn s h 0x10 0 0))

/-- R256, R258: TRET of the one sequencer of a handler with ACTION 00 or 01 resumes at the point that the trap saved,
after it (skip), no longer held, with ACTION 01; the copies of s24 to s31 and g12 to g15 that the entry set aside return, and the handler
around, if any, has its record back. With ACTION 10 the context is ended, and reported to Optis in a reeve handler (R281). -/
def Obligations.HandlerReturn : Prop :=
  ∀ (s : State) (c : Ctx) (h : Hdr) (f : Frame) (v : SeqSave) (b : Bank),
    let q := s.cur.seq
    Issues s c (.tret h) h allSeqs → c.frames.head? = some f → f.saves = [v] → v.seq = q →
    (c.seq q).banks.head? = some b →
    (trecAction c.trec = 2 → exec (.tret h) s =
        .next (endCtx (if f.reeve then optisLog s 5 (ctxOf s.cur).core else s) (ctxOf s.cur) (trecCause c.trec)))
      ∧ (trecAction c.trec ≠ 2 → ∃ t d, exec (.tret h) s = .next t ∧ FrameOutside s t
          ∧ getCtx t (ctxOf s.cur) = some d ∧ d.frames = c.frames.tail
          ∧ (d.seq q).pc = v.point ∧ (d.seq q).line = none ∧ (d.seq q).run = v.run
          ∧ (d.seq q).hold = (if trecAction c.trec = 1 ∧ c.headerBad = false then none else v.hold)
          ∧ (d.seq q).skip = (v.skip || (trecAction c.trec == 1 && !c.headerBad))
          ∧ (∀ r : SReg, r ≠ 0 → d.rS q r =
              if 24 ≤ r.toNat ∧ r.toNat < 32 then b.sreg.getD (r.toNat - 24) 0 else c.rS q r)
          ∧ (∀ g : GReg, g ≠ 0 → d.rG q g = if g.toNat < 12 then c.rG q g else b.g.getLsbD (g.toNat - 12))
          ∧ (d.seq q).banks = (c.seq q).banks.tail
          ∧ (c.frames.tail = [] → d.trec = c.trec &&& ~~~ (1#64 <<< 63) ∧ d.taddr = c.taddr)
          ∧ (c.frames.tail ≠ [] → d.trec = f.trec ∧ d.taddr = f.taddr)
          ∧ (∀ p, p ≠ q → d.seq p = c.seq p) ∧ VectorsKept c d ∧ d.tokens = c.tokens ∧ d.scratch = c.scratch)

/-- R254 to R257: a trap of a context outside every handler and outside a bunting goes through its polder's steward vector
when that image passes its check: its record and address are written, its sequencer stands at slot 0 of its own entry line
with s24 to s31 at 0 and g12 to g15 false, and every other register, the other sequencers and memory stay as they were.
The fetches of the check leave their traces in TLBs, heat and caches.
R254, R259: a trap in a steward handler goes through the reeve's vector with NESTED set, and the steward handler's
state is kept behind it; a trap in a reeve handler ends the context.
R264, R369: a trap in a pre-emption handler starts the forced save, with the trap pending; that this holds of a handler
entered by the reeve's vector too is the model's choice (log entry 76). -/
def Obligations.TrapsTaken : Prop :=
  (∀ (s : State) (c : Ctx) (t : TrapReq) (len : Nat) (ents : List Nat),
     getCtx s c.id = some c → c.frames = [] → c.neutral = none → t.viaReeve = false →
     checkImage s (handlerAgent s c false) ((getPolder s c.polder).tvec.setWidth 64 <<< 16) = some (len, ents) →
     ∃ d, getCtx (takeTrap s c t) c.id = some d
       ∧ d.trec = trecWord false t.imprec t.aband t.seq t.cause t.detail (t.point.getD (c.seq t.seq).pc)
       ∧ d.taddr = t.addr ∧ d.effPriv = .steward ∧ d.inHandler t.seq = true
       ∧ (∀ p, p ≠ t.seq → d.seq p = c.seq p ∧ d.canIssue p = false)
       ∧ (d.seq t.seq).pc = { line := ents.getD (seqIndex t.seq) 1, slot := 0, bad := false }
       ∧ (∀ r : SReg, r ≠ 0 → d.rS t.seq r = if 24 ≤ r.toNat ∧ r.toNat < 32 then 0 else c.rS t.seq r)
       ∧ (∀ g : GReg, g ≠ 0 → d.rG t.seq g = if g.toNat < 12 then c.rG t.seq g else false)
       ∧ VectorsKept c d ∧ d.tokens = c.tokens ∧ d.scratch = c.scratch ∧ d.fpcr = c.fpcr
       ∧ (∀ id, id ≠ c.id → getCtx (takeTrap s c t) id = getCtx s id)
       ∧ { takeTrap s c t with ctxs := s.ctxs } = noteImage s (handlerAgent s c false) (vectorImage s c false))
    ∧ (∀ (s : State) (c : Ctx) (t : TrapReq) (f : Frame),
         getCtx s c.id = some c → c.frames.head? = some f →
         (f.preempt = true → ∀ r, c.preempt = some r → { takeTrap s c t with ctxs := s.ctxs } = s
             ∧ getCtx (takeTrap s c t) c.id = some { c with
               pending := c.pending ++ [{ t with depth := c.frames.length }], preempt := some { r with used := 65536 } }) ∧
         (f.reeve = true → f.preempt = false ∨ c.preempt = none → takeTrap s c t = endCtx (optisLog s 5 c.id.core) c.id t.cause)
           ∧ (f.reeve = false → f.preempt = false → ∀ len ents,
               checkImage s (handlerAgent s c true) (s.rtvec &&& ~~~ 0xFFFF#64) = some (len, ents) →
               ∃ d g, getCtx (takeTrap s c t) c.id = some d ∧ d.frames = g :: c.frames ∧ g.reeve = true
                 ∧ g.asid = s.rtvec.extractLsb' 0 9 ∧ g.trec = c.trec ∧ g.taddr = c.taddr ∧ d.effPriv = .reeve
                 ∧ d.trec = trecWord true t.imprec t.aband t.seq t.cause t.detail (t.point.getD (c.seq t.seq).pc)
                 ∧ (d.seq t.seq).pc = { line := ents.getD (seqIndex t.seq) 1, slot := 0, bad := false }))

/-- R95: an instruction that may issue is stopped by the first of its checks that fails: 0x01 for its form, 0x02 for
its sequencer, 0x0F for the queues of its wait and post. Its guards are not asked. Stated of ADD, LD, VADD and MMA.
R63, R95, R168, R175, R249, R258, R316, R343, R350, R369, R374, R379: check 4 of the instructions that ask for a
privilege or a context of their own: the permission trap 0x0B where it fails, whatever the guards, the wait and the
operands. -/
def Obligations.IssueTraps : Prop :=
  (∀ (s : State) (c : Ctx) (h : Hdr) (d a b : SReg) (m : MemArg) (vm : VMod) (vd va : VReg) (vb : VSrc) (x : MmaArg),
     let q := s.cur.seq
     let stops (i : Instr) (seqs : List Seqr) : Prop :=
       getCtx s (ctxOf s.cur) = some c → c.canIssue q = true → c.lateTrap q = none → c.neutral = none →
       (¬ WellFormed i → exec i s = .next (trapBefore s (ctxOf s.cur) q (mkTrap q 0x01 0 0)))
         ∧ (WellFormed i → q ∉ seqs → exec i s = .next (trapBefore s (ctxOf s.cur) q (mkTrap q 0x02 0 0)))
         ∧ (WellFormed i → q ∈ seqs → (waitsAt h.wq.toNat q && postsFrom h.pq.toNat q) = false →
             exec i s = .next (trapBefore s (ctxOf s.cur) q (mkTrap q 0x0F 0 0)))
     stops (.add h d a b) allSeqs ∧ stops (.ld h .d false m d) [.X, .L, .S] ∧ stops (.vadd h vm vd va vb) [.C]
       ∧ stops (.mma h x) [.C])
    ∧ (∀ (s : State) (c : Ctx) (h : Hdr) (sz : Size) (sx all : Bool) (op : AtomOp) (m : MemArg) (f : Fmt) (v : VReg)
         (g : GatherArg) (t : BlockArg) (r : RowArg) (d a b e : SReg) (sc : Scope) (p1 p2 : Pair) (imm : BitVec 32)
         (k5 : BitVec 5) (cm : CmntKind) (la : LineArg) (ro : RedxOp),
         let q := s.cur.seq
         let barred (i : Instr) (seqs : List Seqr) : Prop :=
           getCtx s (ctxOf s.cur) = some c → c.canIssue q = true → c.lateTrap q = none → WellFormed i → q ∈ seqs →
             waitsAt h.wq.toNat q = true → postsFrom h.pq.toNat q = true →
             exec i s = .next (trapBefore s (ctxOf s.cur) q (mkTrap q 0x0B 0 0))
         (c.neutral.isSome = true →
             barred (.ld h sz sx m d) [.X, .L, .S] ∧ barred (.st h sz m d) [.X, .L, .S]
               ∧ barred (.atom h op all m d) [.X, .L, .S] ∧ barred (.red h op all m d) [.X, .L, .S]
               ∧ barred (.cmnt h cm la) [.X, .L, .S] ∧ barred (.vld h f m v) [.L, .S] ∧ barred (.vst h f m v) [.L, .S]
               ∧ barred (.vldx h g) [.L, .S] ∧ barred (.vstx h g) [.L, .S] ∧ barred (.vredx h ro g) [.L, .S]
               ∧ barred (.tst h t) [.S] ∧ barred (.scopy h k5 d a b e d) [.L] ∧ barred (.tsub h d a b) [.X]
               ∧ barred (.tcan h all d a b) [.X] ∧ barred (.notify h d a) [.X] ∧ barred (.cbar h sc) [.X]
               ∧ barred (.rrot h p1 p2 d) [.L] ∧ barred (.watch h d a) [.X] ∧ barred (.unwatch h d a) [.X])
           ∧ (c.neutral = none →
             barred (.tldRows h r) [.L] ∧ barred (.tldAdp h r) [.L] ∧ barred (.tscat h r) [.S])
           ∧ (c.gang = none → barred (.cbar h sc) [.X] ∧ barred (.rrot h p1 p2 d) [.L])
           ∧ (c.effPriv = .task → barred (.watch h d a) [.X] ∧ barred (.unwatch h d a) [.X]
               ∧ barred (.tlbinv h sx all d a b) [.X])
           ∧ (c.inHandler q = false → barred (.tret h) allSeqs ∧ barred (.psdone h a imm) allSeqs)
           ∧ (c.inHandler q = true → barred (.endTask h) [.X])
           ∧ (∀ x, sysAllowed s c x = false → barred (.sysrd h d x) allSeqs ∧ barred (.syswr h x a) allSeqs))

/-- R97, R233, R353: LD completes with the bytes at its address, zero-extended or sign-extended.
R97, R232, R233: an access of LD or ST whose span leaves the canonical addresses traps with 0x08, and one off its
alignment with 0x09, both with the address. -/
def Obligations.LoadsAndAddressTraps : Prop :=
  (∀ (s : State) (c : Ctx) (h : Hdr) (size : Size) (sx : Bool) (m : MemArg) (d : SReg),
     let q := s.cur.seq
     let n := sizeBytes size
     let a := (c.rS q m.base + (c.rS q m.idx <<< Nat.log2 n) + m.off.signExtend 64).toNat
     spanOk a n = true → a % n = 0 →
     GivesLoad s c (.ld h size sx m d) h [.X, .L, .S] m.sc m.sc (ordAcq m.ord) [(a, n)] fun bs x =>
       VectorsKept c x ∧ ScalarWritten q d
         (if sx && 2 ^ (8 * n - 1) ≤ leNat bs then BitVec.ofInt 64 ((leNat bs : Int) - 2 ^ (8 * n))
          else BitVec.ofNat 64 (leNat bs)) c x)
    ∧ (∀ (s : State) (c : Ctx) (h : Hdr) (size : Size) (sx : Bool) (m : MemArg) (d : SReg),
         let q := s.cur.seq
         let n := sizeBytes size
         let w := margAddr m c q n
         c.neutral = none →
         ∀ i, (i = .ld h size sx m d ∨ i = .st h size m d) → Issues s c i h [.X, .L, .S] →
           (spanOk w.toNat n = false → exec i s = trapsIn s h 0x08 0 w)
             ∧ (spanOk w.toNat n = true → w.toNat % n ≠ 0 → exec i s = trapsIn s h 0x09 0 w))

/-- R242: what an access leaves besides its bytes changes nothing but memory, TLBs and caches, and no byte of HBM outside
the table entries that its pieces went through.
R240, R241: a piece that a walk translates keeps the offset of its virtual address within its 4 KiB granule.
R117: a renamed piece lies at that offset from its filled buffer's stage-2 translation, and names its granule. -/
def Obligations.PiecesAndHeat : Prop :=
  (∀ (s : State) (g : Agent) (acc : Acc) (segs : List Seg) (l1 : Bool) (k a : Nat),
     let leaves := segs.flatMap fun x => x.leaf1.toList ++ x.leaf2.toList
       ++ x.tlb.toList.flatMap fun e => e.leaf1.toList ++ e.leaf2.toList
     OnlyMemory s (noteAccess s g acc segs l1)
       ∧ ((∃ d, physKind a = .hbm d) → (∀ p ∈ leaves, p.pa % 8 = 0 ∧ ∃ d, physKind p.pa = .hbm d) →
         (∀ p ∈ leaves, (a < p.pa ∨ p.pa + 8 ≤ a) ∧ inVault s p.pa = false) →
         (∀ p ∈ leaves, lineOf p.pa = lineOf a → p.key = k) →
         physByte (noteAccess s g acc segs l1) k a = physByte s k a))
    ∧ (∀ (s : State) (g : Agent) (acc : Acc) (va n : Nat) (x : Seg), transOne s g acc va n = .ok x →
         x.len = n ∧ x.va = va
           ∧ (renameOf s g va = none → tlbFind s g (accWrites acc) va = none → x.pa % 4096 = va % 4096)
           ∧ (∀ r, renameOf s g va = some r → r.fill = .filled ∧ x.ren = some r.granule ∧ x.tlb = none
               ∧ ∃ t, stage2 s g.die g.polder (accWrites acc) (r.buf + va % 4096) = .ok t ∧ x.pa = t.pa ∧ x.key = t.key))

/-- R204, R233, R250, R353, R410, R413: ST, VST and VSTX store their bytes at the addresses that their operands give, and
nothing else of memory changes. -/
def Obligations.Stores : Prop :=
  ∀ (s : State) (c : Ctx) (h : Hdr) (size : Size) (m : MemArg) (a : SReg) (f : Fmt) (v : VReg) (x : GatherArg),
    let q := s.cur.seq
    let w := margAddr m c q (sizeBytes size)
    let wv := margAddr m c q 512
    (spanOk w.toNat (sizeBytes size) = true → w.toNat % sizeBytes size = 0 →
        GivesStore s c (.st h size m a) h [.X, .L, .S] m.sc m.sc (ordRel m.ord)
          [(w, leBytes (c.rS q a).toNat (sizeBytes size))])
      ∧ (spanOk wv.toNat (vmemBytes f) = true → wv.toNat % 16 = 0 → f = .raw ∨ (c.rV v).tag = f →
        GivesStore s c (.vst h f m v) h [.L, .S] m.sc m.sc (ordRel m.ord) [(wv, vstoreBytes f true (c.rV v).data)])
      ∧ (gatherTrap c q x true = none →
        GivesStore s c (.vstx h x) h [.L, .S] x.sc .ctx x.sync
          ((gatherElems c q x).map fun e =>
            (e.2, leBytes (elem (fmtWidth x.fmt) (c.rV x.v).data e.1) (fmtWidth x.fmt / 8))))

/-- R226, R327 to R329, R415: RED and VREDX apply their operation to the value at each address, in order, and nothing
else of memory changes. That elements which find no credits wait in the operation of the issued instruction is the
model's choice (log entry 13, DEDUCED; for host memory log entry 77, DESIGN CHOICE). -/
def Obligations.Reductions : Prop :=
  ∀ (s : State) (c : Ctx) (h : Hdr) (op : AtomOp) (w8 : Bool) (m : MemArg) (a : SReg) (ro : RedxOp) (x : GatherArg),
    let q := s.cur.seq
    let f := atomFmt op w8
    let n := fmtWidth f / 8
    let w := margAddr m c q n
    (spanOk w.toNat n = true → w.toNat % n = 0 →
        GivesReduce s c (.red h op w8 m a) h [.X, .L, .S] m.sc m.sc (ordRel m.ord) op f
          [(w, (c.rS q a).toNat % 2 ^ (8 * n))])
      ∧ (gatherTrap c q x true = none →
        GivesReduce s c (.vredx h ro x) h [.L, .S] x.sc .ctx x.sync (redxAtom ro x.fmt) x.fmt
          ((gatherElems c q x).map fun e => (e.2, elem (fmtWidth x.fmt) (c.rV x.v).data e.1)))

/-- R226, R307, R327 to R329: ATOM on HBM with four credits there, or on a host window whose completer takes the operation
(R203), returns the old value and leaves the new one; .cas writes only where the old value is the operand. -/
def Obligations.Atomics : Prop :=
  ∀ (s : State) (c : Ctx) (h : Hdr) (op : AtomOp) (w8 : Bool) (m : MemArg) (d : SReg) (x : Seg) (s1 : State),
    let q := s.cur.seq
    let f := atomFmt op w8
    let n := fmtWidth f / 8
    let w := margAddr m c q n
    let g := writeAgent s c q h.hint
    let v := (c.rS q d).toNat % 2 ^ (8 * n)
    let v2 := (c.rS q (d + 1)).toNat % 2 ^ (8 * n)
    let u := noteAccess (hostAsked x (if ordRel m.ord then releaseEffect s1 m.sc else s1)) g .atomic [x]
    let old := leNat (physRead u x.key x.pa n)
    let new := if op = .cas then (if old = v then v2 else old) else atomNew op f old v
    Issues s c (.atom h op w8 m d) h [.X, .L, .S] → c.neutral = none → spanOk w.toNat n = true → w.toNat % n = 0 →
    (ordRel m.ord = true → releaseReady s c q m.sc = true) → (m.sc = .sys → sysOwed s c q = false) →
    sideTouches s c.id [(w.toNat, n)] = false → redsMeet c q [x] = false →
    checkPages s g .atomic w.toNat n = .ok [x] → (∀ b, x.pa ≤ b → b < x.pa + x.len → b / 4096 = x.pa / 4096) →
    (physKind x.pa = .host ∧ hostAtomOk op true = true ∧ Config.hostAtomRefused s.freeCtr = false
      ∨ ∃ e, physKind x.pa = .hbm e) → poisoned s x.pa n = false →
    takeCredits s (effPolder s c) x.pa = some s1 →
    ∃ t e, exec (.atom h op w8 m d) s = .next t ∧ getCtx t (ctxOf s.cur) = some e
      ∧ ScalarWritten q d (BitVec.ofNat 64 old) c e ∧ FrameContext q h c e ∧ GuardsKept q c e ∧ VectorsKept c e
      ∧ Advanced q c e ∧ physRead t x.key x.pa n = leBytes new n ∧ BytesKept u t [x]
      ∧ (∀ id, id ≠ ctxOf s.cur → getCtx t id = getCtx s id)
      ∧ OnlyMemory s { t with ctxs := s.ctxs, polders := s.polders }

/-- R94, R168, R197, R344 to R346: PREF brings a line that may be read into the caches, into the L1 for .l1 unless its hint is
no-allocate, and asks nothing of the host; it is dropped otherwise, without any effect. CMNT.l1all drops the L1's lines but
the vaults'; the other forms of CMNT translate their line, and drop it from the L1, write it back where it is a dirty pool
line, or both with every copy in an RDC. None of them changes a register or a byte of data. That PREF and CMNT count as reads
in the heat of their translation is the model's choice (log entry 63). -/
def Obligations.LineHints : Prop :=
  ∀ (s : State) (c : Ctx) (h : Hdr) (k : PrefKind) (m : LineArg) (segs : List Seg),
    let q := s.cur.seq
    let g := agentOf s c
    let gp := hintAgent s c h.hint
    let a := (memAddr c q m.base m.idx m.off 1).toNat
    let core := (ctxOf s.cur).core
    let u := touch s g .read (granules 2 a 1)
    let leaves (i : Instr) (u : State) : Prop :=
      Issues s c i h [.X, .L, .S] →
        ∃ t d, exec i s = .next t ∧ FrameOutside u t ∧ getCtx t (ctxOf s.cur) = some d ∧ FrameContext q h c d
          ∧ ScalarKept q c d ∧ GuardsKept q c d ∧ VectorsKept c d ∧ Advanced q c d
    (c.neutral.isSome = true → leaves (.pref h k m) s)
      ∧ (c.neutral = none → checkAccess s gp .read a 1 1 = .ok segs →
          leaves (.pref h k m) (noteFill s gp .read segs (k == .l1 && h.hint != 3)))
      ∧ (c.neutral = none → (∀ l, checkAccess s gp .read a 1 1 ≠ .ok l) → leaves (.pref h k m) s)
      ∧ (c.neutral = none → leaves (.cmnt h .l1all m) (l1Drop s core true fun _ => true))
      ∧ (∀ x, c.neutral = none → checkAccess s g .read a 1 1 = .ok [x] →
          leaves (.cmnt h .l1inv m) (l1Drop u core false (· == lineOf x.pa))
            ∧ ((∃ n, physKind x.pa = .pool n) → leaves (.cmnt h .wb m) (hintLine (writeBackLine u x.pa) h.hint (lineOf x.pa))
                ∧ leaves (.cmnt h .wbinv m) (dropCopies (writeBackLine u x.pa) core x.pa))
            ∧ ((∀ n, physKind x.pa ≠ .pool n) → leaves (.cmnt h .wb m) u
                ∧ leaves (.cmnt h .wbinv m) (dropCopies u core x.pa)))

/-- R29, R410, R414, R413: VLD and VLDX write their register with the bytes at their addresses, the format's tag and
pennant 0; VLDX clears the elements whose index is 2^31. -/
def Obligations.VectorLoads : Prop :=
  ∀ (s : State) (c : Ctx) (h : Hdr) (f : Fmt) (m : MemArg) (v : VReg) (x : GatherArg),
    let q := s.cur.seq
    let a := (margAddr m c q 512).toNat
    let written (d : Ctx) (r : VReg) (y : VecReg) : Prop :=
      ScalarKept q c d ∧ d.preg = c.preg ∧ ∀ k, d.rV k = if k = r then y else c.rV k
    (spanOk a (vmemBytes f) = true → a % 16 = 0 →
        GivesLoad s c (.vld h f m v) h [.L, .S] m.sc m.sc (ordAcq m.ord) [(a, vmemBytes f)] fun bs d =>
          written d v { data := vloadData f true bs, tag := f, pen := 0 })
      ∧ (gatherTrap c q x false = none →
        GivesLoad s c (.vldx h x) h [.L, .S] x.sc .ctx x.sync
          ((gatherElems c q x).map fun e => (e.2.toNat, fmtWidth x.fmt / 8)) fun bs d => ∃ y, written d x.v y ∧ y.tag = x.fmt ∧ y.pen = 0
            ∧ (∀ j (hj : j < (gatherElems c q x).length),
                elem (fmtWidth x.fmt) y.data ((gatherElems c q x)[j]).1
                  = natAt bs (fmtWidth x.fmt / 8 * j) (fmtWidth x.fmt / 8))
            ∧ (∀ i, i < fmtElems x.fmt → (∀ e ∈ gatherElems c q x, e.1 ≠ i) → elem (fmtWidth x.fmt) y.data i = 0))

/-- R144, R145, R411, R412: the scratchpad forms of VLD and VST, and VLD.acc, move a row of scratchpad once no matrix
instruction of C is in flight. -/
def Obligations.ScratchpadMoves : Prop :=
  ∀ (s : State) (c : Ctx) (h : Hdr) (f : Fmt) (v : VReg) (p : Pair) (r : SReg) (tr : BitVec 3),
    let q := s.cur.seq
    let w := c.rawDesc q p
    let row := (c.rS q r).toNat
    let n := vspBytes f
    let t := c.tile tr
    let written (y : VecReg) (d : Ctx) : Prop :=
      ScalarKept q c d ∧ d.preg = c.preg ∧ GuardsKept q c d ∧ Advanced q c d ∧ ∀ k, d.rV k = if k = v then y else c.rV k
    let gives (i : Instr) (y : VecReg) : Prop :=
      Issues s c i h [.L, .C, .S] → ∃ t d, exec i s = .next t ∧ FrameOutside s t ∧ getCtx t (ctxOf s.cur) = some d
        ∧ FrameContext q h c d ∧ written y d
    (spRowTrap c w (c.rS q r) n = none → matrixBusy c q = false →
        (c.spBad (spOffs w.desc row 0 n) = false →
            gives (.vldScratchpad h f v p r) { data := vloadData f false (spRead c w.desc row 0 n), tag := f, pen := 0 })
          ∧ ((f = .raw ∨ (c.rV v).tag = f) → memberParked s c (c.rV v).pen = false →
            Issues s c (.vstScratchpad h f p r v) h [.L, .C, .S] →
            ∃ t d, exec (.vstScratchpad h f p r v) s = .next t ∧ FrameOutside s t ∧ getCtx t (ctxOf s.cur) = some d
              ∧ ScalarKept q c d ∧ GuardsKept q c d ∧ VectorsKept c d ∧ Advanced q c d
              ∧ d.scratch = spStoreAll c.scratch (spOffs w.desc row 0 n) (vstoreBytes f false (c.rV v).data)
              ∧ (∀ o, o ∉ spOffs w.desc row 0 n → cellGet d.scratch o = cellGet c.scratch o)
              ∧ ctxRest { d with scratch := c.scratch, spoison := c.spoison, origin := c.origin } = ctxRest c))
      ∧ (matrixBusy c q = false → t.opened = true → row ≤ 31 → accTrap c w t.width t.width [row] = none →
          memberParked s c (if t.vacant.getLsbD row then 0 else t.pens.getD row 0) = false →
          c.spBad (spOffs w.desc row 0 (4 * t.width)) = false →
          gives (.vldAcc h tr v p r)
            { data := BitVec.ofNat 4096 (leNat (spRead c w.desc row 0 (4 * t.width))), tag := .fp32
              pen := if t.vacant.getLsbD row then 0 else t.pens.getD row 0 })

/-- R144, R145, R177, R393: TLD and TST with room in the engine, aligned operands and a descriptor inside the carve-out
start their transfer: of memory where every row is canonical and no page is refused at once, of a window where it passes
R195, of the vault in a neutral context. Off their alignment they trap with 0x09; a window's row that leaves the OFF of its
base is trap 0x08. -/
def Obligations.BlockTransfers : Prop :=
  ∀ (s : State) (c : Ctx) (h : Hdr) (t : BlockArg) (load : Bool),
    let q := s.cur.seq
    let i : Instr := if load then .tld h t else .tst h t
    let base := c.rS q t.b
    let pitch := (c.rS q t.p).toNat % 2 ^ 32
    let rows := blockRows (c.rS q t.g)
    let bytes := blockBytes (c.rS q t.g)
    let pad := if t.pad then c.padrows.toNat else 0
    let d := (c.rawDesc q t.sp).desc
    Issues s c i h [if load then .L else .S] →
    (c.neutral = none ∨ load = true) →
    (BlockForm s c q load t → c.neutral = none → t.win = false →
        (∀ r ∈ liveRows c q t, spanOk (blockRow c q t r).toNat bytes = true) →
        (∀ n cause va, dryWalk s (agentOf s c) (xacc load) 0 (blockPieces base pitch rows bytes pad) = some (n, .trap cause va) →
          cause = 0x12) →
        StartsTransfer s s c i h h.hint t.sc (.block load base pitch rows bytes pad d t.ch))
      ∧ (BlockForm s c q load t → t.win = true →
        (∃ y, winCheck s c base ((liveRows c q t).map fun r => (blockRow c q t r, bytes)) = .ok y) →
        StartsTransfer s s c i h h.hint t.sc (.window load base pitch rows bytes pad d t.ch))
      ∧ (BlockForm s c q load t → c.neutral.isSome = true → t.win = false →
        (∀ r ∈ liveRows c q t, (vaultPhys s (blockRow c q t r) bytes).isSome = true) →
        StartsTransfer s s c i h h.hint t.sc (.vault base pitch rows bytes pad d t.ch))
      ∧ (engineRoom s c = true → base.toNat % 16 ≠ 0 → exec i s = trapsIn s h 0x09 0 base)
      ∧ (engineRoom s c = true → base.toNat % 16 = 0 → (c.rS q t.p).toNat % 16 = 0 →
        blockReservedOk (c.rS q t.p) (c.rS q t.g) = true → t.win = true →
        (∃ r ∈ liveRows c q t, 2 ^ 22 < base.toNat % 2 ^ 22 + r * pitch + bytes) → exec i s = trapsIn s h 0x08 0 base)
      ∧ (engineRoom s c = false → exec i s = .next s)

/-- R175, R176, R395: the row forms of a neutral context start with rows 1 to 256 and an aligned offset; TLD.adp starts
for a member of the bunting. -/
def Obligations.RowTransfers : Prop :=
  ∀ (s : State) (c : Ctx) (h : Hdr) (t : RowArg),
    let q := s.cur.seq
    let b0 := c.rS q t.b
    let n := c.rS q t.n
    let g := c.rS q t.g
    let raw := c.rawDesc q t.sp
    let bytes := blockBytes g
    let off := (g.extractLsb' 32 32).toNat
    c.neutral.isSome = true → engineRoom s c = true → g.extractLsb' 12 20 = 0 →
    (off % 16 = 0 → n ≠ 0 → b0.toNat + n.toNat ≤ 256 → descTrap c raw (xferSpans t.ch raw.desc n.toNat bytes) = none →
        (Issues s c (.tldRows h t) h [.L] →
            StartsTransfer s s c (.tldRows h t) h h.hint .ctx (.rows true b0.toNat n.toNat off bytes raw.desc t.ch))
          ∧ (Issues s c (.tscat h t) h [.S] →
            StartsTransfer s s c (.tscat h t) h h.hint .ctx (.rows false b0.toNat n.toNat off bytes raw.desc t.ch)))
      ∧ (∀ b x y, c.neutral = some b → bunting s b = some x → memberOf s b b0.toNat = some y → b0 ≠ 0 →
          b0.toNat ≤ x.members.length → n.toNat % 2 ^ 32 % 16 = 0 → (n.extractLsb' 32 32).toNat % 16 = 0 →
          g.extractLsb' 44 20 = 0 → raw.desc.aligned = true → raw.reservedOk = true →
          (∀ z ∈ xferSpans t.ch { raw.desc with base := raw.desc.base + y.aslot * raw.desc.tpitch } (blockRows g) bytes,
            c.spanIn { raw.desc with base := raw.desc.base + y.aslot * raw.desc.tpitch } z.1 z.2.1 z.2.2 = true) →
          Issues s c (.tldAdp h t) h [.L] →
          StartsTransfer s s c (.tldAdp h t) h h.hint .ctx
            (.adp b0.toNat (n.toNat % 2 ^ 32) (n.extractLsb' 32 32).toNat (blockRows g) bytes raw.desc t.ch))

/-- R301, R375, R376: SCOPY, its operands and its function's state in order, translates its spans, which it then holds, takes
its counter where the key slot holds a sealing key and the counter rises, and starts; the status it will write is 3 without a
key, 2 for a counter that does not rise. Behind a SCOPY of the same key slot that has still to pass its first step it starts
without passing its own: SCOPYs of one slot are taken in the order of their issue. A span that is not as step 2 asks is a trap, which leaves the counter as it was. -/
def Obligations.SealedCopies : Prop :=
  ∀ (s : State) (c : Ctx) (h : Hdr) (k : BitVec 5) (d a b l e : SReg) (sp : List Seg × List Seg),
    let q := s.cur.seq
    let g := agentOf s c
    let dst := c.rS q a
    let src := c.rS q b
    let len := (c.rS q l).toNat
    let ctr := c.rS q e
    let y := getKey s k.toNat
    let i : Instr := .scopy h k d a b l e
    let u := scopyTouch s g dst src len
    let starts (u : State) (key : Option (BitVec 256 × BitVec 32)) (status : Option Nat) : Prop :=
      StartsTransfer s u c i h 0 .ctx (.scopy d dst src len ctr k.toNat key sp status)
    let others := s.ctxs ++ s.saved.map fun v => v.ctx
    Issues s c i h [.L] → c.neutral = none → engineRoom s c = true → (getPolder s g.polder).tdi ≠ 3 →
    dst.toNat % 16 = 0 → src.toNat % 16 = 0 → len % 16 = 0 → len ≠ 0 → len ≤ 2 ^ 24 →
    spanOk dst.toNat len = true → spanOk src.toNat (len + 16) = true →
    (∀ cause va, scopySpans s g dst src len = .error (.trap cause va) → cause ≠ 0x12 →
        exec i s = trapsIn u h cause 0 (BitVec.ofNat 64 va))
      ∧ ((∃ y ∈ others, ∃ x ∈ y.xfers, x.unaccepted k.toNat = true) → scopySpans s g dst src len = .ok sp →
        StartsTransfer s s c i h 0 .ctx (.scopy d dst src len ctr k.toNat none ([], []) none))
      ∧ ((∀ y ∈ others, ∀ x ∈ y.xfers, x.unaccepted k.toNat = false) → scopySpans s g dst src len = .ok sp →
        ((getPolder s g.polder).keys.getLsbD k.toNat = false ∨ y.sealKey = none → starts u none (some 3))
          ∧ ((getPolder s g.polder).keys.getLsbD k.toNat = true → y.sealKey.isSome = true →
            (ctr.toNat ≤ y.lastctr.toNat → starts u none (some 2))
              ∧ (y.lastctr.toNat < ctr.toNat →
                starts { u with keys := u.keys.modify k.toNat fun z => { z with lastctr := ctr } } y.sealKey none)))

/-- R419: WLD with an aligned address and a source that may be read and whose metadata is well formed starts to fill its
staging slot, outside a neutral context; a source that is not well formed is trap 0x04.
R214, R374: RROT of a gang member, with aligned operands inside the carve-out and its release's conditions met, joins
the rotation and waits in it. -/
def Obligations.WeightLoadsAndRotation : Prop :=
  (∀ (s : State) (c : Ctx) (h : Hdr) (w : WldArg) (a : SReg) (r : List Byte × List Nat × List Seg),
     let q := s.cur.seq
     let addr := c.rS q a
     let cmd : WldCmd := { addr := addr, ws := w.ws, wf := w.wf, form := w.form }
     let g := writeAgent s c q h.hint
     Issues s c (.wld h w a) h [.L] →
     let inside := if c.neutral.isSome then (vaultPhys s addr (tileBytes w.wf w.form)).isSome
       else spanOk addr.toNat (tileBytes w.wf w.form)
     (inside = false → exec (.wld h w a) s = trapsIn s h 0x08 0 addr)
       ∧ (inside = true → addr.toNat % 16 ≠ 0 → exec (.wld h w a) s = trapsIn s h 0x09 0 addr)
       ∧ (inside = true → addr.toNat % 16 = 0 → wldRead s c g [] cmd = .ok r → (∀ x ∈ r.2.2, x.fabric = false) →
         (metaOk r.1 w.wf w.form = false → exec (.wld h w a) s = trapsIn (wldTouch s c g cmd) h 0x04 0 0)
           ∧ (metaOk r.1 w.wf w.form = true → Starts s s c (.wld h w a) h .ctx (.wld w.ws c.nextXfer)
               (fun d => { d with xfers := c.xfers, nextXfer := c.nextXfer, slots := c.slots }) fun d =>
                 d.nextXfer = c.nextXfer + 1 ∧ (∃ x, d.xfers = c.xfers ++ [x] ∧ x.kind = .wld cmd ∧ x.scope = w.sc)
                   ∧ d.slots = c.slots.modify (if w.ws then 1 else 0) fun y => { y with filling := true })))
    ∧ (∀ (s : State) (c : Ctx) (h : Hdr) (dst src : Pair) (l : SReg),
         let q := s.cur.seq
         let rd := c.rawDesc q dst
         let rs := c.rawDesc q src
         let n := (c.rS q l).toNat
         Issues s c (.rrot h dst src l) h [.L] → c.gang.isSome = true → c.neutral = none →
         rd.desc.base % 16 = 0 → rs.desc.base % 16 = 0 → n % 16 = 0 → n ≠ 0 → n ≤ 16384 → rd.reservedOk = true →
         rs.reservedOk = true → rd.desc.base + n ≤ c.spBytes → rs.desc.base + n ≤ c.spBytes →
         releaseReady s c q .cluster = true →
         Starts s s c (.rrot h dst src l) h .ctx .rrot (fun d => { d with rrot := c.rrot, rrotWait := c.rrotWait }) fun d =>
           d.rrot = some (rs.desc.base, rd.desc.base, n) ∧ d.rrotWait = true)

/-- R140, R144, R146, R149, R359, R363, R366: the matrix instructions, with a free unit and operands that pass their
checks, join the matrix queue with the operands that they capture; of the accumulators the columns that PADCOLS does not mask
are checked, with every row; a closed tile record is trap 0x0E with DETAIL 17, one
of the wrong width DETAIL 18.
R365: MSTAT completes with the tile record, once no matrix instruction of its tile is in flight: 0 for a record that
was not opened. -/
def Obligations.MatrixInstructions : Prop :=
  (∀ (s : State) (c : Ctx) (h : Hdr) (m : MmaArg) (g : MmagArg) (w32 : Bool) (tr : BitVec 3) (acc : Pair) (p : SReg),
     let q := s.cur.seq
     let slot := (c.slots[if m.ws then 1 else 0]?).getD { data := none, src := none, grans := [], filling := false }
     let open_ (ce : Nat) : Nat := min 96 (96 * (ce + 1) - c.padcols.toNat)
     let mma (i : Instr) : Prop :=
       Issues s c i h [.C] → slot.filling = false → aTagsOk c m.af m.a = true →
       (slot.data.any fun y => y.wf == m.wf && y.form == m.form) = true →
       ((c.tile m.trec).opened = false → exec i s = trapsIn s h 0x0E 17 0)
         ∧ ((c.tile m.trec).opened = true → (c.tile m.trec).wide = false → exec i s = trapsIn s h 0x0E 18 0)
         ∧ ((c.tile m.trec).opened = true → (c.tile m.trec).wide = true → aSizeOk m.af (formK m.form) m.a = true →
             accTrap c (c.rawDesc q m.acc) 96 (open_ m.ce.toNat) (List.range 32) = none → aTrap c q m.af (formK m.form) m.a = none →
             aPenOk c (c.tile m.trec) m.a = true →
             StartsMatrix s c i h
               { kind := .mma m.ws m.af m.wf m.form (m.kx.toNat + 1), trec := m.trec, acc := (c.rawDesc q m.acc).desc
                 a := captureA c q m.a, padRows := c.padrows.toNat, padCols := c.padcols.toNat, re := m.re.toNat
                 ce := m.ce.toNat })
     unitBusy s c.id.core = false →
     mma (.mma h m) ∧ mma (.mmas h m)
       ∧ (let rank := g.nm1.toNat + 1
          let k := if g.up then rank else 96
          let cmd : MatCmd :=
            { kind := .mmag (c.rawDesc q g.adp).desc g.up g.af rank g.as.toNat, trec := g.trec
              acc := (c.rawDesc q g.acc).desc, a := captureA c q g.a, padRows := c.padrows.toNat
              padCols := c.padcols.toNat, re := g.re.toNat, ce := g.ce.toNat }
          Issues s c (.mmag h g) h [.C] → aTagsOk c g.af g.a = true → (c.tile g.trec).opened = true →
          (c.tile g.trec).wide = g.up → aSizeOk g.af k g.a = true →
          accTrap c (c.rawDesc q g.acc) (if g.up then 96 else 32) (if g.up then open_ g.ce.toNat else rank) (List.range 32) = none → aTrap c q g.af k g.a = none →
          descTrap c (c.rawDesc q g.adp) (adpSpans s c (c.rawDesc q g.adp).desc cmd g.up rank g.as.toNat) = none →
          aPenOk c (c.tile g.trec) g.a = true → StartsMatrix s c (.mmag h g) h cmd)
       ∧ (Issues s c (.mzero h w32 tr acc p) h [.C] → (c.rS q p).toNat ≤ 7 →
          accTrap c (c.rawDesc q acc) (if w32 then 32 else 96) (if w32 then 32 else 96) (List.range 32) = none →
          StartsMatrix s c (.mzero h w32 tr acc p) h
            { kind := .mzero w32 (c.rS q p).toNat, trec := tr, acc := (c.rawDesc q acc).desc, a := .regs 0 [], padRows := 0
              padCols := 0, re := 0, ce := 0 })
       ∧ (Issues s c (.mzero h w32 tr acc p) h [.C] → 7 < (c.rS q p).toNat →
          exec (.mzero h w32 tr acc p) s = trapsIn s h 0x0E 19 0))
    ∧ (∀ (s : State) (c : Ctx) (h : Hdr) (tr : BitVec 3) (d : SReg), (∀ x ∈ c.matrix, x.trec ≠ tr) →
         let t := c.tile tr
         ∃ v : Word, GivesScalar s c (.mstat h tr d) h [.C] d v
           ∧ (t.opened = false → v = 0)
           ∧ (t.opened = true → v.extractLsb' 0 32 = t.parked ∧ v.getLsbD 51 = true
               ∧ (t.win.length < 512 → v.getLsbD 52 = t.wide ∧ v.getLsbD 50 = t.wovf ∧ v.extractLsb' 53 3 = t.pass
                   ∧ v.extractLsb' 41 9 = BitVec.ofNat 9 t.win.length)))

/-- R384: an instruction on elements writes, in every lane that its predicate enables, the element's result, keeps or
clears the others, and has the exceptions of the enabled elements only.
R28, R401, R402: integer elements add, subtract and multiply modulo 2^w, or saturate to their format; the smaller and
the larger of two, the absolute value and the negation are those of the numbers that the elements stand for.
R416: on an integer format VRED.add leaves the sum of the enabled elements modulo 2^w in element 0 and 0 in the
others; VSCAN.add leaves in each enabled element the sum of the enabled elements up to it.
R26, R36 to R39, R50, R386: an exact number is rounded once into its format, with its exceptions; so are the sums, the
differences, the products and the fused sums of finite FP32 and BF16 elements.
R53 to R55, R360, R363: where the products and the scales are whole numbers that stay below 2^24, a matrix element gains the
sum of its products. -/
def Obligations.LanesAndIntegerElements : Prop :=
  (∀ (w : Nat) (lane : Option PData) (pz : Bool) (old : VData) (f : Nat → Nat × Exc),
     w = 4 ∨ w = 8 ∨ w = 16 ∨ w = 32 ∨ w = 64 →
     let r := laneMap w lane pz old f
     (∀ i, i < 4096 / w → elem w r.1 i =
         if laneOn lane w i then (f i).1 % 2 ^ w else if pz then 0 else elem w old i)
       ∧ ((∀ i, i < 4096 / w → laneOn lane w i = true → (f i).2 = Exc.none) → r.2 = Exc.none)
       ∧ ((r.2.nv = true ↔ ∃ i, i < 4096 / w ∧ laneOn lane w i = true ∧ (f i).2.nv = true)
           ∧ (r.2.nx = true ↔ ∃ i, i < 4096 / w ∧ laneOn lane w i = true ∧ (f i).2.nx = true)))
    ∧ ((∀ (f : Fmt) (e : FCtl) (a b : Nat), isInt f = true → a < 2 ^ fmtWidth f → b < 2 ^ fmtWidth f →
          let w := fmtWidth f
          (arithElem .add f e false a b = ((a + b) % 2 ^ w, Exc.none))
            ∧ (arithElem .sub f e false a b = ((a + (2 ^ w - b)) % 2 ^ w, Exc.none))
            ∧ (arithElem .mul f e false a b = ((a * b) % 2 ^ w, Exc.none))
            ∧ intVal f (arithElem .add f e true a b).1 = clampInt f (intVal f a + intVal f b)
            ∧ intVal f (arithElem .sub f e true a b).1 = clampInt f (intVal f a - intVal f b)
            ∧ intVal f (arithElem .mul f e true a b).1 = clampInt f (intVal f a * intVal f b)
            ∧ intVal f (arithElem .min f e false a b).1 = min (intVal f a) (intVal f b)
            ∧ intVal f (arithElem .max f e false a b).1 = max (intVal f a) (intVal f b)
            ∧ intVal f (absElem f true a) = clampInt f (intVal f a).natAbs
            ∧ negElem f false a = (2 ^ w - a) % 2 ^ w)
         ∧ (∀ (f : Fmt) (e : FCtl) (lane : Option PData) (pz : Bool) (old a : VData), isInt f = true →
              let w := fmtWidth f
              let sum (n : Nat) : Nat :=
                (((List.range n).filter fun i => laneOn lane w i).map fun i => elem w a i).foldl (· + ·) 0
              elem w (redData .add f e lane a).1 0 = sum (4096 / w) % 2 ^ w
                ∧ (∀ i, 0 < i → i < 4096 / w → elem w (redData .add f e lane a).1 i = 0)
                ∧ (∀ i, i < 4096 / w → elem w (scanData .add f e lane pz old a).1 i =
                    if laneOn lane w i then sum (i + 1) % 2 ^ w else if pz then 0 else elem w old i)))
    ∧ (∀ p ∈ [fpFp32, fpBf16, fpE5m2, fpE4m3],
        (∀ x, x < 2 ^ p.width → (decodeF p x).finite = true →
          let f : Rat := (x % 2 ^ p.fb : Nat)
          let e := x / 2 ^ p.fb % 2 ^ p.eb
          (decodeF p x).num = (if 2 ^ p.signBit ≤ x then -1 else 1)
            * (if e = 0 then (2 : Rat) ^ (1 - (p.bias : Int)) * (f / 2 ^ p.fb)
               else (2 : Rat) ^ ((e : Int) - p.bias) * (1 + f / 2 ^ p.fb)))
          ∧ ∀ (mode : RMode) (ftz sat : Bool) (s : Bool) (m : Nat) (e : Int), 0 < m →
              Rounded p mode ftz sat (FVal.fin s m e).num (roundF p mode ftz sat s m e))
    ∧ (∀ (f : Fmt) (k : FCtl) (a b d : Nat), isFp f = true → a < 2 ^ fmtWidth f → b < 2 ^ fmtWidth f → d < 2 ^ fmtWidth f →
        let p := fpOf f
        let x := readF p k.ftz a
        let y := readF p k.ftz b
        let z := readF p k.ftz d
        let once (v : Rat) (r : Nat × Exc) : Prop := v ≠ 0 → Rounded p k.mode k.ftz false v r
        x.finite = true → y.finite = true →
          once (x.num + y.num) (arithElem .add f k false a b) ∧ once (x.num - y.num) (arithElem .sub f k false a b)
            ∧ once (x.num * y.num) (arithElem .mul f k false a b)
            ∧ (z.finite = true → once (x.num * y.num + z.num) (fmaElem f k false a b d)))
    ∧ (∀ (c : Ctx) (m : MatCmd) (g : StageData) (af : ActFmt) (adp : SpDesc) (up : Bool) (chunks rank j r n : Nat) (acc : Int)
        (sc : Nat → Int) (prod : Nat → Nat → Int), 0 < chunks →
        let old := decodeF fpFp32 (accElem c m.acc r n)
        let kept := formKept g.form
        let act (k : Nat) : FVal := actVal af (aElem c m.a (actBytes af) r k)
        let whole (x y : FVal) (v : Int) : Prop := x.finite = true ∧ y.finite = true ∧ x.num * y.num = v
        let sum (n : Nat) (f : Nat → Int) : Int := ((List.range n).map f).sum
        let gains (v : Int) (z : Nat × Exc) : Prop :=
          (decodeF fpFp32 z.1).finite = true ∧ (decodeF fpFp32 z.1).num = (acc + v : Int) ∧ z.2 = Exc.none
        let small (q len : Nat) : Prop := acc.natAbs + sum q (fun i => ((sc i).natAbs + 1) * sum len fun l => (prod i l).natAbs) < 2 ^ 24
        let total (q len : Nat) : Int := sum q fun i => sc i * sum len (prod i)
        old.finite = true → old.num = acc →
          (let len := if g.form = .dense then 48 else 4 * kept
           let place (i l : Nat) : Nat × Nat := if g.form = .dense then (48 * i + l, 48 * i + l)
             else (12 * ((4 * kept * i + l) / kept) + idx4 g.tile g.wf n (4 * kept * i + l), 4 * kept * i + l)
           (∀ i, i < chunks → (wScale g n i).finite = true ∧ (wScale g n i).num = sc i
              ∧ ∀ l, l < len → whole (act (place i l).1) (wElem g n (place i l).2) (prod i l)) →
           small chunks len → gains (total chunks len) (mmaElem c m g af chunks r n))
            ∧ (let q := if up then 1 else 2
               let len := if up then rank else 48
               (∀ i, i < q → sc i = 1 ∧ ∀ l, l < len → whole (act (48 * i + l)) (adpElem c adp j (48 * i + l) n) (prod i l)) →
               small q len → gains (total q len) (mmagElem c m adp up af rank j r n)))

/-- R34, R172, R384, R385, R401, R402: VADD, VSUB, VMUL, VFMA, VMIN, VMAX, VABS and VNEG, element by element.
R38, R40, R45 to R47, R402: on FP32 and BF16 a NaN operand, the first in their order, is the result, quiet; opposite
infinities added give the NaN of cause 3 and 0 times an infinity that of cause 4, with NV; infinities and the sign of an exact
zero; the smaller and the larger with -0 below +0, a subnormal under FTZ as the zero that it is read as; VABS and VNEG act on
the sign bit. -/
def Obligations.VectorArithmetic : Prop :=
  (∀ (s : State) (c : Ctx) (h : Hdr) (m : VMod) (d a : VReg) (b e : VSrc),
    let x := c.rV a
    let y := vsrc c .C m.fmt b
    let z := vsrc c .C m.fmt e
    let w := fmtWidth m.fmt
    let k := fctl c m.rm
    let lanes (f : Nat → Nat × Exc) : VData × Exc := laneMap w (laneOf c m) m.pz (c.rV d).data f
    let two (i : Instr) (op : VArith) : Prop :=
      let r := lanes fun n => arithElem op m.fmt k m.sat (elem w x.data n) (y.1.elem w n)
      GivesVector s c i h (tagged m.fmt (x :: y.2)) (x :: y.2) [d] [r.1] r.2 m.fmt
    let one (i : Instr) (f : Nat → Nat) : Prop :=
      GivesVector s c i h (tagged m.fmt [x]) [x] [d] [(lanes fun n => (f (elem w x.data n), Exc.none)).1] Exc.none m.fmt
    let r3 := lanes fun n => fmaElem m.fmt k m.sat (elem w x.data n) (y.1.elem w n) (z.1.elem w n)
    two (.vadd h m d a b) .add ∧ two (.vsub h m d a b) .sub ∧ two (.vmul h m d a b) .mul ∧ two (.vmin h m d a b) .min
      ∧ two (.vmax h m d a b) .max
      ∧ GivesVector s c (.vfma h m d a b e) h (tagged m.fmt (x :: (y.2 ++ z.2))) (x :: (y.2 ++ z.2)) [d] [r3.1] r3.2 m.fmt
      ∧ one (.vabs h m d a) (absElem m.fmt m.sat) ∧ one (.vneg h m d a) (negElem m.fmt m.sat))
    ∧ (∀ (f : Fmt) (k : FCtl) (a b d : Nat), isFp f = true → a < 2 ^ fmtWidth f → b < 2 ^ fmtWidth f → d < 2 ^ fmtWidth f →
        let p := fpOf f
        let mag (v : Nat) : Nat := v % 2 ^ p.signBit
        let neg (v : Nat) : Bool := decide (2 ^ p.signBit ≤ v)
        let nan (v : Nat) : Prop := p.infBits < mag v
        let inf (v : Nat) : Prop := mag v = p.infBits
        let zero (v : Nat) : Prop := mag v = 0 ∨ (k.ftz = true ∧ mag v < 2 ^ p.fb)
        let num (v : Nat) : Rat := (readF p k.ftz v).num
        let quiet (v : Nat) : Nat × Exc := (v ||| 2 ^ (p.fb - 1), Exc.none)
        let gen (n : Nat) : Nat × Exc :=
          ((if f = .fp32 then 0x7FC00000 else 0x7FC0) + n, { Exc.none with nv := true, causes := 1#8 <<< n })
        let put (s : Bool) (v : Nat) : Nat × Exc := ((if s then 2 ^ p.signBit else 0) + v, Exc.none)
        let op (o : VArith) : Nat × Exc := arithElem o f k false a b
        let fma := fmaElem f k false a b d
        let down := k.mode == .rdn
        ((∀ o, nan a → op o = quiet a) ∧ (∀ o, ¬ nan a → nan b → op o = quiet b)
            ∧ (nan a → fma = quiet a) ∧ (¬ nan a → nan b → fma = quiet b) ∧ (¬ nan a → ¬ nan b → nan d → fma = quiet d))
          ∧ (¬ nan a → ¬ nan b →
              (inf a → inf b → op .add = (if neg a = neg b then put (neg a) p.infBits else gen 3)
                  ∧ op .sub = if neg a = neg b then gen 3 else put (neg a) p.infBits)
                ∧ (inf a → ¬ inf b → op .add = put (neg a) p.infBits ∧ op .sub = put (neg a) p.infBits)
                ∧ (¬ inf a → inf b → op .add = put (neg b) p.infBits ∧ op .sub = put (!neg b) p.infBits)
                ∧ ((inf a ∧ zero b) ∨ (zero a ∧ inf b) → op .mul = gen 4 ∧ (¬ nan d → fma = gen 4))
                ∧ (inf a ∨ inf b → ¬ zero a → ¬ zero b → op .mul = put (neg a != neg b) p.infBits
                    ∧ (¬ nan d → fma = if inf d ∧ neg d ≠ (neg a != neg b) then gen 3 else put (neg a != neg b) p.infBits))
                ∧ (¬ inf a → ¬ inf b → inf d → fma = put (neg d) p.infBits)
                ∧ (¬ inf a → ¬ inf b →
                    (num a + num b = 0 → op .add = put (if neg a = neg b then neg a else down) 0)
                      ∧ (num a - num b = 0 → op .sub = put (if neg a = neg b then down else neg a) 0)
                      ∧ (num a * num b = 0 → op .mul = put (neg a != neg b) 0)
                      ∧ (¬ nan d → ¬ inf d → num a * num b + num d = 0 →
                          fma = put (if neg d = (neg a != neg b) then neg d else down) 0))
                ∧ (let read (v : Nat) : Nat := if k.ftz = true ∧ mag v < 2 ^ p.fb then v - mag v else v
                   let key (v : Nat) : Int := if neg v then -(mag v : Int) - 1 else mag v
                   op .min = (if key (read a) ≤ key (read b) then read a else read b, Exc.none)
                     ∧ op .max = (if key (read a) ≤ key (read b) then read b else read a, Exc.none)))
          ∧ absElem f false a = mag a ∧ negElem f false a = (a + 2 ^ p.signBit) % 2 ^ p.width)

/-- R384, R403, R406: the bitwise instructions and shifts of vectors, VPCNT of elements, and VSEL. What a kept lane
looks like under the tags I6 and predicate-image is the model's choice (log entry 79). -/
def Obligations.VectorBits : Prop :=
  ∀ (s : State) (c : Ctx) (h : Hdr) (m : VMod) (d a a2 : VReg) (b : VSrc) (p : QReg),
    let x := c.rV a
    let x2 := c.rV a2
    let y := vsrc c .C m.fmt b
    let w := fmtWidth m.fmt
    let lanes (f : Nat → Nat) : VData := (laneMap w (laneOf c m) m.pz (c.rV d).data fun n => (f n, Exc.none)).1
    let bits (i : Instr) (f : Nat → Nat → Nat) : Prop :=
      GivesVector s c i h (m.fmt == .raw || tagged m.fmt (x :: y.2)) (x :: y.2) [d]
        [lanes fun n => f (elem w x.data n) (y.1.elem w n)] Exc.none m.fmt
    bits (.vand h m d a b) Nat.land ∧ bits (.vor h m d a b) Nat.lor ∧ bits (.vxor h m d a b) Nat.xor
      ∧ bits (.vshl h m d a b) (fun u v => u * 2 ^ (v % w) % 2 ^ w)
      ∧ bits (.vshr h m d a b) (fun u v =>
          if isSigned m.fmt then intBits m.fmt (intVal m.fmt u / 2 ^ (v % w)) else u / 2 ^ (v % w))
      ∧ GivesVector s c (.vsel h m d a a2 p) h (m.fmt == .raw || tagged m.fmt [x, x2]) [x, x2] [d]
          [lanes fun n => if (c.rQ p).getLsbD (n * w / 4) then elem w x.data n else elem w x2.data n] Exc.none m.fmt
      ∧ GivesVector s c (.vpcnt h (.elems m d a)) h (tagged m.fmt [x]) [x] [d]
          [lanes fun n => ((List.range w).filter fun i => (elem w x.data n).testBit i).length] Exc.none m.fmt
      ∧ (∀ f r, Issues s c (.vpcnt h (.pred f r p)) h [.C] →
          ∃ t, exec (.vpcnt h (.pred f r p)) s = .next t
            ∧ WritesScalar s t c h r (BitVec.ofNat 64
                ((List.range (4096 / fmtWidth f)).filter fun i => (c.rQ p).getLsbD (i * fmtWidth f / 4)).length))

/-- R403, R406: VCMP and VBTST write their predicate register, a bit for each lane that an element covers.
R370: QAND, QOR and QNOT write their predicate register with the operation on all 1024 bits. -/
def Obligations.ComparesAndPredicates : Prop :=
  (∀ (s : State) (c : Ctx) (h : Hdr) (k : VCond) (m : VMod) (r : QReg) (a : VReg) (b : VSrc),
     let x := c.rV a
     let y := vsrc c .C m.fmt b
     let w := fmtWidth m.fmt
     let gives (i : Instr) (f : Nat → Bool) : Prop :=
       GivesOther s c i h (tagged m.fmt (x :: y.2)) (x :: y.2) fun d => ScalarKept .C c d
         ∧ (∀ p, p ≠ r → d.rQ p = c.rQ p)
         ∧ ∀ j, j < 1024 → (d.rQ r).getLsbD j =
             if laneOn (laneOf c m) w (j / (w / 4)) then f (j / (w / 4)) else (!m.pz && (c.rQ r).getLsbD j)
     gives (.vcmp h k m r a b) (fun n => cmpElem k m.fmt (fctl c m.rm) (elem w x.data n) (y.1.elem w n))
       ∧ gives (.vbtst h m r a b) (fun n => Nat.land (elem w x.data n) (y.1.elem w n) != 0))
    ∧ (∀ (s : State) (c : Ctx) (h : Hdr) (na nb nd : Bool) (r a b : QReg),
         let x := if na then ~~~ (c.rQ a) else c.rQ a
         let y := if nb then ~~~ (c.rQ b) else c.rQ b
         let gives (i : Instr) (v : PData) : Prop :=
           Issues s c i h [.C] → ∃ t d, exec i s = .next t ∧ FrameOutside s t ∧ getCtx t (ctxOf s.cur) = some d
             ∧ FrameContext .C h c d ∧ d.vreg = c.vreg ∧ GuardsKept .C c d ∧ ScalarKept .C c d ∧ Advanced .C c d
             ∧ PredicateWritten c d r v
         gives (.qand h na nb nd r a b) (if nd then ~~~ (x &&& y) else x &&& y)
           ∧ gives (.qor h na nb nd r a b) (if nd then ~~~ (x ||| y) else x ||| y)
           ∧ gives (.qnot h r a) (~~~ (c.rQ a)))

/-- R408, R416, R417: VRED, VSCAN, VCVT and VSFN write the result of the whole register, or group of registers.
R46, R48 to R52: a conversion of an element: NaNs, infinities and zeros into each format, other numbers rounded as
Obligations.LanesAndIntegerElements says, and into integers rounded and clamped, with NV where the source does not fit.
R417: the special cases of the functions of VSFN, with DZ or the NaN of cause 5; .rcp of other numbers is rounded once, and so
are .sqrt and .rsqrt of squares. -/
def Obligations.VectorReductions : Prop :=
  (∀ (s : State) (c : Ctx) (h : Hdr) (op : RedOp) (fn : Sfn) (df : Fmt) (m : VMod) (d a : VReg),
    let x := c.rV a
    let w := fmtWidth m.fmt
    let k := fctl c m.rm
    let red := redData op m.fmt k (laneOf c m) x.data
    let scan := scanData op m.fmt k (laneOf c m) m.pz (c.rV d).data x.data
    let sfn := laneMap w (laneOf c m) m.pz (c.rV d).data fun n => sfnElem (fpOf m.fmt) k fn (elem w x.data n)
    let src := c.rGroup a (cvtSrcRegs m.fmt df)
    let cvt := cvtGroup m.fmt df k m.sat m.pz (laneOf c m) (src.map fun y => y.data)
      ((c.rGroup d (cvtDstRegs m.fmt df)).map fun y => y.data)
    GivesVector s c (.vred h op m d a) h (tagged m.fmt [x]) [x] [d] [red.1] red.2 m.fmt
      ∧ GivesVector s c (.vscan h op m d a) h (tagged m.fmt [x]) [x] [d] [scan.1] scan.2 m.fmt
      ∧ GivesVector s c (.vsfn h fn m d a) h (tagged m.fmt [x]) [x] [d] [sfn.1] sfn.2 m.fmt
      ∧ GivesVector s c (.vcvt h df m d a) h (tagged m.fmt src) src
          ((List.range (cvtDstRegs m.fmt df)).map fun i => d + BitVec.ofNat 5 i) cvt.1 cvt.2 df)
    ∧ (∀ (sf df : Fmt) (k : FCtl) (sat : Bool) (a : Nat), isFloat sf = true → a < 2 ^ fmtWidth sf →
        let p := fpOf sf
        let q := fpOf df
        let x := readF p k.ftz a
        let r := cvtElem sf df k sat a
        let neg := 2 ^ p.signBit ≤ a
        let mag := a % 2 ^ p.signBit
        let nan : Prop := p.infBits + (if p.inf then 0 else 6) < mag
        let small (e : Fmt) : Bool := e == .e4m3 || e == .e5m2
        let put (v : Nat) : Nat := (if neg then 2 ^ q.signBit else 0) + v
        let invalid : Exc := { Exc.none with nv := true }
        (isFloat df = true → sf ≠ df →
            (nan → r.1 = put (match df with
                  | .e5m2 => 0x7E
                  | .e4m3 => 0x7F
                  | .bf16 => if sf = .fp32 then 0x7FC0 + a % 64 else 0x7FC0
                  | _ => if sf = .bf16 then 0x7FC00000 + a % 64 else 0x7FC00000)
                ∧ r.2 = if small df && !small sf && 1 ≤ a % 8 && a % 8 ≤ 6 then { Exc.none with causes := 1#8 <<< (a % 8) }
                    else Exc.none)
              ∧ (p.inf = true → mag = p.infBits → r =
                  if small df && sat then (put q.maxBits, Exc.none)
                  else if df = .e4m3 then (0x7F, { invalid with causes := 1#8 <<< 6 })
                  else (put q.infBits, Exc.none))
              ∧ (x.finite = true → x.num = 0 → r = (put 0, Exc.none))
              ∧ (x.finite = true → x.num ≠ 0 → Rounded q k.mode k.ftz sat x.num r))
          ∧ (isFloat df = false → df ≠ .raw → df ≠ .pimg →
            (nan → r = (0, invalid))
              ∧ (p.inf = true → mag = p.infBits → intVal df r.1 = (if neg then intMin df else intMax df) ∧ r.2 = invalid)
              ∧ (x.finite = true → ∃ n, RoundsToInt k.mode x.num n ∧ intVal df r.1 = clampInt df n
                ∧ (clampInt df n ≠ n → r.2 = invalid)
                ∧ (clampInt df n = n → r.2 = { Exc.none with nx := r.2.nx } ∧ (r.2.nx = true ↔ (n : Rat) ≠ x.num)))))
    ∧ (∀ (sf df : Fmt) (k : FCtl) (sat : Bool) (a : Nat), isFloat sf = false → sf ≠ .raw → sf ≠ .pimg → a < 2 ^ fmtWidth sf →
        let v := intVal sf a
        let r := cvtElem sf df k sat a
        let bits := if df = .i6 then 6 else fmtWidth df
        (isFloat df = true → (v = 0 → r = (0, Exc.none)) ∧ (v ≠ 0 → Rounded (fpOf df) k.mode k.ftz sat v r))
          ∧ (isFloat df = false → df ≠ .raw → df ≠ .pimg → r.2 = Exc.none ∧ (clampInt df v = v → intVal df r.1 = v)
            ∧ (sat = true → intVal df r.1 = clampInt df v) ∧ (sat = false → (intVal df r.1 - v) % 2 ^ bits = 0)))
    ∧ (∀ (f : Fmt) (k : FCtl) (a : Nat), isFp f = true → a < 2 ^ fmtWidth f →
        let p := fpOf f
        let x := readF p k.ftz a
        let mag := a % 2 ^ p.signBit
        let neg := decide (2 ^ p.signBit ≤ a)
        let is (fn : Sfn) (r : Nat × Exc) : Prop := sfnElem p k fn a = r
        let put (s : Bool) (v : Nat) : Nat × Exc := ((if s then 2 ^ p.signBit else 0) + v, Exc.none)
        let one (s : Bool) : Nat × Exc := put s (127 * 2 ^ p.fb)
        let pole (s : Bool) : Nat × Exc := ((put s p.infBits).1, { Exc.none with dz := true })
        let domain : Nat × Exc := ((if f = .fp32 then 0x7FC00005 else 0x7FC5), { Exc.none with nv := true, causes := 1#8 <<< 5 })
        (p.infBits < mag → ∀ fn, is fn (a ||| 2 ^ (p.fb - 1), Exc.none))
          ∧ (mag = p.infBits → is .rcp (put neg 0) ∧ is .rsqrt (if neg then domain else put false 0)
              ∧ (∀ fn ∈ [Sfn.sqrt, .log2, .log], is fn (if neg then domain else put false p.infBits))
              ∧ (∀ fn ∈ [Sfn.exp2, .exp], is fn (put false (if neg then 0 else p.infBits))) ∧ is .sin domain ∧ is .cos domain
              ∧ is .tanh (one neg) ∧ is .sigm (if neg then put false 0 else one false)
              ∧ is .silu (if neg then put true 0 else put false p.infBits))
          ∧ (x.finite = true → x.num = 0 → is .rcp (pole neg) ∧ is .rsqrt (pole neg)
              ∧ (∀ fn ∈ [Sfn.sqrt, .sin, .tanh, .silu], is fn (put neg 0)) ∧ (∀ fn ∈ [Sfn.exp2, .exp, .cos], is fn (one false))
              ∧ is .log2 (pole true) ∧ is .log (pole true) ∧ is .sigm (put false (126 * 2 ^ p.fb)))
          ∧ (x.finite = true → x.num < 0 → ∀ fn ∈ [Sfn.rsqrt, .sqrt, .log2, .log], is fn domain)
          ∧ (x.finite = true → x.num = 1 → is .log2 (put false 0) ∧ is .log (put false 0))
          ∧ (x.finite = true → x.num ≠ 0 → Rounded p k.mode k.ftz false (1 / x.num) (sfnElem p k .rcp a))
          ∧ (∀ v : Rat, x.finite = true → 0 < v → v * v = x.num → Rounded p k.mode k.ftz false v (sfnElem p k .sqrt a)
              ∧ Rounded p k.mode k.ftz false (1 / v) (sfnElem p k .rsqrt a)))

/-- R404, R405, R407: the permutations, broadcasts, index vectors and moves.
R405: the six forms of VMOVS. What a kept lane looks like under the tags I6 and predicate-image is the model's choice
(log entry 79). -/
def Obligations.VectorPermutesAndMoves : Prop :=
  (∀ (s : State) (c : Ctx) (h : Hdr) (m : VMod) (d a b : VReg) (r1 r2 : SReg) (fl : Bool),
     let x := c.rV a
     let y := c.rV b
     let w := fmtWidth m.fmt
     let n := 4096 / w
     let lanes (f : Nat → Nat) : VData := (laneMap w (laneOf c m) m.pz (c.rV d).data fun i => (f i, Exc.none)).1
     let gives (i : Instr) (srcs : List VecReg) (v : VData) : Prop :=
       GivesVector s c i h (tagged m.fmt srcs) srcs [d] [v] Exc.none m.fmt
     let o := if fl then 1 else 0
     let ix := c.rGroup b (permRegs w)
     let val (r : SReg) : Int := if isSigned m.fmt then (c.rS .C r).toInt else (c.rS .C r).toNat
     gives (.vpack h fl m d a b) [x, y]
         (lanes fun i => if i < n / 2 then elem w x.data (2 * i + o) else elem w y.data (2 * (i - n / 2) + o))
       ∧ gives (.vunpk h fl m d a b) [x, y]
           (lanes fun i => elem w (if i % 2 = 0 then x.data else y.data) ((if fl then n / 2 else 0) + i / 2))
       ∧ GivesVector s c (.vperm h m d a b) h (tagged m.fmt [x] && tagged (permTag w) ix) (x :: ix) [d]
           [lanes fun i => elem w x.data (groupElem (permIdxWidth w) (ix.map fun z => z.data) i % n)] Exc.none m.fmt
       ∧ gives (.vbcast h m (.scalar d r1)) [] (lanes fun _ => scalarElem m.fmt (c.rS .C r1))
       ∧ gives (.vbcast h m (.vector d a r1)) [x] (lanes fun _ => elem w x.data ((c.rS .C r1).toNat % n))
       ∧ gives (.vidx h m d r1 r2) [] (lanes fun i => intResult m.fmt m.sat (val r1 + i * val r2))
       ∧ gives (.vcprs h m d a) [x]
           (ofElems w (((List.range n).filter (laneOn (laneOf c m) w)).map (elem w x.data)))
       ∧ gives (.vxpnd h m d a) [x]
           (lanes fun i => elem w x.data ((List.range i).filter (laneOn (laneOf c m) w)).length))
    ∧ (∀ (s : State) (c : Ctx) (h : Hdr) (f : Fmt) (pz : Bool) (lane : Option QReg) (d a : VReg) (r i : SReg) (q : QReg),
         let x := c.rV a
         let w := fmtWidth f
         let k := (c.rS .C i).toNat % (4096 / w)
         let moved := (laneMap w (lane.map c.rQ) pz (c.rV d).data fun n => (elem w x.data n, Exc.none)).1
         let v := intVal f (elem w x.data k)
         GivesVector s c (.vmovs h (.move f pz lane d a)) h (f == .raw || tagged f [x]) [x] [d] [moved] Exc.none f
           ∧ GivesVector s c (.vmovs h (.as f pz lane d a)) h true [x] [d] [if f = .pimg then lowPred moved else moved]
               Exc.none f
           ∧ GivesVector s c (.vmovs h (.ins f d r i)) h (tagged f [c.rV d]) [c.rV d] [d]
               [insertElem w (c.rV d).data k (scalarElem f (c.rS .C r))] Exc.none f
           ∧ GivesVector s c (.vmovs h (.fromq d q)) h true [] [d] [(c.rQ q).setWidth 4096] Exc.none .pimg
           ∧ GivesOther s c (.vmovs h (.ext f r a i)) h (tagged f [x]) [x] (fun e =>
               e.preg = c.preg ∧ ScalarWritten .C r
                 (if isSigned f then BitVec.ofInt 64 v else BitVec.ofNat 64 (elem w x.data k)) c e)
           ∧ GivesOther s c (.vmovs h (.toq q a)) h (tagged .pimg [x]) [x] (fun e =>
               ScalarKept .C c e ∧ PredicateWritten c e q (x.data.extractLsb' 0 1024)))

/-- R101 to R110, R398, R399: TSUB of a record that passes every check and needs no image, with room in the queue of
its target's polder, enters the launch with the next sequence number and writes the handle.
R103, R399: the first failed check of a record stops its TSUB before any effect: a misaligned record, check 1, or check
2 with trap 0x0E and the check's number, check 3 with trap 0x11. That a misaligned record traps before it is read is
the model's choice (log entry 43, DEDUCED). -/
def Obligations.SubmissionAndChecks : Prop :=
  (∀ (s s1 : State) (c : Ctx) (h : Hdr) (d a e : SReg) (bs : List Byte),
     let q := s.cur.seq
     let addr := c.rS q a
     let compl := c.rS q e
     let x := parseRecord bs
     let y := submitterOf s c
     let l := newLaunch s1 y x (fpcrEnables c.fpcr) compl
     let n := (getPolder s l.polder).nextSeq
     Issues s c (.tsub h d a e) h [.X] → c.neutral = none → compl.toNat % 8 = 0 → addr.toNat % 256 = 0 →
     releaseReady s c q .sys = true → readMem s c q addr.toNat 256 1 = .ok (s1, bs) → s.polders.length = 16 →
     recordHead s1 y addr bs = none → x.coal = false → recordTail s1 x [] = none →
     queueFull s l.polder = false → arrivalsWait s l.polder = false →
     ∃ t k, exec (.tsub h d a e) s = .next t ∧ getCtx t (ctxOf s.cur) = some k
       ∧ ScalarWritten q d ((BitVec.setWidth 64 l.polder <<< 48) ||| BitVec.setWidth 64 n) c k ∧ GuardsKept q c k
       ∧ VectorsKept c k ∧ Advanced q c k
       ∧ (getPolder t l.polder).queue = (getPolder s l.polder).queue ++ [{ l with seq := n }]
       ∧ (getPolder t l.polder).nextSeq = n + 1
       ∧ (∀ p, p ≠ l.polder → getPolder t p = getPolder s p)
       ∧ (∀ id, id ≠ ctxOf s.cur → getCtx t id = getCtx s id))
    ∧ (∀ (s s1 : State) (c : Ctx) (h : Hdr) (d a e : SReg) (bs : List Byte),
         let q := s.cur.seq
         let addr := c.rS q a
         let x := parseRecord bs
         let y := submitterOf s c
         let stops (u : State) (cause detail : Nat) : Prop := exec (.tsub h d a e) s = trapsIn u h cause detail 0
         Issues s c (.tsub h d a e) h [.X] → c.neutral = none → (c.rS q e).toNat % 8 = 0 → releaseReady s c q .sys = true →
         (addr.toNat % 256 ≠ 0 → stops s 0x0E 1)
           ∧ (addr.toNat % 256 = 0 → readMem s c q addr.toNat 256 1 = .ok (s1, bs) →
             (recordWellFormed bs = false → stops s1 0x0E 1)
               ∧ (recordWellFormed bs = true → recordCheck2 s1 y x = false → stops s1 0x0E 2)
               ∧ (recordWellFormed bs = true → recordCheck2 s1 y x = true → recordCheck3 s1 y x = false → stops s1 0x11 0)))

/-- R124, R388: TCAN writes status 3 for a handle of another polder or of no launch, or an index outside it; status 2
where the task is over; status 0 and one task cancelled where it is QUEUED, which its launch then reports abnormal; status
1 where it runs, whose context is told. The releases of a test cycle come before it (R165). -/
def Obligations.Cancellation : Prop :=
  ∀ (s : State) (c : Ctx) (h : Hdr) (d hd i : SReg) (l : Launch),
    let q := s.cur.seq
    let handle := c.rS q hd
    let k := (c.rS q i).toNat
    let p := effPolder s c
    let u := dueReleases s
    let tr : TaskRef := { polder := p, seq := l.seq, index := k }
    let bad := handle.extractLsb' 52 12 ≠ 0 ∨ handle.extractLsb' 48 4 ≠ p
      ∨ findLaunch u p (handle.extractLsb' 0 48) = none
    let answers (all : Bool) (v : Word) (P : State → Prop) : Prop :=
      Issues s c (.tcan h all d hd i) h [.X] → ∃ t x, exec (.tcan h all d hd i) s = .next t
        ∧ getCtx t (ctxOf s.cur) = some x ∧ ScalarWritten q d v c x ∧ GuardsKept q c x ∧ VectorsKept c x
        ∧ Advanced q c x ∧ P t
    c.neutral = none →
    (s.cycle % 64 ≠ 0 → u = s)
      ∧ (bad → answers false 3 (FrameOutside u) ∧ answers true 3 (FrameOutside u))
      ∧ (¬ bad → findLaunch u p (handle.extractLsb' 0 48) = some l → u.polders.length = 16 →
        (l.rcd.count ≤ k → answers false 3 (FrameOutside u))
          ∧ (k < l.rcd.count → (taskState l k = .done ∨ taskState l k = .cancelled ∨ taskState l k = .rejected
                ∨ taskState l k = .retired) → answers false 2 fun t => getPolder t p = getPolder u p)
          ∧ (k < l.rcd.count → taskState l k = .queued → k < l.tasks.length →
              answers false (BitVec.ofNat 64 (2 ^ 32)) fun t => ∃ l', findLaunch t p l.seq = some l'
                ∧ taskState l' k = .cancelled ∧ l'.abnormal = true ∧ ∀ j, j ≠ k → taskState l' j = taskState l j)
          ∧ (k < l.rcd.count → taskState l k = .running → answers false 1 fun t =>
              ∀ y ∈ t.ctxs, y.task = some tr → y.cancel = true))

/-- R84, R86, R348: DQPUSH and DQPOP of the deque's owner, or of a context that becomes its owner: a push on fewer than
64 entries and a pop of the youngest answer status 0, a full or an empty deque status 1, another's deque status 2, a deque
that the context lost status 3.
R85, R196, R349: DQSTL takes the oldest entry of its victim's deque, a core of the die whose owner is of its own
polder: the one it names, or of the other cores of its cluster, and where those hold nothing of the rest of its die, the one
whose deque holds most, the lower number among equals; without one it answers status 1. DQSTL and DQPOP that take an entry
drop what an acquire at die scope drops of the L1. -/
def Obligations.DequesAndStealing : Prop :=
  (∀ (s : State) (c : Ctx) (h : Hdr) (d a : SReg),
     let q := s.cur.seq
     let k := getCore s c.id.core
     let v := c.rS q a
     let push (st : Word) (P : State → Prop) : Prop :=
       Issues s c (.dqpush h d a) h [.X] → releaseReady s c q .die = true → ∃ t x, exec (.dqpush h d a) s = .next t
         ∧ getCtx t (ctxOf s.cur) = some x ∧ ScalarWritten q d st c x ∧ GuardsKept q c x ∧ VectorsKept c x
         ∧ Advanced q c x ∧ P t
     let pop (w : Option Word) (st : Word) (P : State → Prop) : Prop :=
       Issues s c (.dqpop h d a) h [.X] → ∃ t x, exec (.dqpop h d a) s = .next t ∧ getCtx t (ctxOf s.cur) = some x
         ∧ (∀ r, x.rS q r = if r = 0 then 0 else if r = a ∧ w.isSome then w.getD 0 else if r = d then st else c.rS q r)
         ∧ GuardsKept q c x ∧ VectorsKept c x ∧ Advanced q c x ∧ P t
     let owned (l : List Word) (t : State) : Prop :=
       (getCore t c.id.core).deque = l ∧ (getCore t c.id.core).owner = some c.id.slot
         ∧ ∀ n, n ≠ c.id.core → { getCore t n with ports := [] } = { getCore s n with ports := [] }
     (c.dqLost = true → push 3 (fun _ => True) ∧ pop none 3 (fun _ => True))
       ∧ (c.dqLost = false → (∃ n, k.owner = some n ∧ n ≠ c.id.slot) → push 2 (FrameOutside s) ∧ pop none 2 (FrameOutside s))
       ∧ (c.dqLost = false → (k.owner = none ∨ k.owner = some c.id.slot) → c.id.core < s.cores.length →
         (k.deque.length < 64 → push 0 (owned (k.deque ++ [v])))
           ∧ (64 ≤ k.deque.length → push 1 (owned k.deque))
           ∧ (k.deque = [] → pop none 1 (owned []))
           ∧ (∀ l w, k.deque = l ++ [w] → pop (some w) 0 fun t => owned l t
               ∧ (getCore t c.id.core).l1 = (getCore (acquireL1 s c true .die) c.id.core).l1)))
    ∧ (∀ (s : State) (c : Ctx) (h : Hdr) (d e r : SReg) (w : Word) (l : List Word),
         let q := s.cur.seq
         let core := c.id.core
         let entries (k : Nat) : Nat := (victim s c.polder k).length
         let takes (i : Instr) (k : Nat) : Prop :=
           Issues s c i h [.X] → c.neutral = none → victim s c.polder k = w :: l → k < s.cores.length →
             ∃ t x, exec i s = .next t ∧ getCtx t (ctxOf s.cur) = some x ∧ (getCore t k).deque = l
               ∧ (∀ y, x.rS q y = if y = 0 then 0 else if y = e then w else if y = d then 0 else c.rS q y)
               ∧ GuardsKept q c x ∧ VectorsKept c x ∧ Advanced q c x
               ∧ (getCore t core).l1 = (getCore (acquireL1 s c true .die) core).l1
         let answers1 (i : Instr) : Prop := Issues s c i h [.X] → ∃ t, exec i s = .next t ∧ WritesScalar s t c h d 1
         let named := (c.rS q r).toNat
         let near (k : Nat) : Prop := clusterOf k = clusterOf core ∧ k ≠ core
         let far (k : Nat) : Prop := dieOf k = dieOf core ∧ clusterOf k ≠ clusterOf core
         let most (P : Nat → Prop) (k : Nat) : Prop := P k ∧ ∀ j, P j → entries j < entries k ∨ (entries j = entries k ∧ k ≤ j)
         (named < 160 → dieOf named = dieOf core → takes (.dqstl h d e (some r)) named)
           ∧ ((c.neutral.isSome = true ∨ 160 ≤ named ∨ dieOf named ≠ dieOf core ∨ victim s c.polder named = []) →
             answers1 (.dqstl h d e (some r)))
           ∧ (∀ k, most near k → takes (.dqstl h d e none) k)
           ∧ (∀ k, (∀ j, near j → victim s c.polder j = []) → most far k → takes (.dqstl h d e none) k)
           ∧ (c.neutral.isSome = true ∨ (∀ j, near j ∨ far j → victim s c.polder j = []) →
             answers1 (.dqstl h d e none)))

/-- R128, R129, R400: WATCH of a steward or reeve installs the watchpoint of a good descriptor and writes its identifier
in bits 63:32, and writes the status otherwise; UNWATCH removes the polder's own watchpoint of that identifier, or
answers 1. -/
def Obligations.Watchpoints : Prop :=
  ∀ (s s1 : State) (c : Ctx) (h : Hdr) (d a : SReg) (b : List Byte),
    let q := s.cur.seq
    let addr := (c.rS q a).toNat
    let writes (i : Instr) (v : Word) (P : State → Prop) : Prop :=
      ∃ t x, exec i s = .next t ∧ getCtx t (ctxOf s.cur) = some x ∧ ScalarWritten q d v c x ∧ GuardsKept q c x
        ∧ VectorsKept c x ∧ FrameContext q h c x ∧ Advanced q c x ∧ P t
    c.effPriv ≠ .task → c.neutral = none →
    (Issues s c (.watch h d a) h [.X] →
        (addr % 64 ≠ 0 → writes (.watch h d a) 4 (FrameOutside s))
          ∧ (addr % 64 = 0 → readMem s c q addr 64 64 = .ok (s1, b) →
            (∀ e, makeWatch s1 c b = .error e → writes (.watch h d a) (BitVec.ofNat 64 e) (FrameOutside s1))
              ∧ (∀ w, makeWatch s1 c b = .ok w →
                  writes (.watch h d a) (BitVec.ofNat 64 (wpIdOf w * 2 ^ 32)) fun t => t.watches = s1.watches ++ [w])))
      ∧ (Issues s c (.unwatch h d a) h [.X] →
        ((∀ w ∈ s.watches, wpIdOf w = addr → w.polder ≠ effPolder s c) → writes (.unwatch h d a) 1 (FrameOutside s))
          ∧ (∀ w, (s.watches.find? fun w => wpIdOf w == addr && w.polder == effPolder s c) = some w →
              writes (.unwatch h d a) 0 fun t => t.watches = s.watches.filter (· != w) ∧ t.mem = s.mem))

/-- R180, R372, R373: RESQ reads an entry of a core's residency table of its own die, or of the die's summary: 0 where
there is none or where it is another polder's, and 0 for a core elsewhere.
R309, R371: RDCNT reads the context's own counters, 0 for a number that names none, and a shared counter as 0 in the
first 180,000 cycles below reeve privilege; RDTIME reads the cycle. A shared counter read later is a free value (log entry
9), whose low ten bits are 0 below reeve privilege. -/
def Obligations.QueriesAndCounters : Prop :=
  (∀ (s : State) (c : Ctx) (h : Hdr) (d a b : SReg),
     let q := s.cur.seq
     let core := (c.rS q a).toNat
     let k := (c.rS q b).toNat
     let own := if c.neutral.isSome then none else some c.polder
     (core < 160 → dieOf core = dieOf c.id.core → k < 512 →
         GivesScalar s c (.resq h false d a b) h [.X] d (tableEntry (getCore s core).resid own k))
       ∧ ((160 ≤ core ∨ dieOf core ≠ dieOf c.id.core ∨ 512 ≤ k) → GivesScalar s c (.resq h false d a b) h [.X] d 0)
       ∧ GivesScalar s c (.resq h true d a b) h [.X] d (tableEntry (getDie s (dieOf c.id.core)).summary own k))
    ∧ (∀ (s : State) (c : Ctx) (h : Hdr) (d : SReg) (n : BitVec 32),
         let k := n.toNat
         let shared : Prop := (16 ≤ k ∧ k ≤ 19) ∨ (32 ≤ k ∧ k ≤ 37)
         GivesScalar s c (.rdtime h d) h allSeqs d (BitVec.ofNat 64 s.cycle)
           ∧ (¬ shared → GivesScalar s c (.rdcnt h d n) h allSeqs d
               (BitVec.ofNat 64 (if k = 0 then c.resident else if k = 1 then c.x.retired else if k = 2 then c.l.retired
                 else if k = 3 then c.c.retired else if k = 4 then c.s.retired else if k = 5 then c.matDone
                 else if k = 6 then c.moved else 0)))
           ∧ (shared → c.effPriv ≠ .reeve → s.cycle < 180000 → GivesScalar s c (.rdcnt h d n) h allSeqs d 0)
           ∧ (shared → (c.effPriv = .reeve ∨ 180000 ≤ s.cycle) → Issues s c (.rdcnt h d n) h allSeqs →
               ∃ t x v, exec (.rdcnt h d n) s = .next t ∧ FrameOutside { s with freeCtr := s.freeCtr + 1 } t
                 ∧ getCtx t (ctxOf s.cur) = some x ∧ ScalarWritten s.cur.seq d v c x ∧ GuardsKept s.cur.seq c x
                 ∧ VectorsKept c x ∧ Advanced s.cur.seq c x ∧ (c.effPriv ≠ .reeve → v &&& 1023#64 = 0)))

/-- R134, R368: NOTIFY of an entry above 63 answers 1, on a function that is not enabled 2; else 0, and the entry's message
goes out, or the entry is pending where it or the function is masked. A function in TDI ERROR is trap 0x0B (R294). -/
def Obligations.Notify : Prop :=
  ∀ (s : State) (c : Ctx) (h : Hdr) (d a : SReg),
    let q := s.cur.seq
    let p := getPolder s (effPolder s c)
    let f := p.vf.toNat
    let n := (c.rS q a).toNat
    let u := releaseEffect s .sys
    let answers (v : Word) (P : State → Prop) : Prop :=
      ∃ t x, exec (.notify h d a) s = .next t ∧ getCtx t (ctxOf s.cur) = some x ∧ ScalarWritten q d v c x
        ∧ GuardsKept q c x ∧ VectorsKept c x ∧ FrameContext q h c x ∧ Advanced q c x ∧ P t
    Issues s c (.notify h d a) h [.X] → c.neutral = none → releaseReady s c q .sys = true →
    (p.tdi = 3 → exec (.notify h d a) s = trapsIn s h 0x0B 0 0)
      ∧ (p.tdi ≠ 3 → 64 ≤ n → answers 1 (FrameOutside u))
      ∧ (p.tdi ≠ 3 → n < 64 → (getFn s f).enable = false → answers 2 (FrameOutside u))
      ∧ (p.tdi ≠ 3 → n < 64 → (getFn s f).enable = true → (getFn s f).fmask = false → (msixEntry (getFn s f) n).mask = false →
          answers 0 fun t => t.outbox = s.outbox ++ [.msi f (msixEntry (getFn s f) n).addr (msixEntry (getFn s f) n).data]
            ∧ t.fns = s.fns)
      ∧ (p.tdi ≠ 3 → n < 64 → f < s.fns.length → (getFn s f).enable = true →
          ((getFn s f).fmask = true ∨ (msixEntry (getFn s f) n).mask = true) →
          answers 0 fun t => t.outbox = s.outbox ∧ (msixEntry (getFn t f) n).pend = true)

/-- R379 to R383: SYSRD at the privilege that a register asks for, behind every earlier instruction of its sequencer,
reads it; SYSWR writes it as a release, which waits only where the write starts an invalidation or a copy that cannot be
accepted yet. The registers of a context, of a polder and of the device are named here. -/
def Obligations.SystemRegisters : Prop :=
  ∀ (s : State) (c : Ctx) (h : Hdr) (d a : SReg) (r : SysReg),
    let q := s.cur.seq
    let v := c.rS q a
    let sc := if sysCtx r then Scope.ctx else Scope.dev
    sysAllowed s c r = true → sysTested s c r = true →
    (Issues s c (.sysrd h d r) h allSeqs → (∀ o ∈ (c.seq q).ops, o.done = true) →
        ∃ t x, exec (.sysrd h d r) s = .next t ∧ FrameOutside (acquireL1 (readSys s c r).1 c (!sysCtx r) .dev) t
          ∧ getCtx t (ctxOf s.cur) = some x
          ∧ ScalarWritten q d (readSys s c r).2 c x ∧ GuardsKept q c x ∧ VectorsKept c x ∧ Advanced q c x)
      ∧ (Issues s c (.syswr h r a) h allSeqs → releaseReady s c q sc = true → sysWaits s c r v = false →
        exec (.syswr h r a) s =
          .next (finish (writeSys (releaseEffect s sc) c r v) (ctxOf s.cur) q h .plain Exc.none none none))
      ∧ (readSys s c .fpcr = (s, c.fpcr) ∧ readSys s c .trec = (s, c.trec) ∧ readSys s c .taddr = (s, c.taddr)
          ∧ readSys s c .workid = (s, c.workid) ∧ readSys s c .rtvec = (s, s.rtvec)
          ∧ readSys s c .padrows = (s, c.padrows.setWidth 64) ∧ readSys s c .padcols = (s, c.padcols.setWidth 64)
          ∧ readSys s c .ctxas = (s, c.asid.setWidth 64) ∧ readSys s c .lhandle = (s, c.handle.setWidth 64)
          ∧ (polderAbsent s (regPolder s c) = true → readSys s c .tvec = (s, 0) ∧ readSys s c .pgcfg = (s, 0)))
      ∧ (getCtx s c.id = some c →
          getCtx (writeSys s c .padrows v) c.id = some { c with padrows := v.setWidth 16 }
            ∧ getCtx (writeSys s c .padcols v) c.id = some { c with padcols := v.setWidth 16 }
            ∧ getCtx (writeSys s c .prsel v) c.id = some { c with prsel := v.setWidth 14 }
            ∧ (∃ x, getCtx (writeSys s c .trec v) c.id = some x ∧
                x.trec = (if v.extractLsb' 56 2 = 3 then c.trec
                  else (c.trec &&& ~~~ (3#64 <<< 56)) ||| (v &&& (3#64 <<< 56)))))
      ∧ ((writeSys s c .rtvec v).rtvec = v &&& 0xFFFFFFFFFFFF01FF#64
          ∧ (∀ x ∈ [SysReg.workid, .wfields, .place, .lhandle, .cancel, .ctxas, .taddr, .fltaddr, .qstat, .pgstat],
              writeSys s c x v = s)
          ∧ (polderAbsent s (regPolder s c) = true → writeSys s c .tvec v = s ∧ writeSys s c .pgcfg v = s)
          ∧ (polderAbsent s (regPolder s c) = false → (regPolder s c).toNat < s.polders.length →
              (getPolder (writeSys s c .tvec v) (regPolder s c)).tvec = v.extractLsb' 16 48))

/-- R249, R390: TLBINV of an identifier of its own polder, or of any at reeve privilege, completes as a release at dev
scope once no translated access is outstanding: the cached translations of the range are gone, every other one stays, and no
page table and no byte changes. An identifier or polder that it may not name is trap 0x0B. -/
def Obligations.TranslationInvalidate : Prop :=
  ∀ (s : State) (c : Ctx) (h : Hdr) (s2 all : Bool) (a b e : SReg),
    let q := s.cur.seq
    let v := c.rS q a
    let lo := if all then 0 else (c.rS q b).toNat
    let hi := if all then 2 ^ 64 else min ((c.rS q b).toNat + (c.rS q e).toNat) (2 ^ 64)
    (Issues s c (.tlbinv h s2 all a b e) h [.X] → ((if s2 then 2 else 1) ≤ privNat c.effPriv) →
        (tlbOk s c s2 v = true → releaseReady s c q .dev = true → translatedWait s = false →
            exec (.tlbinv h s2 all a b e) s =
              .next (finish (tlbEffect (releaseEffect s .dev) s2 v lo hi) (ctxOf s.cur) q h .plain Exc.none none none))
          ∧ (tlbOk s c s2 v = false → exec (.tlbinv h s2 all a b e) s = trapsIn s h 0x0B 0 0))
      ∧ (s.polders.all (fun p => p.queue.all fun l => !l.tokenHeld) = true → s.lateTokens = [] → s.watches = [] → lo < hi →
          let t := tlbEffect s s2 v lo hi
          let named (x : TlbEntry) : Bool :=
            if s2 then x.polder == v.setWidth 4 && meets lo hi x.gpa x.size
            else x.asid == v.setWidth 9 && meetsVirt lo hi x.va x.size
          t.mem = s.mem ∧ t.pool = s.pool ∧ t.ctxs = s.ctxs ∧ t.polders = s.polders
            ∧ (∀ n, (getCore t n).tlb = (getCore s n).tlb.filter (fun x => !named x)
                ∧ (getDie t n).tlb2 = (getDie s n).tlb2.filter fun x => !named x)
            ∧ (s2 = true → ∀ n, ∀ y ∈ (getDie t n).walks, y.polder = v.setWidth 4 →
                y.stage2 = true ∧ (y.first + levelSize y.level ≤ lo ∨ hi ≤ y.first)))

/-- R43, R44, R71, R72, R83, R333: the first post that is due releases at its scope and counts up its queue, and the
trap of its instruction, if it has one, comes behind it; a completion merges the flags that its instruction raised and
takes it out of the order; at a barrier that every sequencer has reached the sequencer goes on; a watchdog that has run
out traps X with cause 0x14, and the context keeps what every sequencer waited for. That the watchdog keeps those
states beside a record with DETAIL 0, and restarts then, is the model's choice (log entry 48, DESIGN CHOICE). -/
def Obligations.SequencerEvents : Prop :=
  ∀ (s : State) (c : Ctx) (q : SeqId), getCtx s (ctxOf q) = some c →
    (∀ k o, postReady s c q.seq = some k → (c.seq q.seq).ops[k]? = some o → o.post.toNat ≤ 12 → o.ends = false →
        let n := o.post.toNat
        let ops := trimOps ((c.seq q.seq).ops.set k { o with post := 0, done := true, trap := none })
        (o.trap = none → ∃ t d, exec (.tokenPost q) s = .next t
            ∧ OnlyContext (releaseEffect s o.scope) t (ctxOf q) ∧ getCtx t (ctxOf q) = some d ∧ d.tok n = c.tok n + 1
            ∧ (∀ j, 1 ≤ j → j ≤ 12 → j ≠ n → d.tok j = c.tok j) ∧ (d.seq q.seq).ops = ops
            ∧ (∀ p, p ≠ q.seq → d.seq p = c.seq p) ∧ ScalarKept q.seq c d ∧ GuardsKept q.seq c d ∧ VectorsKept c d
            ∧ ctxRest d = ctxRest c)
          ∧ (∀ x, o.trap = some x → ∃ u d, exec (.tokenPost q) s =
                .next (raiseTrap u (ctxOf q) { x with depth := o.depth, age := o.age })
              ∧ getCtx u (ctxOf q) = some d ∧ d.tok n = c.tok n + 1 ∧ (d.seq q.seq).ops = ops))
      ∧ (∀ k o, (c.seq q.seq).ops[k]? = some o → o.kind = .plain → o.done = false → o.trap = none → o.ends = false →
        ∃ t d, exec (.instructionComplete q k) s = .next t ∧ OnlyContext s t (ctxOf q) ∧ getCtx t (ctxOf q) = some d
          ∧ d.fpcr = fpcrComplete c.fpcr o.exc.bits o.exc.causes
          ∧ (d.seq q.seq).ops = trimOps ((c.seq q.seq).ops.set k { o with done := true })
          ∧ (∀ p, p ≠ q.seq → d.seq p = c.seq p) ∧ ScalarKept q.seq c d ∧ GuardsKept q.seq c d ∧ VectorsKept c d
          ∧ d.tokens = c.tokens ∧ ctxRest { d with fpcr := c.fpcr } = ctxRest c)
      ∧ (∀ k o n sc, (c.seq q.seq).ops[k]? = some o → o.kind = .bar n sc → o.done = false → o.trap = none → o.ends = false →
        barReady c n = true → (c.seq q.seq).run = .bar n →
        ∃ t d, exec (.instructionComplete q k) s = .next t ∧ getCtx t (ctxOf q) = some d ∧ (d.seq q.seq).run = .running)
      ∧ (Config.watchdogCycles ≤ c.watchdog → c.cut = false → c.halting = false → c.life ≠ .retired →
        exec (.watchdogTrap (ctxOf q)) s =
          .next (takeTrap (modCtx s (ctxOf q) fun c =>
            { c with watchdog := 0, stalls := [c.stall .X, c.stall .L, c.stall .C, c.stall .S] }) c
            { mkTrap .X 0x14 0 0 with age := c.issued }))

/-- R72, R140, R212, R391, R419: a transfer that nothing holds runs; one row of a TLD within a granule puts the bytes of
memory into its places of the scratchpad and leaves the engine. A fill puts its tile into the staging slot. -/
def Obligations.TransferCompletions : Prop :=
  ∀ (s : State) (c : Ctx) (q : SeqId) (x : Transfer), getCtx s (ctxOf q) = some c →
    (getXfer c x.id = some x → (∀ w, x.kind ≠ .wld w) → x.seq = q.seq → xferReady s (ctxOf q) x = true →
        exec (.transferComplete q x.id) s = .next (runXfer s (ctxOf q) x))
      ∧ (∀ base pitch bytes d ch p seg, getXfer c x.id = some x → x.kind = .block true base pitch 1 bytes 0 d ch →
        xferReady s (ctxOf q) x = true → x.progress = 0 → blockPieces base pitch 1 bytes 0 = [p] →
        checkPages (letClosing s x) x.agent .xferRead p.va p.len = .ok [seg] → seg.fabric = false →
        poisoned s seg.pa seg.len = false →
        ∃ e, getCtx (runXfer s (ctxOf q) x) (ctxOf q) = some e ∧ getXfer e x.id = none
          ∧ e.scratch = spStoreAll c.scratch (xferOffs ch d p.row p.x p.len) (physRead s seg.key seg.pa seg.len)
          ∧ VectorsKept c e ∧ e.tokens = c.tokens ∧ e.fpcr = c.fpcr
          ∧ (∀ r, e.rS q.seq r = c.rS q.seq r) ∧ (∀ j, j ≠ ctxOf q → getCtx (runXfer s (ctxOf q) x) j = getCtx s j))
      ∧ (∀ ws w bs grans segs, wldXfer c ws = some (x, w) → xferReady s (ctxOf q) x = true → slotRead c ws = false →
        c.slots.length = 2 → wldRead (letClosing s x) c x.agent x.fab w = .ok (bs, grans, segs) → (∀ y ∈ segs, y.fabric = false) →
        metaOk bs w.wf w.form = true →
        ∃ t e, exec (.wldFillComplete (ctxOf q) ws) s = .next t ∧ getCtx t (ctxOf q) = some e ∧ getXfer e x.id = none
          ∧ ((e.slots[if w.ws then 1 else 0]?).bind fun y => y.data) = some { wf := w.wf, form := w.form, tile := bs }
          ∧ VectorsKept c e ∧ e.scratch = c.scratch ∧ e.tokens = c.tokens)

/-- R146, R147, R214, R361: the matrix instruction at the head of a context's queue completes: MZERO leaves its tile at 0
and its record open; the others change the scratchpad by the rows that they update.
R148, R149, R360, R363: where the elements of the tile lie apart, and apart from the operands, each element that is neither
masked, vacant nor parked becomes its matrix element (for whole numbers the sum of Obligations.LanesAndIntegerElements), and
every other one stays as it was. A rotation moves each member's source
to the next position's destination. -/
def Obligations.MatrixAndRing : Prop :=
  ∀ (s : State) (c : Ctx) (id : CtxId), getCtx s id = some c →
    (∀ m l, c.matrix = m :: l → c.replay = none → c.neutral = none → matBad s c m (slotData c m) = [] →
        ∃ t d, exec (.matrixComplete id) s = .next t ∧ OnlyContext s t id ∧ getCtx t id = some d ∧ d.matrix = l
          ∧ d.matDone = c.matDone + 1 ∧ VectorsKept c d ∧ d.tokens = c.tokens ∧ (∀ q r, d.rS q r = c.rS q r)
          ∧ (∀ w32 p, m.kind = .mzero w32 p → m.trec.toNat < c.tiles.length →
              (d.tile m.trec).opened = true ∧ (d.tile m.trec).wide = !w32 ∧ (d.tile m.trec).pass = BitVec.ofNat 3 p
                ∧ d.fpcr = (setFlags Exc.none c).fpcr
                ∧ ∀ r n, r < 32 → n < (if w32 then 32 else 96) → accElem d m.acc r n = 0)
          ∧ ((∀ w32 p, m.kind ≠ .mzero w32 p) →
              d.scratch = (matRows s c m (slotData c m)).1.scratch)
          ∧ (let width := match m.kind with | .mmag _ false _ rank _ => max 32 rank | _ => 96
             let own (x : Nat × Nat) : List Nat := spOffs m.acc x.1 (4 * x.2) 4
             let apart (e : SpDesc) (n rows len : Nat) (f : Nat → Nat) : Prop :=
               ∀ x, x.1 < 32 → x.2 < width → ∀ r k, r < rows → k < len → ∀ o ∈ spOffs e r (f k) n, o ∉ own x
             (∀ x y : Nat × Nat, x.1 < 32 → x.2 < width → y.1 < 32 → y.2 < width → x ≠ y → ∀ o ∈ own x, o ∉ own y) →
             ∀ r n, r < 32 → n < width →
               let idle := rowIdle (c.tile m.trec) m r
               let e := accElem d m.acc r n
               let old := accElem c m.acc r n
               (∀ ws af wf form chunks g, m.kind = .mma ws af wf form chunks → slotData c m = some g →
                   (∀ a, m.a = .scratch a → apart a (actBytes af) 32 (formK g.form) (aOffset a (actBytes af))) →
                   e = if idle || colMasked m n then old else (mmaElem c m g af chunks r n).1)
                 ∧ (∀ adp up af rank j, m.kind = .mmag adp up af rank j →
                   let slot := adapterSlot s c j ((c.tile m.trec).pens.getD r 0)
                   let taken := if up then !colMasked m n else decide (n < rank)
                   let k := if up then rank else 96
                   (∀ a, m.a = .scratch a → apart a (actBytes af) 32 k (aOffset a (actBytes af))) →
                   apart adp 2 k 96 (fun i => slot * adp.tpitch + 2 * i) →
                   e = if idle || slot == 0 || !taken then old else (mmagElem c m adp up af rank slot r n).1)))
      ∧ (∀ g a b ga ra rb, c.gang = some g → rrotReady s g = true → (s.ctxs.map fun y => y.id).Nodup →
        (∀ y ∈ gangMembers s g, ∀ z ∈ gangMembers s g,
          (y.gang.map fun h => h.pos) = (z.gang.map fun h => h.pos) → y = z) →
        (∀ y ∈ gangMembers s g, ∀ r, y.rrot = some r → y.spBad ((List.range r.2.2).map (r.1 + ·)) = false) →
        a ∈ gangMembers s g → b ∈ gangMembers s g → a.gang = some ga → ga.pos < 8 →
        (b.gang.map fun h => h.pos) = some ((ga.pos + 1) % 8) → a.rrot = some ra → b.rrot = some rb →
        ∃ t d, exec (.rrotComplete id) s = .next t ∧ getCtx t b.id = some d ∧ d.rrotWait = false
          ∧ d.scratch = spStoreAll b.scratch ((List.range (min ra.2.2 rb.2.2)).map (rb.2.1 + ·))
              ((cellsRead a.scratch ra.1 ra.2.2).take (min ra.2.2 rb.2.2)))

/-- R66, R109, R110, R114, R115, R117 to R119, R121, R122, R132: a launch whose dependences are met is eligible, with a
buffer for every granule that needs renaming; one whose tasks are over commits, and frees its entry with its token; a
held submission or fire enters its queue with the next sequence number; a write of SYS.RNPOOL takes effect while no
buffer is in use. That a launch holds its token whatever the reason why it cannot be added is the model's choice (log
entry 42, DEDUCED: R122 gives it for a translation or a permission). -/
def Obligations.LaunchEvents : Prop :=
  ∀ (s : State) (p : BitVec 4) (seq : BitVec 48) (l : Launch), findLaunch s p seq = some l → l.polder = p →
    (l.blocked s = false → ∃ t m, exec (.dependencesMet p seq) s = .next t ∧ OnlyPolder s t p
        ∧ findLaunch t p seq = some m ∧ m.eligible = some s.cycle ∧ m.tasks = l.tasks
        ∧ m.renames.map (fun r => r.granule) = renameNeeds s l
        ∧ (∀ r ∈ m.renames, r.buf ∈ buffersFree s p ∧ r.written = 0 ∧ r.fill = .unfilled))
      ∧ (commitReady s l = true → l.renames = [] → (getPolder s p).rnNext = none →
        let u := modLaunch s p seq fun l =>
          { l with committed := true, renames := [], tasks := l.tasks.map fun x => if x = .retired then .done else x }
        (l.compl = 0 → ∃ t, exec (.launchCommit p seq) s = .next t ∧ OnlyPolder s t p ∧ findLaunch t p seq = none
            ∧ ∀ k, k ≠ seq → findLaunch t p k = findLaunch s p k)
          ∧ (∀ v, l.compl ≠ 0 → addToken u l.complAsid l.compl l.abnormal = some v →
              exec (.launchCommit p seq) s = .next (freeEntry v p seq))
          ∧ (l.compl ≠ 0 → addToken u l.complAsid l.compl l.abnormal = none →
              ∃ t m, exec (.launchCommit p seq) s = .next t ∧ OnlyPolder s t p ∧ findLaunch t p seq = some m
                ∧ m.committed = true ∧ m.tokenHeld = true))
      ∧ (∀ v, (getPolder s p).queue.flatMap (fun y => y.renames) = [] → p.toNat < s.polders.length →
        ∃ t, exec (.rnpool p v) s = .next t ∧ OnlyPolder s t p ∧ (getPolder t p).rnBase = v.extractLsb' 16 36
          ∧ (getPolder t p).rnSize = v.extractLsb' 0 16 ∧ (getPolder t p).rnNext = none
          ∧ (getPolder t p).queue = (getPolder s p).queue)
      ∧ (∀ id h hd c, s.heldSubs.find? (fun y => y.ctx == id) = some h → subReady s h = some hd → h.launch.polder = p →
        getCtx s id = some c → p.toNat < s.polders.length →
        ∃ t d, exec (.tsubQueueEntry id) s = .next t ∧ getCtx t id = some d
          ∧ (getPolder t p).queue = (getPolder s p).queue ++ [{ h.launch with seq := (getPolder s p).nextSeq }]
          ∧ (getPolder t p).nextSeq = (getPolder s p).nextSeq + 1
          ∧ ScalarWritten .X h.dest ((BitVec.setWidth 64 p <<< 48) ||| BitVec.setWidth 64 (getPolder s p).nextSeq) c d
          ∧ d.x.hold = none ∧ (∀ y ∈ t.heldSubs, y.ctx ≠ id) ∧ t.mem = s.mem)
      ∧ (∀ k f, s.heldFires[k]? = some f → heldFireReady s f = true → f.polder = p → f.launch.polder = p →
        p.toNat < s.polders.length → ∃ t, exec (.heldFireSubmit k) s = .next t
          ∧ (getPolder t p).queue = (getPolder s p).queue ++ [{ f.launch with seq := (getPolder s p).nextSeq }]
          ∧ f ∉ t.heldFires ∧ t.mem = s.mem ∧ t.ctxs = s.ctxs)

/-- R62, R65, R66, R69, R113, R114, R161: the task that goes first is routed to the die of its best place, of a gang to the
die of its best cluster, or REJECTED where its key binds no version; a routed task, or every task of a gang whose members
are all routed, starts in its place with the state of R69. -/
def Obligations.TasksPlaced : Prop :=
  ∀ (s : State) (p : BitVec 4) (seq : BitVec 48) (l : Launch) (cand : Cand), findLaunch s p seq = some l →
    l.polder = p → (l.started = true ∨ l.renames = []) →
    let fresh (t : State) (id : CtxId) (g : Option GangRef) (k : Nat) : Prop := ∃ c, getCtx t id = some c
      ∧ c.polder = p ∧ c.asid = l.asid ∧ c.priv = l.priv ∧ c.gang = g ∧ c.task = some { polder := p, seq := l.seq, index := k }
      ∧ c.workid = l.rcd.base + BitVec.ofNat 64 k ∧ c.wfields = presentFields l.rcd.fields ∧ c.windows = l.rcd.windows
      ∧ c.units = l.rcd.carve ∧ c.vreg = Vector.replicate 32 { data := 0, tag := .raw, pen := 0 }
      ∧ c.preg = Vector.replicate 8 0 ∧ c.tokens = Vector.replicate 12 0 ∧ c.fpcr = 0 ∧ c.scratch = []
      ∧ c.padrows = 0 ∧ c.padcols = 0 ∧ (∀ q r, c.rS q r = 0) ∧ (∀ q n, n ≠ 0 → c.rG q n = false)
      ∧ (c.headerBad = false → ∀ q, (c.seq q).pc = { line := c.entries.getD (seqIndex q) 1, slot := 0, bad := false })
    (∀ k, routeCand s l = some cand → cand.index = k → goesFirst s (routeCands s) cand = true →
        let routed (d : Nat) : Prop := ∃ t, exec (.taskRoute p seq k) s = .next t ∧ t.lastServed = p.toNat
          ∧ TaskBecomes s t p seq k (.routed d) ∧ t.ctxs = s.ctxs ∧ t.mem = s.mem
        (∀ x, l.rcd.coal = false → l.rcd.gang = false → taskPlace s l none = some x → routed (dieOf x.core))
          ∧ (∀ g, l.rcd.coal = false → l.rcd.gang = true → gangPlace s l (k / 8) = some g → routed (g.cluster / 5))
          ∧ (l.rcd.coal = true → weirRoute s l = .reject → ∃ t, exec (.taskRoute p seq k) s = .next t
              ∧ TaskBecomes s t p seq k .rejected ∧ t.ctxs = s.ctxs ∧ t.mem = s.mem))
      ∧ (∀ k x, (dispatchCands s).find? (fun y => y.polder == p && y.seq == seq && y.index == k) = some cand →
        l.rcd.gang = false → taskPlace s l cand.die = some x → goesFirst s (dispatchCands s) cand = true →
        ∃ t, exec (.taskDispatch p seq k) s = .next t ∧ t.lastServed = p.toNat
          ∧ fresh t { core := x.core, slot := x.slot } none k)
      ∧ (∀ n g, (dispatchCands s).find? (fun y => y.polder == p && y.seq == seq && y.index / 8 == n) = some cand →
        l.rcd.gang = true → gangPlace s l n = some g → goesFirst s (dispatchCands s) cand = true →
        ∃ t, exec (.gangDispatch p seq n) s = .next t ∧ t.lastServed = p.toNat
          ∧ ∀ x ∈ g.slots, fresh t { core := 8 * g.cluster + x.1, slot := x.2 }
              (some { polder := p, seq := seq, gang := n, pos := x.1 }) (8 * n + x.1))

/-- R64, R68, R163, R164, R166, R188, R424: the first released bunting of a die starts in a neutral context of its best
commons core; at a test cycle every bucket whose deadline has come is released, and a HEIGHT from 32 to 256 releases those
that reach it; a context that has left ENDING frees its slot, and its task is RETIRED. -/
def Obligations.WeirAndRetirement : Prop :=
  ∀ (s : State) (die : BitVec 2), die.toNat < s.dies.length →
    (∀ b x, firstBunting s die.toNat = some b → bunPlace s b = some x → (∀ m ∈ b.members, 0 < (getPolder s m.task.polder).bal) →
        ∃ t c, exec (.buntingStart die) s = .next t ∧ getCtx t { core := x.core, slot := x.slot } = some c
          ∧ c.neutral = some b.id ∧ c.vault = some b.image ∧ c.task = none ∧ c.polder = 0 ∧ c.priv = .task
          ∧ c.scratch = [] ∧ c.vreg = Vector.replicate 32 { data := 0, tag := .raw, pen := 0 } ∧ t.mem = s.mem
          ∧ (∀ y ∈ t.buntings, y.id = b.id → y.running = some { core := x.core, slot := x.slot }))
      ∧ (s.cycle % 64 = 0 → (∀ b ∈ (getDie s die.toNat).buckets, s.cycle < bucketDeadline b) →
          exec (.weirTestCycle die) s = .next s)
      ∧ (∀ b, s.cycle % 64 = 0 → (getDie s die.toNat).buckets = [b] → bucketDeadline b ≤ s.cycle →
          ∃ t, exec (.weirTestCycle die) s = .next t ∧ (getDie t die.toNat).buckets = []
            ∧ ∃ x, t.buntings = s.buntings ++ [x] ∧ x.key = b.key ∧ x.slot = b.slot ∧ x.released = s.cycle
              ∧ x.members.map (fun m => m.task) = b.members.map fun m => m.task)
      ∧ (∀ h : BitVec 9, h.toNat < 32 ∨ 256 < h.toNat → exec (.weircfgHeight die h) s = .next s)
      ∧ (∀ h : BitVec 9, 32 ≤ h.toNat → h.toNat ≤ 256 →
          (∀ b ∈ (getDie s die.toNat).buckets, memberRows b.members < h.toNat) →
          ∃ t, exec (.weircfgHeight die h) s = .next t ∧ OnlyDie s t die.toNat
            ∧ getDie t die.toNat = { getDie s die.toNat with height := h.toNat })
      ∧ (∀ c r, getCtx s c.id = some c → retireReady s c = true → c.gang = none → c.neutral = none → c.task = some r →
          (∀ l, findLaunch s r.polder r.seq = some l → r.index < l.tasks.length) →
          ∃ t, exec (.contextRetire c.id) s = .next t ∧ getCtx t c.id = none
            ∧ (∀ id, id ≠ c.id → getCtx t id = getCtx s id) ∧ TaskBecomes s t r.polder r.seq r.index .retired
            ∧ t.mem = s.mem ∧ t.pool = s.pool)

/-- R133, R174, R245 to R248, R279, R303: a waiting access joins its queue once there is room; an entry of the side log
whose pieces may be written is performed; SYS.FLTRES with a token of no entry does nothing and otherwise ends the entry,
to walk again or to trap; a read of a log returns its oldest entry, which leaves it. -/
def Obligations.FaultsAndLogs : Prop :=
  ∀ (s : State) (c : Ctx) (q : SeqId) (d : SReg), getCtx s (ctxOf q) = some c →
    let p := regPolder s c
    let reads (i : Instr) (v : Word) (P : State → Prop) : Prop := ∃ t x, exec i s = .next t
      ∧ getCtx t (ctxOf q) = some x ∧ ScalarWritten q.seq d v c x ∧ GuardsKept q.seq c x ∧ VectorsKept c x
      ∧ (∀ id, id ≠ ctxOf q → getCtx t id = getCtx s id) ∧ t.mem = s.mem ∧ P t
    let mine (s2 : Bool) (e : FaultEntry) : Bool :=
      e.queued && e.info.stage2 == s2 && (s2 || (e.info.polder == p && !polderAbsent s p))
    (∀ k i w, s.roomWait[k]? = some (i, w) → joinReady s k i = true → (∀ e ∈ s.faults, sameFault i e = false) →
        ∃ t e, exec (.faultQueueJoin k) s = .next t ∧ t.faults = s.faults ++ [e] ∧ e.info = i ∧ e.waiting = true
          ∧ e.waiters = [w] ∧ e.queued = true ∧ t.roomWait = s.roomWait.eraseIdx k ∧ t.mem = s.mem)
      ∧ (∀ e x y, (getCore s q.core).side.find? (fun z => z.id == e.id) = some e → e.slot = q.slot →
        sideReady s q.core e = true → e.rel = false → e.stores = [(x, y)] → e.reds = [] → e.agent.die < 5 →
        ∀ seg, checkGranules s e.agent .write (granules (y.length / 4096 + 2) x.toNat y.length) = .ok [seg] →
        seg.ren = none → (∀ b, seg.pa ≤ b → b < seg.pa + seg.len → b / 4096 = seg.pa / 4096) →
        (physKind seg.pa = .host ∨ ∃ n, physKind seg.pa = .hbm n) →
        ∃ t, exec (.sideLogReplay q.core e.id) s = .next t ∧ physRead t seg.key seg.pa seg.len = y.take seg.len
          ∧ BytesKept (noteAccess s e.agent .write [seg]) t [seg]
          ∧ (∀ z ∈ (getCore t q.core).side, z.id ≠ e.id))
      ∧ (∀ s2 tok, fltresEntry s c s2 tok = none → exec (.fltresRetry (ctxOf q) s2 tok) s = .next s
          ∧ exec (.fltresAbandon (ctxOf q) s2 tok) s = .next s)
      ∧ (∀ s2 tok e r, fltresEntry s c s2 tok = some e → e.waiters = [.seq (ctxOf q) q.seq] → s.saved = [] → c.frames = [] →
        (c.seq q.seq).hold = some (.fault r) → r.entry = some e.id → c.cut = false → c.halting = false → c.life ≠ .retired →
        (∀ n, (getCore s n).side = []) →
        (∃ t x, exec (.fltresRetry (ctxOf q) s2 tok) s = .next t ∧ getCtx t (ctxOf q) = some x
            ∧ (x.seq q.seq).hold = none ∧ (x.seq q.seq).pc = (c.seq q.seq).pc ∧ (∀ f ∈ t.faults, f.id ≠ e.id)
            ∧ t.mem = s.mem)
          ∧ ∃ u, (∀ f ∈ u.faults, f.id ≠ e.id) ∧ u.mem = s.mem ∧ ∃ x, getCtx u (ctxOf q) = some x
            ∧ (x.seq q.seq).hold = none ∧ exec (.fltresAbandon (ctxOf q) s2 tok) s =
              .next (takeTrap u x { abandonTrap q.seq r s2 with depth := 0, age := (c.seq q.seq).age }))
      ∧ (s.faults.find? (mine false) = none → reads (.fltqRead q d) 0 fun t => t.faults = s.faults)
      ∧ (s.faults.find? (mine true) = none → reads (.fltq2Read q d) 0 fun t => t.faults = s.faults)
      ∧ (∀ e, s.faults.find? (mine false) = some e → reads (.fltqRead q d) (fltqWord e) fun t =>
          ∀ f ∈ t.faults, f.id = e.id → f.queued = false)
      ∧ (∀ e, s.faults.find? (mine true) = some e → reads (.fltq2Read q d) (fltqWord e) fun t =>
          ∀ f ∈ t.faults, f.id = e.id → f.queued = false)
      ∧ (polderAbsent s p = true → reads (.sublogRead q d) 0 (fun _ => True) ∧ reads (.parklogRead q d) 0 (fun _ => True))
      ∧ (∀ e l, polderAbsent s p = false → p.toNat < s.polders.length →
          ((getPolder s p).sublog = { entries := e :: l, ovf := false } →
              reads (.sublogRead q d) (e.1 ||| (1#64 <<< 63)) fun t => (getPolder t p).sublog.entries = l)
            ∧ ((getPolder s p).parklog = { entries := e :: l, ovf := false } →
              reads (.parklogRead q d) (e.1 ||| (1#64 <<< 63)) fun t =>
                (getPolder t p).parklog.entries = l ∧ (getPolder t p).parkinfo = e.2))
      ∧ (∀ e l, (s.audlog = { entries := e :: l, ovf := false } →
              reads (.audlogRead q d) (e.1 ||| (1#64 <<< 63)) fun t => t.audlog.entries = l)
          ∧ (s.fablog = { entries := e :: l, ovf := true } →
              reads (.fablogRead q d) (e.1 ||| (1#64 <<< 62) ||| (1#64 <<< 63)) fun t =>
                t.fablog = { entries := l, ovf := false }))

/-- R242, R243, R250, R251: a sweep that is due starts, or is late where one runs, and ends; the oldest page of a scrub
queue reads as 0 and joins the clean pool; SYS.PGFREE queues a page; SYS.PGMAP maps a clean page of its die into a free
level-1 entry or says why not, and SYS.PGUNMAP clears one, once no access that used it is outstanding. The order of
PGMAP's statuses 5, 3, 2, 1 is the model's choice (log entry 18), as are the cycles from which sweeps count (17), a
page scrubbed at once (29), and which pages USED counts (53). -/
def Obligations.PagesAndSweeps : Prop :=
  ∀ (s : State) (die : BitVec 2) (p : BitVec 4) (v : Word), die.toNat < s.dies.length →
    let d := die.toNat
    let x := getDie s d
    let gpa := (v.extractLsb' 16 36).toNat * 65536
    let pd := (v.extractLsb' 0 2).toNat
    let last (i : Instr) (n : BitVec 3) : Prop := ∃ t, exec i s = .next t ∧ OnlyPolder s t p ∧ (getPolder t p).pgLast = n
      ∧ (getPolder t p).pgPages = (getPolder s p).pgPages
    (sweepDue s d = true → ∃ t, exec (.sweep die) s = .next t ∧ OnlyDie s t d ∧ getDie t d =
          if x.sweepBusy then { x with sweepLate := true, sweepOwed := true } else { x with sweepBusy := true })
      ∧ (x.sweepBusy = true → heldPages s = [] → ∃ t, exec (.sweepComplete die) s = .next t
          ∧ (getDie t d).sweepBusy = (x.sweepOwed && x.sweepEn && x.sweepPeriod != 0) ∧ (getDie t d).sweepOwed = false
          ∧ t.ctxs = s.ctxs)
      ∧ (heldPages s ≠ [] → exec (.sweepComplete die) s = .next s)
      ∧ (∀ a l, x.scrub = a :: l → a % 65536 = 0 → (∃ n, physKind a = .hbm n) → pageHeld s a = false →
        ∃ t, exec (.scrubPage die) s = .next t ∧ (∀ k b, a ≤ b → b < a + 65536 → physByte t k b = 0)
          ∧ (∀ k b, b < a ∨ a + 65536 ≤ b → physByte t k b = physByte s k b) ∧ (getDie t d).scrub = l
          ∧ (getDie t d).clean = if inVault s a then x.clean else x.clean ++ [a])
      ∧ (∀ n, physKind gpa = .hbm n → (getDie s n).present = true → n < s.dies.length →
        ∃ t, exec (.pgfree v) s = .next t ∧ OnlyDie s t n ∧ (getDie t n).scrub = (getDie s n).scrub ++ [gpa])
      ∧ (p.toNat < s.polders.length →
        let free := (getPolder s p).pgPend = none ∧ (getDie s pd).present = true
        let pends : Prop := ∃ t, exec (.pgmap p v) s = .next t ∧ OnlyPolder s t p
          ∧ getPolder t p = { getPolder s p with pgPend := some (gpa, pd) }
        ((getPolder s p).pgPend.isSome = true → last (.pgmap p v) 6)
          ∧ ((getPolder s p).pgPend = none → (getDie s pd).present = false → last (.pgmap p v) 5)
          ∧ (free → level1Held s p gpa = true → pends)
          ∧ (free → level1Held s p gpa = false → level1 s p gpa = .none → last (.pgmap p v) 3)
          ∧ (free → level1Held s p gpa = false → level1 s p gpa = .mapped → last (.pgmap p v) 2)
          ∧ (∀ ea, free → level1Held s p gpa = false → level1 s p gpa = .entry ea →
            ((readPte s 0 ea).type ≠ 0 → last (.pgmap p v) 2)
              ∧ ((readPte s 0 ea).type = 0 → (getPolder s p).pgQuota.toNat ≤ (getPolder s p).pgUsed.toNat →
                  last (.pgmap p v) 1)
              ∧ ((readPte s 0 ea).type = 0 → (getPolder s p).pgUsed.toNat < (getPolder s p).pgQuota.toNat →
                  (getDie s pd).clean = [] → pends)
              ∧ (∀ a l, (readPte s 0 ea).type = 0 → (getPolder s p).pgUsed.toNat < (getPolder s p).pgQuota.toNat →
                  (getDie s pd).clean = a :: l → pd < s.dies.length → ea % 8 = 0 →
                  (∃ n, physKind ea = .hbm n) → inVault s ea = false →
                  ∃ t, exec (.pgmap p v) s = .next t ∧ (getDie t pd).clean = l ∧ (getPolder t p).pgLast = 0
                    ∧ (getPolder t p).pgPages = gpa :: (getPolder s p).pgPages
                    ∧ physRead t 0 ea 8 = leBytes (pgLeaf (getPolder s p).pgKey a) 8))
          ∧ (∀ y, pageReady s p = some y → exec (.pgmapPageTaken p) s = .next (mapPage s p y.1 y.2))
          ∧ ((∀ ea, level1 s p gpa ≠ .entry ea) → unmapWaits s p v = false → last (.pgunmap p v) 4)
          ∧ (∀ ea, level1 s p gpa = .entry ea → (readPte s 0 ea).type ≠ 1 → unmapWaits s p v = false → last (.pgunmap p v) 4)
          ∧ (unmapWaits s p v = true → exec (.pgunmap p v) s = .next (stall s (.pgunmap p v)))
          ∧ (∀ ea, level1 s p gpa = .entry ea → (readPte s 0 ea).type = 1 → unmapWaits s p v = false → ea % 8 = 0 →
                  (∃ n, physKind ea = .hbm n) → inVault s ea = false →
            ∃ t, exec (.pgunmap p v) s = .next t ∧ (getPolder t p).pgLast = 0 ∧ physRead t 0 ea 8 = leBytes 0 8
              ∧ (getPolder t p).pgPages = (getPolder s p).pgPages.filter (· != gpa)))

/-- R158 to R160, R183 to R187, R201, R312, R382: admissions and loads. SYS.CVADMIT starts one admission at a time,
whose end shows its status; SYS.CVWD1 withdraws an image; SYS.VLOAD starts nothing while a load runs, else the load of
a signed manifest in the vault of its home die, reading its shards where it names their source, or shows why not; a
shard that does not come is asked for again, and the fourth failure ends the load; SYS.BURGEEDST, burgees, SYS.MKEY and
the size of a vault. First-fit placement and status 3 for a manifest that cannot be read (log entry 19), the
descriptors that start nothing (20), and the status where several checks of an admission fail (95) are the model's
choices. -/
def Obligations.VaultOperations : Prop :=
  ∀ (s : State) (id : CtxId) (c : Ctx) (v : Word), getCtx s id = some c →
    let key := physRead s 0 v.toNat 64
    (s.cvBusy = none → ∃ t, exec (.cvadmit id v) s = .next t ∧ { t with cvBusy := none } = s ∧ t.cvBusy.isSome = true)
      ∧ (s.cvBusy.isSome = true → exec (.cvadmit id v) s = .next { s with cvStatus := 6 })
      ∧ (admissionDue s = false → exec .codeVaultAdmissionEnd s = .next s)
      ∧ (∀ a asid, s.cvBusy = some (a, id, asid) → admissionDue s = true → ∃ t, exec .codeVaultAdmissionEnd s = .next t ∧ t.cvBusy = none
          ∧ t.cvStatus.toNat ≤ 5 ∧ t.ctxs = s.ctxs ∧ (a.toNat % 256 ≠ 0 → t = { s with cvBusy := none, cvStatus := 4 }))
      ∧ ((s.images.map fun x => x.id).Nodup → ∃ t, exec (.cvwd1 v) s = .next t ∧ (∀ x ∈ t.images, x.hash = v ++ s.cvwd0 → x.withdrawn = true)
          ∧ (∀ x ∈ s.images, x.hash ≠ v ++ s.cvwd0 → x.withdrawn = false → x ∈ t.images) ∧ t.mem = s.mem)
      ∧ (∀ l, s.load = some l → l.active = true → exec (.vload v) s = .next s)
      ∧ ((s.load.map fun l => l.active).getD false = false → physOk s v.toNat 64 = true →
          let b := physRead s 0 v.toNat 64
          let src := natAt b 8 8
          vloadWaits s v = false → natAt b 0 8 % 256 = 0 → natAt b 20 4 ≠ 0 → natAt b 20 4 ≤ 1000000 → natAt b 24 1 < 2 → natAt b 25 39 = 0 →
          (parseManifest s (natAt b 0 8) = none → ∃ t, exec (.vload v) s = .next t ∧ t.vlStatus = 3 ∧ t.vlFailed = 0
              ∧ { t with vlStatus := s.vlStatus, vlFailed := s.vlFailed } = s)
            ∧ (∀ m n size, parseManifest s (natAt b 0 8) = some (m, n, size) →
              let model := BitVec.ofNat 96 (natAt m 0 12)
              let tensor := BitVec.ofNat 16 (natAt m 12 2)
              let version := BitVec.ofNat 16 (natAt m 14 2)
              let pages := (n * size + 65535) / 65536
              (∀ x ∈ s.versions, sameVersion x model tensor version = true → x.state = .unavailable) →
              ((manifestSigned s m n = false ∨ homeDie s pages = none) → ∃ t x, exec (.vload v) s = .next t
                  ∧ t.vlStatus = 3 ∧ x ∈ t.versions ∧ sameVersion x model tensor version = true ∧ x.state = .unavailable
                  ∧ t.mem = s.mem ∧ t.load = s.load)
                ∧ (∀ d p, manifestSigned s m n = true → (s.versions.filter fun x => x.state != .unavailable).length < 4096 →
                  homeDie s pages = some (d, p) →
                  ∃ u l x, exec (.vload v) s = .next (if src = 0 then u else sourceShards src l (List.range n) u)
                    ∧ u.load = some l ∧ l.active = true ∧ l.model = model ∧ l.tensor = tensor ∧ l.version = version
                    ∧ l.source = src ∧ l.shards = n ∧ l.size = size ∧ l.got = List.replicate n false
                    ∧ l.tries = List.replicate n 0 ∧ l.timeout = 1800 * natAt b 20 4
                    ∧ x ∈ u.versions ∧ sameVersion x model tensor version = true ∧ x.state = .loading ∧ x.home = d
                    ∧ x.page = p ∧ x.pages = pages ∧ u.vlStatus = 0 ∧ u.mem = s.mem ∧ u.ctxs = s.ctxs
                    ∧ (d < s.dies.length → (getDie u d).vaultUse = (getDie s d).vaultUse ++ [(p, pages)]))))
      ∧ (vloadWaits s v = true → exec (.vload v) s = .next (stall s (.vload v)))
      ∧ (∀ l n, s.load = some l → l.active = true → n < l.shards → l.got[n]? = some false →
          l.asked.getD n 0 + l.timeout ≤ s.cycle → l.tries.getD n 0 < 3 → n < l.tries.length →
          ∃ t m, exec (.shardTimeout n) s = .next t ∧ t.load = some m ∧ m.active = true
            ∧ m.tries.getD n 0 = l.tries.getD n 0 + 1 ∧ t.versions = s.versions)
      ∧ (∀ l n, s.load = some l → l.active = true → n < l.shards → l.got[n]? = some false →
          l.asked.getD n 0 + l.timeout ≤ s.cycle → 3 ≤ l.tries.getD n 0 →
          ∃ t m, exec (.shardTimeout n) s = .next t ∧ t.load = some m ∧ m.active = false ∧ t.vlStatus = 3
            ∧ ∀ x ∈ t.versions, sameVersion x l.model l.tensor l.version = true → x.state = .unavailable)
      ∧ (s.burgeeDst ≠ 0 → ∃ t, exec .burgeeSend s = .next t ∧ t.burgeeDue = s.cycle + 1800000
          ∧ t.burgeeSeq = (if fabIdValid s = true ∧ ∃ k, routePort s s.burgeeDst.toNat = some k ∧ k ∉ s.fabDown then
              s.burgeeSeq + BitVec.ofNat 64 (partsOf 60 (listed s)).length else s.burgeeSeq)
          ∧ t.versions = s.versions ∧ t.ctxs = s.ctxs ∧ t.mem = s.mem)
      ∧ (∀ l : List Version, (entryFlits l).length = (l.length + 3) / 4 ∧ (∀ f ∈ entryFlits l, f.length = 64)
          ∧ (entryFlits l).flatten.take (16 * l.length) = l.flatMap burgeeEntry
          ∧ ∀ x ∈ (entryFlits l).flatten.drop (16 * l.length), x = 0)
      ∧ (∃ t, exec (.burgeedst v) s = .next t ∧ t.burgeeDst = v ∧ { t with burgeeDst := s.burgeeDst, burgeeDue := s.burgeeDue } = s)
      ∧ (spanHeld s v.toNat 64 = true → exec (.mkey v) s = .next (stall s (.mkey v)))
      ∧ (spanHeld s v.toNat 64 = false → physOk s v.toNat 64 = true → natAt key 0 1 ≤ 7 → natAt key 58 6 = 0 →
          (alGet s.mkeys (natAt key 0 1) = none →
              exec (.mkey v) s = .next { s with mkeys := s.mkeys ++ [(natAt key 0 1, bytesAt key 1 57)], mkeyStatus := 0 })
            ∧ ((alGet s.mkeys (natAt key 0 1)).isSome = true → exec (.mkey v) s = .next { s with mkeyStatus := 1 }))
      ∧ (spanHeld s v.toNat 64 = false → physOk s v.toNat 64 = false → exec (.mkey v) s = .next { s with mkeyStatus := 2 })
      ∧ (∀ (die : BitVec 2) (n : BitVec 8), die.toNat < s.dies.length →
          (176 < n.toNat ∨ vaultBusy s die.toNat ≠ [] → exec (.vaultcfgSize die n) s = .next s)
            ∧ (n.toNat ≤ 176 → vaultBusy s die.toNat = [] → ∃ t, exec (.vaultcfgSize die n) s = .next t
              ∧ OnlyDie { s with marks := t.marks, nextGen := t.nextGen } t die.toNat
              ∧ getDie t die.toNat = { getDie s die.toNat with vaultSize := n.toNat }
              ∧ ∀ k a, (a < vaultBase s die.toNat ∧ a < vaultBase t die.toNat
                    ∨ vaultBase s die.toNat ≤ a ∧ vaultBase t die.toNat ≤ a) → physByte t k a = physByte s k a))

/-- R84, R261 to R268: a pre-emption request while one is in progress does nothing; SAVE_CONTEXT and SAVE_POLDER reach
their contexts in RUNNING or answer status 2, and end a bunting; PARTITION_SWAP answers status 1 where shadow storage
holds a third polder's state, and RESTORE_POLDER wants every saved context back. A forced save keeps the context whole,
writes its save area and frees its slot; a restore brings it back; the exchange ends a swap and brings back what shadow
storage held. That a save area is open bytes until it is written (log entry 28), and that a polder counts as swapped
out from the acceptance on (21), are the model's choices. -/
def Obligations.PreemptionEvents : Prop :=
  ∀ (s : State) (id : CtxId) (c : Ctx) (p r : BitVec 4), getCtx s id = some c →
    let notAtEnd (d : Ctx) : Prop :=
      (∀ q, (d.seq q).atEnd = false) ∧ ∀ f ∈ d.frames, ∀ v ∈ f.saves, v.atEnd = false
    (s.preq.isSome = true → exec (.preqSaveContext id) s = .next s ∧ exec (.preqSavePolder p) s = .next s
        ∧ exec (.preqPartitionSwap p r) s = .next s ∧ exec (.preqRestorePolder p) s = .next s)
      ∧ (s.preq = none →
        (∀ j, getCtx s j = none → exec (.preqSaveContext j) s =
            .next { s with pstatStatus := 2, pstatSaved := 0, pstatForced := 0 })
          ∧ (c.neutral = none → c.gang = none → c.life ≠ .running → exec (.preqSaveContext id) s =
              .next { s with pstatStatus := 2, pstatSaved := 0, pstatForced := 0 })
          ∧ (c.neutral.isSome = true → exec (.preqSaveContext id) s = .next (preqEnd (endCtx s id 0x17) 0))
          ∧ (c.neutral = none → c.gang = none → c.life = .running → ∃ t d, exec (.preqSaveContext id) s = .next t
              ∧ OnlyContext { s with preq := t.preq } t id
              ∧ t.preq = some { mode := 0, polder := c.polder, swapIn := 0, left := [id], saved := 0, forced := 0 }
              ∧ getCtx t id = some d ∧ d = { c with preempt := some { used := 0, shadow := false } })
          ∧ (polderCtxs s p = [] → ∃ t, exec (.preqSavePolder p) s = .next t ∧ t.preq = none ∧ t.pstatStatus = 2
              ∧ t.ctxs = s.ctxs)
          ∧ (polderCtxs s p ≠ [] → ∃ t, exec (.preqSavePolder p) s = .next t ∧ t.preq =
              some { mode := 1, polder := p, swapIn := 0, left := polderCtxs s p, saved := 0, forced := 0 })
          ∧ ((coreSet s p).any (fun k => (getCore s k).shadow.any fun y => y != r) = true →
              exec (.preqPartitionSwap p r) s = .next { s with pstatStatus := 1, pstatSaved := 0, pstatForced := 0 })
          ∧ ((coreSet s p).any (fun k => (getCore s k).shadow.any fun y => y != r) = false → p.toNat < s.polders.length →
              ∃ t m, exec (.preqPartitionSwap p r) s = .next t ∧ t.preq = some m ∧ m.mode = 2 ∧ m.polder = p ∧ m.swapIn = r
                ∧ (getPolder t p).swapped = true)
          ∧ (s.saved.any (fun v => v.ctx.polder == p && !v.shadow) = false →
              exec (.preqRestorePolder p) s = .next { s with pstatStatus := 2, pstatSaved := 0, pstatForced := 0 })
          ∧ (s.saved.any (fun v => v.ctx.polder == p && !v.shadow) = true → ∃ t, exec (.preqRestorePolder p) s = .next t
              ∧ (∀ v ∈ t.saved, v.ctx.polder = p → v.shadow = false → v.wanted = true) ∧ t.ctxs = s.ctxs ∧ t.mem = s.mem))
      ∧ (forcedDue s c = true → ∃ t v, exec (.forcedSave id) s = .next t ∧ t.saved = s.saved ++ [v]
          ∧ v.ctx = c.halt true ∧ v.forced = true ∧ getCtx t id = none ∧ t.mem = s.mem
          ∧ (∃ k, (saveArea s c, k) ∈ t.areas)
          ∧ ∀ j, j ≠ id → getCtx t j = getCtx s j)
      ∧ (∀ j v, savedAt s j = some v → v.ctx.gang = none → v.ctx.neutral = none → notAtEnd v.ctx →
          ∃ t d, exec (.contextRestore j) s = .next t
          ∧ getCtx t j = some d ∧ d.polder = v.ctx.polder ∧ d.asid = v.ctx.asid ∧ d.task = v.ctx.task ∧ VectorsKept v.ctx d
          ∧ d.shared = v.ctx.shared ∧ d.tokens = v.ctx.tokens ∧ d.scratch = v.ctx.scratch ∧ d.tiles = v.ctx.tiles
          ∧ d.fpcr = v.ctx.fpcr ∧ t.mem = s.mem ∧ ∀ k, k ≠ j → getCtx t k = getCtx s k)
      ∧ (∀ m, exchangeDue s = some m →
          let back (v : Saved) : Bool := v.shadow && v.ctx.polder == m.swapIn && (coreSet s m.polder).contains v.ctx.id.core
          ∃ t, exec .swapExchange s = .next t ∧ t.preq = none
            ∧ t.pstatSaved = BitVec.ofNat 16 m.saved ∧ t.pstatForced = BitVec.ofNat 16 m.forced
            ∧ (∀ v ∈ t.saved, v.shadow = true → v.ctx.polder = m.swapIn → v.ctx.id.core ∉ coreSet s m.polder)
            ∧ (s.saved.filter back = [] → t.ctxs = s.ctxs ∧ (getPolder t m.swapIn).swapped = false)
            ∧ (∀ v, s.saved.filter back = [v] → (∀ w ∈ s.saved, w.wanted = false) → v.ctx.gang = none →
              slotUsed s v.ctx.id.core v.ctx.id.slot = false → notAtEnd v.ctx →
              ∃ d, getCtx t v.ctx.id = some d ∧ d.task = v.ctx.task ∧ VectorsKept v.ctx d ∧ d.shared = v.ctx.shared
                ∧ d.scratch = v.ctx.scratch ∧ ∀ k, k ≠ v.ctx.id → getCtx t k = getCtx s k))

/-- R204, R205, R207 to R210: the loss of a pool port breaches its regions with the cause of the loss and counts them;
a levee closes, opens on a port that is up, and is BREACHED by a detach, which stops its transfers and loses its dirty
lines and the elements of reductions that wait for credits, whose writes trap imprecisely in their contexts; the end of
a close leaves no dirty line; a snoop answers with the dirty line that a remote-data cache held, line by line in its
block forms, and the memory then has what another device writes. What each loss leaves in PORTS (log entry 54), the
openings whatever VALID and one imprecise trap for each sequencer (55), and what a snoop carries (56) are the model's
choices. -/
def Obligations.PoolEvents : Prop :=
  ∀ (s : State) (port : BitVec 2) (n : BitVec 14) (narrow slow : Bool) (k : SnoopKind) (addr : Nat),
    port.toNat < s.ports.length →
    let r := getRegion s n.toNat
    let lost (i : Instr) (cause : BitVec 3) (bits : BitVec 4) : Prop := ∃ t, exec i s = .next t
      ∧ t.breaches = s.breaches + BitVec.ofNat 16 (regionsOn s port).length ∧ portBits t port = bits
      ∧ (∀ m y, alGet s.regions m = some y → y.port = port → y.levee ≠ .breached →
          (getRegion t m).levee = .breached ∧ (getRegion t m).cause = cause)
    let becomes (i : Instr) (y : Region) : Prop := ∃ t, exec i s = .next t ∧ getRegion t n.toNat = y
    let left := dirtyLines (stopXfers s n.toNat) n.toNat
    ((portBits s port).getLsbD 0 = true → lost (.poolLinkDown port) 1 0 ∧ lost (.viralIndication port) 2 (portBits s port)
          ∧ lost (.poolCompletionTimeout port) 3 (portBits s port))
      ∧ ((portBits s port).getLsbD 1 = true → lost (.poolIdeLoss port) 4 (portBits s port &&& 0b1101#4))
      ∧ (∃ t, exec (.poolLinkActive port narrow slow) s = .next t ∧ { t with ports := s.ports } = s
          ∧ portBits t port = BitVec.ofBool slow ++ BitVec.ofBool narrow ++ 0b11#2)
      ∧ (r.levee = .opened → becomes (.leveeClosing n) { r with levee := .closing })
      ∧ (r.levee ≠ .opened → exec (.leveeClosing n) s = .next s)
      ∧ (r.levee = .breached → portUp s r.port = true → becomes (.leveeOpen n) { r with levee := .opened })
      ∧ (r.levee ≠ .breached ∨ portUp s r.port = false → exec (.leveeOpen n) s = .next s)
      ∧ becomes (.regionDetach n)
          { r with valid := false, levee := .breached, cause := 5, dropped := min left.length 16383 }
      ∧ (∃ t, exec (.regionDetach n) s = .next t ∧ dirtyLines t n.toNat = [] ∧ liveElems t n.toNat = [])
      ∧ (∀ w ∈ oldestWriters (left.flatMap (fun y => y.writers) ++ (liveElems s n.toNat ++ savedElems s n.toNat)), ∀ c, getCtx s c.id = some c → c.task = some w.task → c.cut = false →
          (s.ctxs.filter fun y => y.task == some w.task) = [c] →
          ∃ t d x, exec (.regionDetach n) s = .next t ∧ getCtx t c.id = some d ∧ x ∈ d.pending ∧ x.seq = w.seq
            ∧ x.cause = 0x0D ∧ x.imprec = true ∧ x.addr = w.va ∧ x.depth = w.depth)
      ∧ (closeReady s n.toNat = true → ∃ t, exec (.leveeCloseComplete n) s = .next t ∧ dirtyLines t n.toNat = []
          ∧ getRegion t n.toNat = { r with levee := .breached, cause := 0, dropped := 0 } ∧ t.mem = s.mem
          ∧ (savedElems s n.toNat = [] → t.ctxs = s.ctxs))
      ∧ (snoopLines s addr = [] → ∃ t, exec (.backInvalidationSnoop ⟨k, 1, []⟩ addr) s = .next t
          ∧ Sends s t (.biResponse (addr / 64 * 64) false none))
      ∧ (∀ ln, snoopLines s addr = [ln] → ∃ t, exec (.backInvalidationSnoop ⟨k, 1, []⟩ addr) s = .next t
          ∧ t.outbox = s.outbox ++ [.biResponse (addr / 64 * 64) (k != .inv) ((rdcFind s ln).map fun x => x.data)]
          ∧ rdcFind t ln = none ∧ t.mem = s.mem ∧ t.ctxs = s.ctxs)
      ∧ (∀ l, ∃ t, exec (.backInvalidationSnoop ⟨.inv, 1, [l]⟩ addr) s = .next t
          ∧ cellsRead t.pool (addr / 64 * 64) 64 = leBytes l.toNat 64 ∧ t.mem = s.mem)
      ∧ (∀ m ls t, exec (.backInvalidationSnoop ⟨k, m, ls⟩ addr) s = .next t →
          exec (.backInvalidationSnoop ⟨k, m + 1, ls⟩ addr) s =
            exec (.backInvalidationSnoop ⟨k, 1, ls[m]?.toList⟩ (addr / 64 * 64 + 64 * m)) t)

/-- R23 to R25, R192, R270, R274 to R280, R310, R311: a line that meets an error is poisoned, and a corrected one is
counted and reported; an error in a sequencer is trap 0x12, and one in a tile with its whole window replays it; a die
link that fails stays down; an audit runs the unit again from its log on another core and, where they differ, on a
third, and blames the core that differs from the other two; scores are cleared and cores quarantined by register; heat
is logged and a trip stops the device; firmware that fails a check is logged; a module reset and a loss of power leave
no context and no HBM. That a reset keeps the pool while HBM reads 0 (log entries 67 and 1), the codes of Optis (61),
that an error in a sequencer acts at its next instruction (97), that a wrong core is an accident which the event
carries (22), and which firmware an image replaces and what its signature covers (85, 39) are the model's choices. -/
def Obligations.DeviceEvents : Prop :=
  ∀ (s : State),
    (∀ a, canPoison s a = true → ∃ t, exec (.uncorrectableError (.line a)) s = .next t ∧ lineOf a ∈ t.poison
        ∧ (∀ l ∈ s.poison, l ∈ t.poison) ∧ t.mem = s.mem ∧ t.pool = s.pool ∧ t.ctxs = s.ctxs)
      ∧ (∀ q c, getCtx s (ctxOf q) = some c → c.canIssue q.seq = true → (c.seq q.seq).waited = none →
          exec (.uncorrectableError (.core q)) s = .next (trapBefore (optisLog s 7 q.core) (ctxOf q) q.seq
            { mkTrap q.seq 0x12 0 0 with imprec := true }))
      ∧ (∃ t, exec (.uncorrectableError .corrected) s = .next t ∧ t.corrected = s.corrected + 1
          ∧ t.optis.getLast? = some { code := 13, arg := s.corrected + 1 } ∧ t.mem = s.mem ∧ t.ctxs = s.ctxs)
      ∧ (∀ c m l, getCtx s c.id = some c → c.matrix = m :: l → (∀ w32 n, m.kind ≠ .mzero w32 n) → c.replay = none →
          (c.tile m.trec).retained = true → ∃ t, exec (.uncorrectableError (.matrix c.id m.trec)) s = .next t
            ∧ OnlyContext s t c.id ∧ getCtx t c.id = some { c with replay := some m.trec })
      ∧ (∀ a b, a < 5 → b < 5 → a ≠ b → linkUp s a b = true → ∃ t, exec (.dieLinkFailure a b) s = .next t
          ∧ linkUp t a b = false ∧ linkUp t b a = false ∧ t.mem = s.mem ∧ t.ctxs = s.ctxs)
      ∧ (∀ a core wrong, (s.audits.find? fun y => y.index == a.index) = some a → auditRunning s a.index = false →
          let answers (P : State → Prop) : Prop := ∃ t, exec (.auditReplay a.index core wrong) s = .next t ∧ P t
          let score (t : State) (k : Nat) := (getCore t k).score
          let more (k : Nat) := BitVec.ofNat 8 (min 255 ((getCore s k).score.toNat + 1))
          let logs (raised : List Nat) (result second third blamed : Nat) : Prop := answers fun t =>
            (∀ k, k < s.cores.length → score t k = if k ∈ raised then more k else score s k)
              ∧ t.audlog = s.audlog.push 64 (audlogWord result a.core second third blamed a.index, 0)
              ∧ ∀ y ∈ t.audits, y.index ≠ a.index
          (∀ w, a.second = none → a.ended = some (core, some w) →
              (w ^^^ wrong = a.signature → logs [] 0 core 0xFF 0xFF)
                ∧ (w ^^^ wrong ≠ a.signature → answers fun t => t.audlog = s.audlog ∧ (∀ k, score t k = score s k)
                  ∧ (t.audits.find? fun y => y.index == a.index) = some { a with second := some (core, w ^^^ wrong), ended := none }))
            ∧ (∀ c2 w2 w, a.second = some (c2, w2) → w2 ≠ a.signature → a.ended = some (core, some w) →
              (w ^^^ wrong = a.signature → logs [c2] 1 c2 core c2)
                ∧ (w ^^^ wrong = w2 → logs [a.core] 1 c2 core a.core)
                ∧ (w ^^^ wrong ≠ a.signature → w ^^^ wrong ≠ w2 → a.core ≠ c2 → a.core ≠ core → c2 ≠ core →
                  logs [a.core, c2, core] 2 c2 core 0xFF))
            ∧ (a.ended = some (core, none) → (a.second = none → logs [] 3 core 0xFF 0xFF)
              ∧ (∀ c2 w2, a.second = some (c2, w2) → w2 ≠ a.signature → logs [] 3 c2 core 0xFF))
            ∧ (a.ended = none → a.second = none → auditPlaces s a = [] → logs [] 3 0xFF 0xFF 0xFF)
            ∧ (∀ x, a.ended = none → ((auditPlaces s a).find? fun y => y.core == core) = some x →
              auditCore s a core = true ∧ (∀ y, a.second = some y → y.1 ≠ core) ∧ answers fun t => ∃ b ∈ t.buntings,
                b.replay = some a.index ∧ b.running = some { core := core, slot := x.slot } ∧ b.image = a.image
                  ∧ b.gathered = a.gathered ∧ b.members.length = a.members.length
                  ∧ ∃ c, getCtx t { core := core, slot := x.slot } = some c ∧ c.neutral = some b.id))
      ∧ (∀ k on, k < 160 → k < s.cores.length →
          (∃ t, exec (.suspectClr k) s = .next t ∧ OnlyCore s t k
              ∧ getCore t k = { getCore s k with score := 0, recomm := false })
            ∧ ∃ t, exec (.suspectQuar k on) s = .next t ∧ OnlyCore s t k ∧ getCore t k = { getCore s k with quar := on })
      ∧ (∀ d, d < 5 → (∃ t, exec (.thermalWarning d) s = .next t ∧ { t with optis := s.optis, outbox := s.outbox } = s
              ∧ t.optis.getLast? = some { code := 8, arg := d })
            ∧ ∃ t, exec (.thermalTrip d) s = .next t ∧ t.halted = true ∧ { t with halted := s.halted, optis := s.optis } = s)
      ∧ (∀ v img sig,
          (Config.ed448Verifies Config.tolurikKey (shake256 img 64) sig = true → s.fwVersion ≤ v →
              exec (.firmwareUpdate v img sig) s = .next { s with fwPending := some (v, img) })
            ∧ ((Config.ed448Verifies Config.tolurikKey (shake256 img 64) sig = false ∨ v < s.fwVersion) →
              ∃ t, exec (.firmwareUpdate v img sig) s = .next t ∧ { t with optis := s.optis } = s
                ∧ t.optis.getLast? = some { code := 11, arg := v }))
      ∧ (let fresh (t : State) : Prop := t.ctxs = [] ∧ t.saved = [] ∧ t.startup = 0 ∧ t.halted = false
            ∧ t.polders = State.reset.polders ∧ t.asids = State.reset.asids ∧ t.cores = State.reset.cores
            ∧ t.linksDown = [] ∧ t.regions = [] ∧ t.pool = s.pool
            ∧ ∀ k a, (∃ d, physKind a = .hbm d) → physByte t k a = 0
         ((s.powered = false ∨ s.halted = false) → ∃ t, exec .moduleReset s = .next t ∧ fresh t ∧ t.powered = true
              ∧ t.fwPending = none ∧ t.firmware = (s.fwPending.map Prod.snd).getD s.firmware)
            ∧ (s.powered = true → ∃ t, exec .powerLoss s = .next t ∧ fresh t ∧ t.powered = false
              ∧ t.firmware = s.firmware ∧ t.fwPending = s.fwPending))

/-- R185, R187, R302 to R305: a request for this endpoint, or multicast, whose tag an ACTIVE polder holds and its port
lets in is served and answered, or waits for a held page or for credits, and is else dropped, logged and answered with
an error; a response brings its bytes to the access that waits, acknowledges a write, or traps it; shards, shard
requests, burgees and packets of other types; a request without an answer for 64 µs, and the loss of a port. The port
of a passed burgee (log entry 25), whole shards and a multicast packet that every device takes (24), and the error
answer to a dropped request (23) are the model's choices. -/
def Obligations.FabricPackets : Prop :=
  ∀ (s : State) (port : Nat) (p : Packet) (b : BitVec 4),
    let answered (i : Instr) (u : State) (type : BitVec 8) (data : List Byte) : Prop :=
      exec i s = .next (respond u p type data false)
        ∧ ∀ k, routePort u p.src.toNat = some k → k ∉ u.fabDown → tagAllowed u k p.ptag = true →
            Sends u (respond u p type data false) (.packet k
              { type := type, ptag := p.ptag, flits := (data.length + 63) / 64, mc := false, dest := p.src, src := fabIdOf u
                rtag := p.rtag, addr := p.addr, size := data.length, op := 0, data := data })
    let open_ (type : BitVec 8) : Prop := forUs s port p type = true ∧ fabIdValid s = true ∧ tagAllowed s port p.ptag = true
        ∧ tagPolder s p.ptag = some b
    let dropped (i : Instr) : Prop := exec i s = .next (logDrop s true port p.ptag p.src.toNat)
    let a := acceptPacket s port p
    let own := { p with mc := false, dest := fabIdOf a }
    let served (i j : Instr) (type : BitVec 8) (keep : Bool) (r : Served) : Prop :=
      (∀ u bs, r = .done u bs → answered i u type (if keep then bs else []))
        ∧ (∀ u, r = .bad u → answered i u 6 []) ∧ (r = .wait → exec i s = .next (stall a j))
    (p.mc = false → a = s)
      ∧ (open_ 1 → served (.readRequest port p) (.readRequest port own) 4 true (serveRead a b p.addr.toNat p.size))
      ∧ (open_ 2 → served (.writeRequest port p) (.writeRequest port own) 5 false (serveWrite a b p.addr.toNat p.data))
      ∧ (open_ 3 → (atomReq p = none → answered (.atomicRequest port p) a 6 [])
          ∧ (∀ r, atomReq p = some r → served (.atomicRequest port p) (.atomicRequest port own) (if r.ret then 4 else 5) r.ret
              (serveAtom a b p.addr.toNat r)))
      ∧ (∀ type i, (type = 1 ∧ i = .readRequest port p ∨ type = 2 ∧ i = .writeRequest port p
            ∨ type = 3 ∧ i = .atomicRequest port p) → forUs s port p type = true →
          ((tagAllowed s port p.ptag = false ∨ tagPolder s p.ptag = none) → exec i s = .next (dropRequest s port p))
            ∧ (fabIdValid s = false → tagArrives s port p.ptag = true → exec i s = .next s))
      ∧ (∀ r c, open_ 4 → (s.fabReqs.find? fun y => y.rtag == p.rtag) = some r → r.isRead = true → p.data.length = r.size →
          r.xfer = none → getCtx s r.ctx = some c → r.rtag ∉ c.retags → (c.seq r.seq).rtags = [r.rtag] → (c.seq r.seq).hold = some .fabric →
          ∃ t d, exec (.readResponse port p) s = .next t ∧ getCtx t r.ctx = some d ∧ (d.seq r.seq).hold = none
            ∧ (d.seq r.seq).fab = fabPut (c.seq r.seq).fab r.addr p.data ∧ (d.seq r.seq).pc = (c.seq r.seq).pc
            ∧ (∀ y ∈ t.fabReqs, y.rtag ≠ p.rtag) ∧ t.mem = s.mem)
      ∧ (∀ r, open_ 5 → (s.fabReqs.find? fun y => y.rtag == p.rtag) = some r → r.isRead = false →
          ∃ t, exec (.writeAcknowledgement port p) s = .next t ∧ (∀ y ∈ t.fabReqs, y.rtag ≠ p.rtag) ∧ t.mem = s.mem)
      ∧ (∀ r, open_ 6 → (s.fabReqs.find? fun y => y.rtag == p.rtag) = some r →
          exec (.errorResponse port p) s = .next (failReq a r 0x0B))
      ∧ (∀ type i, (type = 4 ∧ i = .readResponse port p ∨ type = 5 ∧ i = .writeAcknowledgement port p
            ∨ type = 6 ∧ i = .errorResponse port p ∨ type = 8 ∧ i = .shardRequest port p) → forUs s port p type = true →
          (tagAllowed s port p.ptag = false ∨ tagPolder s p.ptag = none) → dropped i)
      ∧ (open_ 7 → (s.load = none → exec (.shard port p) s = .next a)
          ∧ (∀ l v, s.load = some l → l.active = true → p.addr.toNat < l.shards → l.got[p.addr.toNat]? = some false →
              (s.versions.find? fun v => sameVersion v l.model l.tensor l.version) = some v →
              shardOk l p.addr.toNat p.data = true → (l.got.set p.addr.toNat true).all id = false →
              let at_ := vaultBase s v.home + 65536 * v.page + p.addr.toNat * l.size
              ∃ t, exec (.shard port p) s = .next t
                ∧ t.load = some { l with origin := p.src, got := l.got.set p.addr.toNat true } ∧ t.versions = s.versions
                ∧ (at_ % 64 = 0 → l.size % 64 = 0 → t.mem = cellsWrite s.mem at_ p.data)
                ∧ (∀ k y,
                  (inVault s y = true → at_ ≤ y → y < at_ + l.size → physByte t k y = p.data.getD (y - at_) 0)
                    ∧ (y / 64 < at_ / 64 ∨ at_ + l.size ≤ y / 64 * 64 → physByte t k y = physByte s k y))))
      ∧ (open_ 8 → (s.load = none → exec (.shardRequest port p) s = .next a)
          ∧ (∀ l, s.load = some l → l.source ≠ 0 → p.addr.toNat < l.shards →
              let from_ := l.source + p.addr.toNat * l.size
              physOk s from_ l.size = true →
              (spanHeld s from_ l.size = true → exec (.shardRequest port p) s = .next (stall a (.shardRequest port own)))
                ∧ (spanHeld s from_ l.size = false → exec (.shardRequest port p) s =
                  .next (sendShard a false p.src.toNat p.addr.toNat (physRead s 0 from_ l.size)))))
      ∧ (portLive s port = true → p.type = 0x31 →
          (tagArrives s port 0 = false → exec (.burgee port p) s = .next (logDrop s true port 0 p.src.toNat))
            ∧ (tagArrives s port 0 = true → s.burgeeDst = 0 → exec (.burgee port p) s = .next s)
            ∧ (∀ k, tagArrives s port 0 = true → s.burgeeDst ≠ 0 → routePort s s.burgeeDst.toNat = some k → k ≠ port →
                fabIdValid s = true → k ∉ s.fabDown → tagAllowed s k 0 = true →
                ∃ t, exec (.burgee port p) s = .next t ∧ Sends s t (.packet k p)))
      ∧ (portLive s port = true → p.type = 0 ∨ (8 < p.type.toNat ∧ p.type ≠ 0x31) →
          dropped (.otherPacketType port p))
      ∧ (∀ r, s.fabReqs.find? (fun y => y.rtag == p.rtag) = some r → r.since + 115200 ≤ s.cycle →
          exec (.fabricRequestTimeout p.rtag) s = .next (failReq s r 0x12))
      ∧ (∀ i, (i = .fabricAckTimeout port ∨ i = .fabricLinkDown port) → portLive s port = true →
          ∃ t, exec i s = .next t ∧ t.fabDown = s.fabDown ++ [port] ∧ (∀ r ∈ t.fabReqs, r.port ≠ port)
            ∧ ((∀ r ∈ s.fabReqs, r.port = port → r.isRead = false) → t.mem = s.mem))

/-- R110, R285 to R288, R290, R299, R300, R306, R307, R422, R427, R428: SYS.PDCTL configures a polder that is ABSENT,
or ACTIVE, unlocked and idle, activates one that passes the checks or shows the first that fails, and destroys one; the
end of a destruction leaves it ABSENT with its queue empty; the commons, the keys and the sealing keys; balances,
windows and credits at their periods. That a configuration keeps S2ROOT (log entry 26, DEDUCED), a write of polder 0's
QDEPTH whatever its STATE field (37), credits at cycle 0 (59) and bandwidth as timing (62) are the model's choices. -/
def Obligations.PoldersAndKeys : Prop :=
  ∀ (s : State) (p : BitVec 4) (v : Word) (k : BitVec 5) (w : BitVec 2), s.polders.length = 16 → s.keys.length = 32 →
    let d := getPolder s p
    let e := pdctlFields v d
    (p ≠ 0 → d.state = 0 ∨ (d.state = 2 ∧ d.tdi = 0 ∧ polderIdle s p = true) → (∀ h ∈ s.heldSubs, h.launch.polder ≠ p) →
        ∃ t, exec (.pdctlConfigure p) s = .next t ∧ OnlyPolder s t p
          ∧ getPolder t p = { Polder.reset with state := 1, s2en := d.s2en, s2root := d.s2root })
      ∧ (p = 0 ∨ d.state = 1 ∨ d.state = 3 ∨ (d.state = 2 ∧ (d.tdi ≠ 0 ∨ polderIdle s p = false)) → exec (.pdctlConfigure p) s = .next s)
      ∧ (p ≠ 0 → d.state = 1 → activateErr s p e ≠ 0 → ∃ t, exec (.pdctlActivate p v) s = .next t ∧ OnlyPolder s t p
          ∧ getPolder t p = { e with err := activateErr s p e })
      ∧ (p ≠ 0 → d.state = 1 → activateErr s p e = 0 → ∃ t, exec (.pdctlActivate p v) s = .next t
          ∧ getPolder t p = { e with err := 0, state := 2, nextSeq := 1 } ∧ (∀ q, q ≠ p → getPolder t q = getPolder s q)
          ∧ { t with polders := s.polders, fns := s.fns } = s)
      ∧ (p ≠ 0 → d.state ≠ 1 → exec (.pdctlActivate p v) s = .next s)
      ∧ (p = 0 → v.extractLsb' 0 16 ≠ 0 → ∃ t, exec (.pdctlActivate p v) s = .next t ∧ OnlyPolder s t 0
          ∧ getPolder t 0 = { d with qdepth := v.extractLsb' 0 16 })
      ∧ (p ≠ 0 → d.state = 1 ∨ d.state = 2 → ∃ t, exec (.pdctlDestroy p) s = .next t ∧ (getPolder t p).state = 3
          ∧ (∀ y ∈ t.saved, y.ctx.polder ≠ p) ∧ ((∀ h ∈ s.heldSubs, h.launch.polder ≠ p) → t.mem = s.mem))
      ∧ (p = 0 ∨ d.state = 0 ∨ d.state = 3 → exec (.pdctlDestroy p) s = .next s)
      ∧ (residentCtxs s p ≠ [] ∨ heldPages s ≠ [] → exec (.polderDestroyComplete p) s = .next s)
      ∧ (d.state = 3 → residentCtxs s p = [] → heldPages s = [] → ∃ t, exec (.polderDestroyComplete p) s = .next t
          ∧ (getPolder t p).queue = [] ∧ (getPolder t p).state = (if d.stopping then 1 else 0)
          ∧ (∀ y ∈ t.watches, y.polder ≠ p) ∧ (∀ y ∈ t.faults, y.info.polder ≠ p))
      ∧ (w ≠ 3 → let c := setWord s.commons w.toNat v
          ((∀ n, 0 < n → n < 16 → (s.polders.getD n .reset).state = 2 → (s.polders.getD n .reset).tslice = false →
              (s.polders.getD n .reset).cores &&& c = 0) → exec (.commons w v) s = .next { s with commons := c })
            ∧ (∀ n, 0 < n → n < 16 → (s.polders.getD n .reset).state = 2 → (s.polders.getD n .reset).tslice = false →
              (s.polders.getD n .reset).cores &&& c ≠ 0 → exec (.commons w v) s = .next s))
      ∧ (∀ j, (getKey State.reset j).lastctr = 0)
      ∧ (keyTaken s k.toNat = true → exec (.keyctlGenerate k) s = .next s ∧ exec (.keyctlErase k) s = .next s)
      ∧ (keyTaken s k.toNat = false →
          (∃ t, exec (.keyctlGenerate k) s = .next t ∧ getKey t k.toNat = { getKey s k.toNat with gen := s.nextGen }
              ∧ t.nextGen = s.nextGen + 1 ∧ t.mem = s.mem ∧ ∀ j, j ≠ k.toNat → getKey t j = getKey s j)
            ∧ ∃ t, exec (.keyctlErase k) s = .next t
              ∧ getKey t k.toNat = { gen := s.nextGen, sealKey := none, lastctr := 0 } ∧ t.nextGen = s.nextGen + 1
              ∧ t.mem = s.mem ∧ ∀ j, j ≠ k.toNat → getKey t j = getKey s j)
      ∧ (∀ id c segs, getCtx s id = some c → let r := regPolder s c
          (polderAbsent s r = true → exec (.sealld id v) s = .next s)
            ∧ (polderAbsent s r = false → sealldWaits s c v = true → exec (.sealld id v) s = .next (stall s (.sealld id v)))
            ∧ (polderAbsent s r = false → sealldWaits s c v = false → checkAccess s (agentOf s c) .read v.toNat 64 64 = .ok segs →
              (∀ x ∈ segs, x.fabric = false) → segsPoisoned s segs = false → natAt (segsRead s segs) 37 27 = 0 →
              let n := natAt (segsRead s segs) 36 1
              n < 32 → (getPolder s r).keys.getLsbD n = true → ∃ t, exec (.sealld id v) s = .next t
                ∧ (getPolder t r).sealst = 0 ∧ (getKey t n).lastctr = (getKey s n).lastctr ∧ (getKey t n).sealKey =
                  some (BitVec.ofNat 256 (natAt (segsRead s segs) 0 32), BitVec.ofNat 32 (natAt (segsRead s segs) 32 4))))
      ∧ (s.cycle % 65536 = 0 → ∃ t, exec .commonsMeteringPeriod s = .next t
          ∧ getPolder t p = { d with bal := d.share } ∧ { t with polders := s.polders } = s)
      ∧ (s.cycle % 4096 = 0 → exec .qosWindow s = .next { s with qosStart := s.cycle })
      ∧ (s.cycle % 1024 = 0 → ∃ t, exec .atomicCredit s = .next t
          ∧ { t with dies := s.dies, agenda := s.agenda, stalled := s.stalled } = s ∧ t.agenda = s.stalled ++ s.agenda
          ∧ t.stalled = []
          ∧ ∀ x sl q, x ∈ t.dies → sl < 16 → q < 16 → (s.polders.getD q .reset).state = 2 →
              (sl, q, (s.polders.getD q .reset).atomc) ∈ x.credits)

/-- R21, R24, R134, R291 to R297: a write of BOOTREC answers with its status; a function of no ACTIVE polder completes
a read as unsupported, and others move the bytes behind BAR2 and the MSI-X table, BOOTREC and BOOTSTAT behind BAR0; a
configuration request is to be retried until start-up ends; an unmasked entry sends its pending message; TDISP moves an
interface from unlocked to locked to RUN; IDE streams are keyed and a failure puts the interfaces that use one into
ERROR; SPDM answers and errors. The codes of SPDM and TDISP (log entry 32), the layout of the MSI-X table and BAR0
(64), the size of a request (30), which stream a function uses (31), the cause of a fault while BOOTREC is read (66)
and how STOP proceeds (36) are the model's choices. -/
def Obligations.HostRequests : Prop :=
  ∀ (s : State) (fn : BitVec 4) (v : Word) (p : BitVec 4),
    let sends (i : Instr) (u : State) (m : OutMsg) : Prop := exec i s = .next { u with outbox := u.outbox ++ [m] }
    let tdi (n : BitVec 2) : State := modPolder s p fun d => { d with tdi := n }
    let bar (n : Nat) (data : Option (List Byte)) : Prop := barOpen s n data = true ∧ postedWaits s = false
    let secured : Prop := s.startup = 5 ∧ s.spdm ≠ [] ∧ fn ≠ 0
    (s.startup < 5 → exec (.bootrec v) s = .next { s with bootstat := 3 })
      ∧ (5 ≤ s.startup → bootBusy s = true → exec (.bootrec v) s = .next { s with bootstat := 1 })
      ∧ (bootWaits s v = true → exec (.bootrec v) s = .next (stall s (.bootrec v)))
      ∧ (∀ n, 5 ≤ s.startup → bootBusy s = false → bootWaits s v = false → bootLaunch s v = .error n →
          exec (.bootrec v) s = .next { s with bootstat := BitVec.ofNat 16 (256 * n + 2) })
      ∧ (∀ t l, 5 ≤ s.startup → bootBusy s = false → bootWaits s v = false → bootLaunch s v = .ok (t, l) →
          exec (.bootrec v) s = .next { (enterQueue t l).1 with bootstat := 0 })
      ∧ (∀ a n data, barOpen s n data = true → postedWaits s = true →
          exec (.hostBar2Access fn a n data) s = .next (stall s (.hostBar2Access fn a n data)))
      ∧ (∀ b0 off n data, bar n data → fn ≠ 0 →
          (∀ q, fnPolder s fn = some q → (getPolder s q).state ≠ 2) →
          (data = none → sends (.hostBar2Access fn ⟨b0, off⟩ n data) s (.hostData fn.toNat false []))
            ∧ (data.isSome = true → exec (.hostBar2Access fn ⟨b0, off⟩ n data) s = .next s))
      ∧ (∀ off n segs q, (fn = 0 ∧ q = 0 ∧ segs = pfSegs off n
            ∨ fn ≠ 0 ∧ fnPolder s fn = some q ∧ (getPolder s q).state = 2
              ∧ ((getPolder s q).tdi ≠ 2 ∨ s.ide.getD fn.toNat false = true) ∧ off + n ≤ 2 ^ 36) →
          (∀ x ∈ segs, pageHeld s x.pa = false) →
          (bar n none → segsPoisoned s segs = false → (fn = 0 → pfOk s false off n = true) →
              (fn ≠ 0 → gpaSegs s q false off n = .ok segs) →
              sends (.hostBar2Access fn ⟨false, off⟩ n none) (noteAccess s (farAgent q) .read segs)
                (.hostData fn.toNat true (segsRead s segs)))
            ∧ (∀ bs, bar n (some bs) → (fn = 0 → pfOk s true off n = true) →
              (fn ≠ 0 → gpaSegs s q true off n = .ok segs) →
              exec (.hostBar2Access fn ⟨false, off⟩ n (some bs)) s =
                .next (segsWrite (noteAccess s (farAgent q) .write segs) (farAgent q) segs bs)))
      ∧ (∀ off n, bar n none → fn = 0 →
          (off = 0x1008 → n = 8 → sends (.hostBar2Access fn ⟨true, off⟩ n none) s (.hostData 0 true (leBytes s.bootstat.toNat 8)))
            ∧ (0x1010 ≤ off → off + n ≤ 65536 →
              sends (.hostBar2Access fn ⟨true, off⟩ n none) s (.hostData 0 true (List.replicate n 0))))
      ∧ (∀ bs, bar 8 (some bs) →
          exec (.hostBar2Access 0 ⟨true, 0x1000⟩ 8 (some bs)) s = exec (.bootrec (BitVec.ofNat 64 (natAt bs 0 8))) s)
      ∧ (∀ n bs, bar 16 (some bs) → n < 64 → fn = 0 → 0 < s.fns.length → (getFn s 0).enable = false →
          ∃ t, exec (.hostBar2Access fn ⟨true, 16 * n⟩ 16 (some bs)) s = .next t
            ∧ msixEntry (getFn t 0) n = msixOf bs (msixEntry (getFn s 0) n).pend ∧ t.outbox = s.outbox
            ∧ ∀ m, m ≠ n → msixEntry (getFn t 0) m = msixEntry (getFn s 0) m)
      ∧ sends .configurationRequest s (.config (s.startup < 5))
      ∧ (∀ n, n < 64 → fn.toNat < s.fns.length → (getFn s fn.toNat).enable = true → (getFn s fn.toNat).fmask = false →
          (∀ m, m < 64 → m ≠ n → (msixEntry (getFn s fn.toNat) m).pend = false) →
          ∃ t, exec (.msixUnmask fn n) s = .next t ∧ (msixEntry (getFn t fn.toNat) n).mask = false
            ∧ (msixEntry (getFn t fn.toNat) n).pend = false ∧ t.outbox = s.outbox ++
              (if (msixEntry (getFn s fn.toNat) n).pend then
                [.msi fn.toNat (msixEntry (getFn s fn.toNat) n).addr (msixEntry (getFn s fn.toNat) n).data] else []))
      ∧ (s.startup = 5 → s.spdm ≠ [] → fn = 0 → ∀ i ∈ [Instr.getTdispVersion fn, .getTdispCapabilities fn,
            .lockInterfaceRequest fn, .getDeviceInterfaceReport fn, .getDeviceInterfaceState fn, .startInterfaceRequest fn,
            .stopInterfaceRequest fn], sends i s (.tdisp 0 1 []))
      ∧ (secured →
          sends (.getTdispVersion fn) s (.tdisp fn.toNat 0 [0x10]) ∧ sends (.getTdispCapabilities fn) s (.tdisp fn.toNat 0 [0x7F])
            ∧ sends (.getDeviceInterfaceState fn) s (.tdisp fn.toNat 0 [(fnTdi s fn).setWidth 64])
            ∧ (fnPolder s fn = some p →
              sends (.getDeviceInterfaceReport fn) s (.tdisp fn.toNat 0 (reportWords s p))
                ∧ ((getPolder s p).state = 2 → (getPolder s p).tdi = 0 →
                    sends (.lockInterfaceRequest fn) (tdi 1) (.tdisp fn.toNat 0 []))
                ∧ ((getPolder s p).tdi ≠ 0 → sends (.lockInterfaceRequest fn) s (.tdisp fn.toNat 1 []))
                ∧ ((getPolder s p).tdi = 1 → sends (.startInterfaceRequest fn) (tdi 2) (.tdisp fn.toNat 0 []))
                ∧ ((getPolder s p).tdi ≠ 1 → sends (.startInterfaceRequest fn) s (.tdisp fn.toNat 1 []))
                ∧ ((getPolder s p).state = 1 → (getPolder s p).tdi ≠ 2 →
                    sends (.stopInterfaceRequest fn) (tdi 0) (.tdisp fn.toNat 0 []))
                ∧ ((getPolder s p).state = 3 → sends (.stopInterfaceRequest fn) s (.tdisp fn.toNat 1 []))
                ∧ ((getPolder s p).state = 2 → p.toNat < s.polders.length → ∃ t, exec (.stopInterfaceRequest fn) s = .next t
                    ∧ (getPolder t p).state = 3 ∧ (getPolder t p).tdi = 0 ∧ (getPolder t p).stopping = true)))
      ∧ (∀ n, s.startup = 5 → s.spdm ≠ [] → n < 17 → exec (.ideKm n) s = .next { s with ide := s.ide.set n true })
      ∧ (∀ n, n < 17 → s.ide.getD n false = true → s.polders.length = 16 → ∃ t, exec (.ideIntegrityFailure n) s = .next t
          ∧ t.ide = s.ide.set n false
          ∧ ∀ q, (getPolder t q).tdi =
              if (getPolder s q).state ≠ 0 ∧ (getPolder s q).vf ≠ 0
                ∧ (n = (getPolder s q).vf.toNat ∨ n = 16 ∧ s.ide.getD (getPolder s q).vf.toNat false = false) then 3
              else (getPolder s q).tdi)
      ∧ (∀ l, s.startup = 5 → l.length = 6 →
          (l.all id = true → sends (.negotiateAlgorithms l) { s with spdmReady := true } (.spdm 0 []))
            ∧ (l.all id = false → sends (.negotiateAlgorithms l) s (.spdm 1 [])))
      ∧ (∀ n, s.startup = 5 →
          (s.spdmReady = false → sends (.spdmSecuredSession n) s (.spdm 4 []))
            ∧ (s.spdmReady = true → 5 ≤ n → sends (.spdmSecuredSession n) s (.spdm 1 []))
            ∧ (s.spdmReady = true → n < 5 → slotPresent s n = false → sends (.spdmSecuredSession n) s (.spdm 5 []))
            ∧ (s.spdmReady = true → n < 5 → slotPresent s n = true →
              sends (.spdmSecuredSession n) { s with spdm := n :: s.spdm.filter (· != n) }
                (.spdm 0 (BitVec.ofNat 64 n :: (certChain n).flatMap fun b => b.map fun x => x.setWidth 64))))
      ∧ (∀ n i sg, s.startup = 5 →
          (s.spdmReady = false → sends (.getMeasurements n i sg) s (.spdm 4 []))
            ∧ (s.spdmReady = true → n < 5 → slotPresent s n = true → i ∈ slotIndices n →
              sends (.getMeasurements n i sg) s (.spdm 0 (measureBlock s i
                ++ if sg then Config.slotSignature n (measureBlock s i) else []))))
end

