-- ==== Sys2Proof/Laws/Encoding.lean ====
section
/-! SUPPORT. Reading the fields of an encoded word back: operand specifiers, codes, modifier fields and operand classes (R96
to R99, R318 to R320). The round trip of every instruction in PerInstr rests on these. -/

namespace Sys2Proof.Laws

/-- The bits of an append above its low part. -/
@[simp] theorem extract_append_ge {a b : Nat} (x : BitVec a) (y : BitVec b) (i n : Nat) (h : b ≤ i) :
    (no_index (x ++ y)).extractLsb' i n = x.extractLsb' (i - b) n := by
  simp [BitVec.extractLsb'_append_eq_ite, Nat.not_lt.mpr h]

/-- The bits of an append within its low part. -/
@[simp] theorem extract_append_le {a b : Nat} (x : BitVec a) (y : BitVec b) (i n : Nat) (h : i + n ≤ b) :
    (no_index (x ++ y)).extractLsb' i n = y.extractLsb' i n := by
  by_cases hn : n = 0
  · subst hn; exact Subsingleton.elim _ _
  · have h' : i < b := by omega
    simp [BitVec.extractLsb'_append_eq_ite, h', h]

/-- Bits that lie across the parts of an append. -/
theorem extract_append_both {a b : Nat} (x : BitVec a) (y : BitVec b) (n : Nat) (h : a + b = n) :
    (no_index (x ++ y)).extractLsb' 0 n = (x ++ y).cast h := by
  subst h; simp

@[simp] theorem bit_append_ge {a b : Nat} (x : BitVec a) (y : BitVec b) (i : Nat) (h : b ≤ i) :
    bit (no_index (x ++ y)) i = bit x (i - b) := by
  simp [bit, BitVec.getLsbD_append, Nat.not_lt.mpr h]

@[simp] theorem bit_append_lt {a b : Nat} (x : BitVec a) (y : BitVec b) (i : Nat) (h : i < b) :
    bit (no_index (x ++ y)) i = bit y i := by
  simp [bit, BitVec.getLsbD_append, h]

@[simp] theorem bit_ofBool (u : Bool) : bit (BitVec.ofBool u) 0 = u := by cases u <;> rfl

@[simp] theorem bit_one : bit (1#1) 0 = true := rfl
@[simp] theorem bit_zero {n i : Nat} : bit (0#n) i = false := by simp [bit]

/-! Operand classes -/

@[simp] theorem rs_of_pack (r : RS) : RS.of r.pack = r := by
  cases r
  simp only [RS.of, RS.pack]
  simp (disch := decide) only [extract_append_ge, extract_append_le, BitVec.extractLsb'_eq_self, BitVec.cast_eq,
      Nat.reduceSub, Nat.reduceAdd]

@[simp] theorem ri_of_pack (r : RI) : RI.of r.pack = r := by
  cases r
  simp only [RI.of, RI.pack]
  simp (disch := decide) only [extract_append_ge, extract_append_le, BitVec.extractLsb'_eq_self, BitVec.cast_eq,
      Nat.reduceSub, Nat.reduceAdd]

@[simp] theorem rk_of_pack (r : RK) : RK.of r.pack = r := by
  cases r
  simp only [RK.of, RK.pack]
  simp (disch := decide) only [extract_append_ge, extract_append_le, BitVec.extractLsb'_eq_self, BitVec.cast_eq,
      Nat.reduceSub, Nat.reduceAdd]

@[simp] theorem rm_of_pack (r : RM) : RM.of r.pack = r := by
  cases r
  simp only [RM.of, RM.pack]
  simp (disch := decide) only [extract_append_ge, extract_append_le, BitVec.extractLsb'_eq_self, BitVec.cast_eq,
      Nat.reduceSub, Nat.reduceAdd]

@[simp] theorem rb_of_pack (r : RB) : RB.of r.pack = r := by
  cases r
  simp only [RB.of, RB.pack]
  simp (disch := decide) only [extract_append_ge, extract_append_le, BitVec.extractLsb'_eq_self, BitVec.cast_eq,
      Nat.reduceSub, Nat.reduceAdd]

/-! Operand specifiers (R99) -/

@[simp] theorem sSpec_sEnc (r : SReg) : sSpec (sEnc r) = some r := by revert r; decide
@[simp] theorem vSpec_vEnc (r : VReg) : vSpec (vEnc r) = some r := by revert r; decide
@[simp] theorem qSpec_qEnc (r : QReg) : qSpec (qEnc r) = some r := by revert r; decide
@[simp] theorem gSpec_gEnc (r : GReg) : gSpec (gEnc r) = some r := by revert r; decide
@[simp] theorem tSpec_tEnc (r : TokQ) : tSpec (tEnc r) = some r := by revert r; decide
@[simp] theorem pSpec_pEnc (r : Pair) : pSpec (pEnc r) = some r := by revert r; decide
@[simp] theorem vSpec_sEnc (r : SReg) : vSpec (sEnc r) = none := by revert r; decide
@[simp] theorem vSpec_pEnc (r : Pair) : vSpec (pEnc r) = none := by revert r; decide
@[simp] theorem sEnc_ne_any (r : SReg) : ¬ sEnc r = 0xF0#8 := by revert r; decide

@[simp] theorem vsSpec_vsEnc (x : VSrc) : vsSpec (vsEnc x) = some x := by
  cases x <;> simp [vsSpec, vsEnc, vSpec_vEnc, vSpec_sEnc, sSpec_sEnc]

@[simp] theorem aSpec_aEnc (x : AOp) : aSpec (aEnc x) = some x := by
  cases x <;> simp [aSpec, aEnc, vSpec_vEnc, vSpec_pEnc, pSpec_pEnc]

@[simp] theorem laneSpec_laneEnc (x : Option QReg) : laneSpec (laneEnc x) = some x := by
  cases x with
  | none => rfl
  | some q => revert q; decide

@[simp] theorem zero_zero {n : Nat} : zero (0#n) = some () := by simp [zero]
@[simp] theorem need_true : need true = some () := rfl

/-! Codes -/

@[simp] theorem scopeOf_scopeCode (x : Scope) : Machine.scopeOf (Machine.scopeCode x) = some x := by cases x <;> rfl
@[simp] theorem ordOf_ordCode (x : MOrd) : Machine.ordOf (Machine.ordCode x) = some x := by cases x <;> rfl
@[simp] theorem fenceOf_fenceCode (x : FenceOrd) : Machine.fenceOf (Machine.fenceCode x) = some x := by cases x <;> rfl
@[simp] theorem sizeOf2_sizeCode (x : Size) : Machine.sizeOf2 (Machine.sizeCode x) = some x := by cases x <;> rfl
@[simp] theorem condOf_condCode (x : Cond) : Machine.condOf (Machine.condCode x) = some x := by cases x <;> rfl
@[simp] theorem atomOf_atomCode (x : AtomOp) : Machine.atomOf (Machine.atomCode x) = some x := by cases x <;> rfl
@[simp] theorem fmtOf_fmtCode (x : Fmt) : Machine.fmtOf (Machine.fmtCode x) = some x := by cases x <;> rfl
@[simp] theorem roundOf_roundCode (x : Round) : Machine.roundOf (Machine.roundCode x) = some x := by cases x <;> rfl
@[simp] theorem moviOf_moviCode (x : MoviMode) : Machine.moviOf (Machine.moviCode x) = some x := by cases x <;> rfl
@[simp] theorem ldkOf_ldkCode (x : LdkForm) : Machine.ldkOf (Machine.ldkCode x) = some x := by cases x <;> rfl
@[simp] theorem prefOf_prefCode (x : PrefKind) : Machine.prefOf (Machine.prefCode x) = some x := by cases x <;> rfl
@[simp] theorem cmntOf_cmntCode (x : CmntKind) : Machine.cmntOf (Machine.cmntCode x) = some x := by cases x <;> rfl
@[simp] theorem chunkOf_chunkCode (x : Chunk) : Machine.chunkOf (Machine.chunkCode x) = some x := by cases x <;> rfl
@[simp] theorem actOf_actCode (x : ActFmt) : Machine.actOf (Machine.actCode x) = some x := by cases x <;> rfl
@[simp] theorem wfmtOf_wfmtCode (x : WFmt) : Machine.wfmtOf (Machine.wfmtCode x) = some x := by cases x <;> rfl
@[simp] theorem formOf_formCode (x : MForm) : Machine.formOf (Machine.formCode x) = some x := by cases x <;> rfl
@[simp] theorem vcondOf_vcondCode (x : VCond) : Machine.vcondOf (Machine.vcondCode x) = some x := by cases x <;> rfl
@[simp] theorem redOf_redCode (x : RedOp) : Machine.redOf (Machine.redCode x) = some x := by cases x <;> rfl
@[simp] theorem redxOf_redxCode (x : RedxOp) : Machine.redxOf (Machine.redxCode x) = some x := by cases x <;> rfl
@[simp] theorem sfnOf_sfnCode (x : Sfn) : Machine.sfnOf (Machine.sfnCode x) = some x := by cases x <;> rfl
@[simp] theorem sysOf_sysCode (x : SysReg) : Machine.sysOf (Machine.sysCode x) = some x := by cases x <;> rfl

@[simp] theorem extract_self {n : Nat} (x : BitVec n) : x.extractLsb' 0 n = x := by simp

/-- A word whose fields decode to a well-formed instruction. -/
theorem decoded {r : Raw} {i : Instr} {x : Option Instr} (hr : r.rsv = false) (hd : decodeOp r.opc r.h r.opnd = some x)
    (hx : x = some i) (hw : WellFormed i) : decodeRaw r = .ok i := by
  simp [decodeRaw, hr, hd, hx, show Machine.checkOne i = true from hw]

/-! The rows of the opcode map (R313) -/

theorem row_add (h : Hdr) (o : BitVec 64) : decodeOp 0x002#10 h o = some (decSSS (.add h) (.of o)) := rfl
theorem row_addi (h : Hdr) (o : BitVec 64) : decodeOp 0x001#10 h o = some (decSSI (.addi h) (.of o)) := rfl
theorem row_sub (h : Hdr) (o : BitVec 64) : decodeOp 0x003#10 h o = some (decSSS (.sub h) (.of o)) := rfl
theorem row_mul (h : Hdr) (o : BitVec 64) : decodeOp 0x004#10 h o = some (decSSS (.mul h) (.of o)) := rfl
theorem row_mulh (h : Hdr) (o : BitVec 64) : decodeOp 0x005#10 h o = some (decSSSU (.mulh h) (.of o)) := rfl
theorem row_div (h : Hdr) (o : BitVec 64) : decodeOp 0x006#10 h o = some (decSSSU (.div h) (.of o)) := rfl
theorem row_rem (h : Hdr) (o : BitVec 64) : decodeOp 0x007#10 h o = some (decSSSU (.rem h) (.of o)) := rfl
theorem row_and (h : Hdr) (o : BitVec 64) : decodeOp 0x008#10 h o = some (decSSS (.and h) (.of o)) := rfl
theorem row_andImm (h : Hdr) (o : BitVec 64) : decodeOp 0x009#10 h o = some (decSSI (.andImm h) (.of o)) := rfl
theorem row_or (h : Hdr) (o : BitVec 64) : decodeOp 0x00A#10 h o = some (decSSS (.or h) (.of o)) := rfl
theorem row_orImm (h : Hdr) (o : BitVec 64) : decodeOp 0x00B#10 h o = some (decSSI (.orImm h) (.of o)) := rfl
theorem row_xor (h : Hdr) (o : BitVec 64) : decodeOp 0x00C#10 h o = some (decSSS (.xor h) (.of o)) := rfl
theorem row_xorImm (h : Hdr) (o : BitVec 64) : decodeOp 0x00D#10 h o = some (decSSI (.xorImm h) (.of o)) := rfl
theorem row_andn (h : Hdr) (o : BitVec 64) : decodeOp 0x00E#10 h o = some (decSSS (.andn h) (.of o)) := rfl
theorem row_shl (h : Hdr) (o : BitVec 64) : decodeOp 0x00F#10 h o = some (decSSS (.shl h) (.of o)) := rfl
theorem row_shlImm (h : Hdr) (o : BitVec 64) : decodeOp 0x010#10 h o = some (decShift (.shlImm h) (.of o)) := rfl
theorem row_shr (h : Hdr) (o : BitVec 64) : decodeOp 0x011#10 h o = some (decSSS (.shr h) (.of o)) := rfl
theorem row_shrImm (h : Hdr) (o : BitVec 64) : decodeOp 0x012#10 h o = some (decShift (.shrImm h) (.of o)) := rfl
theorem row_sar (h : Hdr) (o : BitVec 64) : decodeOp 0x013#10 h o = some (decSSS (.sar h) (.of o)) := rfl
theorem row_sarImm (h : Hdr) (o : BitVec 64) : decodeOp 0x014#10 h o = some (decShift (.sarImm h) (.of o)) := rfl
theorem row_min (h : Hdr) (o : BitVec 64) : decodeOp 0x015#10 h o = some (decSSSU (.min h) (.of o)) := rfl
theorem row_max (h : Hdr) (o : BitVec 64) : decodeOp 0x016#10 h o = some (decSSSU (.max h) (.of o)) := rfl
theorem row_clz (h : Hdr) (o : BitVec 64) : decodeOp 0x017#10 h o = some (decSS (.clz h) (.of o)) := rfl
theorem row_popc (h : Hdr) (o : BitVec 64) : decodeOp 0x018#10 h o = some (decSS (.popc h) (.of o)) := rfl
theorem row_brev (h : Hdr) (o : BitVec 64) : decodeOp 0x019#10 h o = some (decSS (.brev h) (.of o)) := rfl
theorem row_bfx (h : Hdr) (o : BitVec 64) : decodeOp 0x01A#10 h o = some (decBfx h (.of o)) := rfl
theorem row_bfi (h : Hdr) (o : BitVec 64) : decodeOp 0x01B#10 h o = some (decBfi h (.of o)) := rfl
theorem row_sel (h : Hdr) (o : BitVec 64) : decodeOp 0x01C#10 h o = some (decSel h (.of o)) := rfl
theorem row_mov (h : Hdr) (o : BitVec 64) : decodeOp 0x01D#10 h o = some (decSS (.mov h) (.of o)) := rfl
theorem row_movi (h : Hdr) (o : BitVec 64) : decodeOp 0x01E#10 h o = some (decMovi h (.of o)) := rfl
theorem row_ldk (h : Hdr) (o : BitVec 64) : decodeOp 0x01F#10 h o = some (decLdk h (.of o)) := rfl
theorem row_cmp (h : Hdr) (o : BitVec 64) : decodeOp 0x020#10 h o = some (decCmp h (.of o)) := rfl
theorem row_cmpImm (h : Hdr) (o : BitVec 64) : decodeOp 0x021#10 h o = some (decCmpImm h (.of o)) := rfl
theorem row_gand (h : Hdr) (o : BitVec 64) : decodeOp 0x022#10 h o = some (decGuard (.gand h) (.of o)) := rfl
theorem row_gor (h : Hdr) (o : BitVec 64) : decodeOp 0x023#10 h o = some (decGuard (.gor h) (.of o)) := rfl
theorem row_wfld (h : Hdr) (o : BitVec 64) : decodeOp 0x024#10 h o = some (decWfld h (.of o)) := rfl
theorem row_bra (h : Hdr) (o : BitVec 64) : decodeOp 0x080#10 h o = some (decBra h (.of o)) := rfl
theorem row_brx (h : Hdr) (o : BitVec 64) : decodeOp 0x081#10 h o = some (decS (.brx h) (.of o)) := rfl
theorem row_call (h : Hdr) (o : BitVec 64) : decodeOp 0x082#10 h o = some (decLink (.call h) (.of o)) := rfl
theorem row_ret (h : Hdr) (o : BitVec 64) : decodeOp 0x083#10 h o = some (decS (.ret h) (.of o)) := rfl
theorem row_loop (h : Hdr) (o : BitVec 64) : decodeOp 0x084#10 h o = some (decLink (.loop h) (.of o)) := rfl
theorem row_bkt (h : Hdr) (o : BitVec 64) : decodeOp 0x085#10 h o = some (decBkt h (.of o)) := rfl
theorem row_endTask (h : Hdr) (o : BitVec 64) : decodeOp 0x086#10 h o = some (dec0 (.endTask h) (.of o)) := rfl
theorem row_yield (h : Hdr) (o : BitVec 64) : decodeOp 0x087#10 h o = some (dec0 (.yield h) (.of o)) := rfl
theorem row_trap (h : Hdr) (o : BitVec 64) : decodeOp 0x088#10 h o = some (decTrap h (.of o)) := rfl
theorem row_tret (h : Hdr) (o : BitVec 64) : decodeOp 0x089#10 h o = some (dec0 (.tret h) (.of o)) := rfl
theorem row_nop (h : Hdr) (o : BitVec 64) : decodeOp 0x08A#10 h o = some (dec0 (.nop h) (.of o)) := rfl
theorem row_tkpost (h : Hdr) (o : BitVec 64) : decodeOp 0x090#10 h o = some (decTok (.tkpost h) (.of o)) := rfl
theorem row_tkwait (h : Hdr) (o : BitVec 64) : decodeOp 0x091#10 h o = some (decTok (.tkwait h) (.of o)) := rfl
theorem row_tkqry (h : Hdr) (o : BitVec 64) : decodeOp 0x092#10 h o = some (decTkqry h (.of o)) := rfl
theorem row_bar (h : Hdr) (o : BitVec 64) : decodeOp 0x093#10 h o = some (decBar (.bar h) (.of o)) := rfl
theorem row_cbar (h : Hdr) (o : BitVec 64) : decodeOp 0x094#10 h o = some (decBar (.cbar h) (.of o)) := rfl
theorem row_fence (h : Hdr) (o : BitVec 64) : decodeOp 0x095#10 h o = some (decFence h (.of o)) := rfl
theorem row_ld (h : Hdr) (o : BitVec 64) : decodeOp 0x100#10 h o = some (decLd h (.of o)) := rfl
theorem row_st (h : Hdr) (o : BitVec 64) : decodeOp 0x101#10 h o = some (decSt h (.of o)) := rfl
theorem row_atom (h : Hdr) (o : BitVec 64) : decodeOp 0x102#10 h o = some (decAtom (.atom h) (.of o)) := rfl
theorem row_red (h : Hdr) (o : BitVec 64) : decodeOp 0x103#10 h o = some (decAtom (.red h) (.of o)) := rfl
theorem row_pref (h : Hdr) (o : BitVec 64) : decodeOp 0x104#10 h o = some (decPref h (.of o)) := rfl
theorem row_cmnt (h : Hdr) (o : BitVec 64) : decodeOp 0x105#10 h o = some (decCmnt h (.of o)) := rfl
theorem row_vld (h : Hdr) (o : BitVec 64) : decodeOp 0x108#10 h o = some (decVmem (.vld h) (.of o)) := rfl
theorem row_vldScratchpad (h : Hdr) (o : BitVec 64) : decodeOp 0x109#10 h o = some (decVldSp h (.of o)) := rfl
theorem row_vldAcc (h : Hdr) (o : BitVec 64) : decodeOp 0x10A#10 h o = some (decVldAcc h (.of o)) := rfl
theorem row_vst (h : Hdr) (o : BitVec 64) : decodeOp 0x10C#10 h o = some (decVmem (.vst h) (.of o)) := rfl
theorem row_vstScratchpad (h : Hdr) (o : BitVec 64) : decodeOp 0x10D#10 h o = some (decVstSp h (.of o)) := rfl
theorem row_vldx (h : Hdr) (o : BitVec 64) : decodeOp 0x110#10 h o = some (decGather 1 (.vldx h) (.of o)) := rfl
theorem row_vstx (h : Hdr) (o : BitVec 64) : decodeOp 0x111#10 h o = some (decGather 2 (.vstx h) (.of o)) := rfl
theorem row_vredx (h : Hdr) (o : BitVec 64) : decodeOp 0x112#10 h o = some (decVredx h (.of o)) := rfl
theorem row_tld (h : Hdr) (o : BitVec 64) : decodeOp 0x180#10 h o = some (decBlock (.tld h) (.of o)) := rfl
theorem row_tldRows (h : Hdr) (o : BitVec 64) : decodeOp 0x181#10 h o = some (decRows (.tldRows h) (.of o)) := rfl
theorem row_tldAdp (h : Hdr) (o : BitVec 64) : decodeOp 0x187#10 h o = some (decRows (.tldAdp h) (.of o)) := rfl
theorem row_tst (h : Hdr) (o : BitVec 64) : decodeOp 0x182#10 h o = some (decBlock (.tst h) (.of o)) := rfl
theorem row_tscat (h : Hdr) (o : BitVec 64) : decodeOp 0x183#10 h o = some (decRows (.tscat h) (.of o)) := rfl
theorem row_scopy (h : Hdr) (o : BitVec 64) : decodeOp 0x184#10 h o = some (decScopy h (.of o)) := rfl
theorem row_rrot (h : Hdr) (o : BitVec 64) : decodeOp 0x185#10 h o = some (decRrot h (.of o)) := rfl
theorem row_wld (h : Hdr) (o : BitVec 64) : decodeOp 0x186#10 h o = some (decWld h (.of o)) := rfl
theorem row_mma (h : Hdr) (o : BitVec 64) : decodeOp 0x200#10 h o = some (decMma (.mma h) (.of o)) := rfl
theorem row_mmas (h : Hdr) (o : BitVec 64) : decodeOp 0x201#10 h o = some (decMma (.mmas h) (.of o)) := rfl
theorem row_mmag (h : Hdr) (o : BitVec 64) : decodeOp 0x202#10 h o = some (decMmag h (.of o)) := rfl
theorem row_mzero (h : Hdr) (o : BitVec 64) : decodeOp 0x203#10 h o = some (decMzero h (.of o)) := rfl
theorem row_mstat (h : Hdr) (o : BitVec 64) : decodeOp 0x204#10 h o = some (decMstat h (.of o)) := rfl
theorem row_vadd (h : Hdr) (o : BitVec 64) : decodeOp 0x280#10 h o = some (decV3 (.vadd h) (.of o)) := rfl
theorem row_vsub (h : Hdr) (o : BitVec 64) : decodeOp 0x281#10 h o = some (decV3 (.vsub h) (.of o)) := rfl
theorem row_vmul (h : Hdr) (o : BitVec 64) : decodeOp 0x282#10 h o = some (decV3 (.vmul h) (.of o)) := rfl
theorem row_vfma (h : Hdr) (o : BitVec 64) : decodeOp 0x283#10 h o = some (decVfma h (.of o)) := rfl
theorem row_vmin (h : Hdr) (o : BitVec 64) : decodeOp 0x284#10 h o = some (decV3 (.vmin h) (.of o)) := rfl
theorem row_vmax (h : Hdr) (o : BitVec 64) : decodeOp 0x285#10 h o = some (decV3 (.vmax h) (.of o)) := rfl
theorem row_vabs (h : Hdr) (o : BitVec 64) : decodeOp 0x286#10 h o = some (decV2 (.vabs h) (.of o)) := rfl
theorem row_vneg (h : Hdr) (o : BitVec 64) : decodeOp 0x287#10 h o = some (decV2 (.vneg h) (.of o)) := rfl
theorem row_vand (h : Hdr) (o : BitVec 64) : decodeOp 0x288#10 h o = some (decV3 (.vand h) (.of o)) := rfl
theorem row_vor (h : Hdr) (o : BitVec 64) : decodeOp 0x289#10 h o = some (decV3 (.vor h) (.of o)) := rfl
theorem row_vxor (h : Hdr) (o : BitVec 64) : decodeOp 0x28A#10 h o = some (decV3 (.vxor h) (.of o)) := rfl
theorem row_vshl (h : Hdr) (o : BitVec 64) : decodeOp 0x28B#10 h o = some (decV3 (.vshl h) (.of o)) := rfl
theorem row_vshr (h : Hdr) (o : BitVec 64) : decodeOp 0x28C#10 h o = some (decV3 (.vshr h) (.of o)) := rfl
theorem row_vcmp (h : Hdr) (o : BitVec 64) : decodeOp 0x28D#10 h o = some (decVcmp h (.of o)) := rfl
theorem row_vsel (h : Hdr) (o : BitVec 64) : decodeOp 0x28E#10 h o = some (decVsel h (.of o)) := rfl
theorem row_vpcnt (h : Hdr) (o : BitVec 64) : decodeOp 0x28F#10 h o = some (decVpcnt h (.of o)) := rfl
theorem row_vbtst (h : Hdr) (o : BitVec 64) : decodeOp 0x290#10 h o = some (decVbtst h (.of o)) := rfl
theorem row_vred (h : Hdr) (o : BitVec 64) : decodeOp 0x291#10 h o = some (decRed (.vred h) (.of o)) := rfl
theorem row_vscan (h : Hdr) (o : BitVec 64) : decodeOp 0x292#10 h o = some (decRed (.vscan h) (.of o)) := rfl
theorem row_vcvt (h : Hdr) (o : BitVec 64) : decodeOp 0x300#10 h o = some (decVcvt h (.of o)) := rfl
theorem row_vpack (h : Hdr) (o : BitVec 64) : decodeOp 0x301#10 h o = some (decPack (.vpack h) (.of o)) := rfl
theorem row_vunpk (h : Hdr) (o : BitVec 64) : decodeOp 0x302#10 h o = some (decPack (.vunpk h) (.of o)) := rfl
theorem row_vsfn (h : Hdr) (o : BitVec 64) : decodeOp 0x303#10 h o = some (decVsfn h (.of o)) := rfl
theorem row_vperm (h : Hdr) (o : BitVec 64) : decodeOp 0x304#10 h o = some (decVperm h (.of o)) := rfl
theorem row_vbcast (h : Hdr) (o : BitVec 64) : decodeOp 0x305#10 h o = some (decVbcast h (.of o)) := rfl
theorem row_vidx (h : Hdr) (o : BitVec 64) : decodeOp 0x306#10 h o = some (decVidx h (.of o)) := rfl
theorem row_vmovs (h : Hdr) (o : BitVec 64) : decodeOp 0x307#10 h o = some (decVmovs h (.of o)) := rfl
theorem row_vcprs (h : Hdr) (o : BitVec 64) : decodeOp 0x308#10 h o = some (decV2 (.vcprs h) (.of o)) := rfl
theorem row_vxpnd (h : Hdr) (o : BitVec 64) : decodeOp 0x309#10 h o = some (decV2 (.vxpnd h) (.of o)) := rfl
theorem row_qand (h : Hdr) (o : BitVec 64) : decodeOp 0x30A#10 h o = some (decQ3 (.qand h) (.of o)) := rfl
theorem row_qor (h : Hdr) (o : BitVec 64) : decodeOp 0x30B#10 h o = some (decQ3 (.qor h) (.of o)) := rfl
theorem row_qnot (h : Hdr) (o : BitVec 64) : decodeOp 0x30C#10 h o = some (decQnot h (.of o)) := rfl
theorem row_tsub (h : Hdr) (o : BitVec 64) : decodeOp 0x380#10 h o = some (decSSS (.tsub h) (.of o)) := rfl
theorem row_tcan (h : Hdr) (o : BitVec 64) : decodeOp 0x381#10 h o = some (decTcan h (.of o)) := rfl
theorem row_dqpush (h : Hdr) (o : BitVec 64) : decodeOp 0x382#10 h o = some (decSS (.dqpush h) (.of o)) := rfl
theorem row_dqpop (h : Hdr) (o : BitVec 64) : decodeOp 0x383#10 h o = some (decSS (.dqpop h) (.of o)) := rfl
theorem row_dqstl (h : Hdr) (o : BitVec 64) : decodeOp 0x384#10 h o = some (decDqstl h (.of o)) := rfl
theorem row_watch (h : Hdr) (o : BitVec 64) : decodeOp 0x385#10 h o = some (decSS (.watch h) (.of o)) := rfl
theorem row_unwatch (h : Hdr) (o : BitVec 64) : decodeOp 0x386#10 h o = some (decSS (.unwatch h) (.of o)) := rfl
theorem row_resq (h : Hdr) (o : BitVec 64) : decodeOp 0x387#10 h o = some (decResq h (.of o)) := rfl
theorem row_carve (h : Hdr) (o : BitVec 64) : decodeOp 0x388#10 h o = some (decSS (.carve h) (.of o)) := rfl
theorem row_sysrd (h : Hdr) (o : BitVec 64) : decodeOp 0x389#10 h o = some (decSysrd h (.of o)) := rfl
theorem row_syswr (h : Hdr) (o : BitVec 64) : decodeOp 0x38A#10 h o = some (decSyswr h (.of o)) := rfl
theorem row_tlbinv (h : Hdr) (o : BitVec 64) : decodeOp 0x38B#10 h o = some (decTlbinv h (.of o)) := rfl
theorem row_psdone (h : Hdr) (o : BitVec 64) : decodeOp 0x38C#10 h o = some (decPsdone h (.of o)) := rfl
theorem row_rdcnt (h : Hdr) (o : BitVec 64) : decodeOp 0x38D#10 h o = some (decRdcnt h (.of o)) := rfl
theorem row_rdtime (h : Hdr) (o : BitVec 64) : decodeOp 0x38E#10 h o = some (decS (.rdtime h) (.of o)) := rfl
theorem row_notify (h : Hdr) (o : BitVec 64) : decodeOp 0x38F#10 h o = some (decSS (.notify h) (.of o)) := rfl

/-! The other way round: a field that reads as something is its code -/

/-- Two neighbouring cuts of a word, joined. -/
theorem extract_join {n : Nat} (x : BitVec n) (i j a b : Nat) (h : j = i + b) :
    (no_index (x.extractLsb' j a ++ x.extractLsb' i b)) = x.extractLsb' i (a + b) := by
  subst h
  apply BitVec.eq_of_getLsbD_eq
  intro k hk
  simp only [BitVec.getLsbD_append, BitVec.getLsbD_extractLsb']
  split
  · simp_all
  · rename_i h1
    have : i + b + (k - b) = i + k := by omega
    simp [this, hk, show k - b < a by omega]

theorem sSpec_eq {b : BitVec 8} {r : SReg} (h : sSpec b = some r) : b = sEnc r := by
  unfold sSpec at h; split at h
  · cases h; revert b; decide
  · cases h
theorem vSpec_eq {b : BitVec 8} {r : VReg} (h : vSpec b = some r) : b = vEnc r := by
  unfold vSpec at h; split at h
  · cases h; revert b; decide
  · cases h
theorem qSpec_eq {b : BitVec 8} {r : QReg} (h : qSpec b = some r) : b = qEnc r := by
  unfold qSpec at h; split at h
  · cases h; revert b; decide
  · cases h
theorem gSpec_eq {b : BitVec 8} {r : GReg} (h : gSpec b = some r) : b = gEnc r := by
  unfold gSpec at h; split at h
  · cases h; revert b; decide
  · cases h
theorem tSpec_eq {b : BitVec 8} {r : TokQ} (h : tSpec b = some r) : b = tEnc r := by
  unfold tSpec at h; split at h
  · cases h; revert b; decide
  · cases h
theorem pSpec_eq {b : BitVec 8} {r : Pair} (h : pSpec b = some r) : b = pEnc r := by
  unfold pSpec at h; split at h
  · cases h; revert b; decide
  · cases h
theorem zero_eq {n : Nat} {b : BitVec n} (h : zero b = some ()) : b = 0 := by
  unfold zero at h; split at h <;> simp_all
theorem need_eq {b : Bool} (h : need b = some ()) : b = true := by cases b <;> simp_all [need]
theorem readCode_eq {α : Type} {n : Nat} {code : α → BitVec n} {l : List α} {b : BitVec n} {x : α}
    (h : Machine.readCode code l b = some x) : code x = b := by
  have := List.find?_some h; simpa using this
theorem rs_pack_of (o : BitVec 64) : (RS.of o).pack = o := by
  simp (disch := decide) only [RS.pack, RS.of, BitVec.cast_eq, extract_join]
  exact extract_self o

theorem ri_pack_of (o : BitVec 64) : (RI.of o).pack = o := by
  simp (disch := decide) only [RI.pack, RI.of, BitVec.cast_eq, extract_join]
  exact extract_self o

theorem rk_pack_of (o : BitVec 64) : (RK.of o).pack = o := by
  simp (disch := decide) only [RK.pack, RK.of, BitVec.cast_eq, extract_join]
  exact extract_self o

theorem rm_pack_of (o : BitVec 64) : (RM.of o).pack = o := by
  simp (disch := decide) only [RM.pack, RM.of, BitVec.cast_eq, extract_join]
  exact extract_self o

theorem rb_pack_of (o : BitVec 64) : (RB.of o).pack = o := by
  simp (disch := decide) only [RB.pack, RB.of, BitVec.cast_eq, extract_join]
  exact extract_self o

end Sys2Proof.Laws
end

