-- ==== Sys2Proof/Laws/Exec.lean ====
section
/-! SUPPORT. One equation for each arm of exec, true by rfl, so that no proof unfolds the whole dispatch. -/

namespace Sys2Proof.Laws

open Machine

theorem exec_add (h d a b s) : exec (.add h d a b) s = execAdd h d a b s := rfl
theorem exec_addi (h d a imm s) : exec (.addi h d a imm) s = execAddi h d a imm s := rfl
theorem exec_sub (h d a b s) : exec (.sub h d a b) s = execSub h d a b s := rfl
theorem exec_mul (h d a b s) : exec (.mul h d a b) s = execMul h d a b s := rfl
theorem exec_mulh (h u d a b s) : exec (.mulh h u d a b) s = execMulh h u d a b s := rfl
theorem exec_div (h u d a b s) : exec (.div h u d a b) s = execDiv h u d a b s := rfl
theorem exec_rem (h u d a b s) : exec (.rem h u d a b) s = execRem h u d a b s := rfl
theorem exec_and (h d a b s) : exec (.and h d a b) s = execAnd h d a b s := rfl
theorem exec_andImm (h d a imm s) : exec (.andImm h d a imm) s = execAndImm h d a imm s := rfl
theorem exec_or (h d a b s) : exec (.or h d a b) s = execOr h d a b s := rfl
theorem exec_orImm (h d a imm s) : exec (.orImm h d a imm) s = execOrImm h d a imm s := rfl
theorem exec_xor (h d a b s) : exec (.xor h d a b) s = execXor h d a b s := rfl
theorem exec_xorImm (h d a imm s) : exec (.xorImm h d a imm) s = execXorImm h d a imm s := rfl
theorem exec_andn (h d a b s) : exec (.andn h d a b) s = execAndn h d a b s := rfl
theorem exec_shl (h d a b s) : exec (.shl h d a b) s = execShl h d a b s := rfl
theorem exec_shlImm (h d a sh s) : exec (.shlImm h d a sh) s = execShlImm h d a sh s := rfl
theorem exec_shr (h d a b s) : exec (.shr h d a b) s = execShr h d a b s := rfl
theorem exec_shrImm (h d a sh s) : exec (.shrImm h d a sh) s = execShrImm h d a sh s := rfl
theorem exec_sar (h d a b s) : exec (.sar h d a b) s = execSar h d a b s := rfl
theorem exec_sarImm (h d a sh s) : exec (.sarImm h d a sh) s = execSarImm h d a sh s := rfl
theorem exec_min (h u d a b s) : exec (.min h u d a b) s = execMin h u d a b s := rfl
theorem exec_max (h u d a b s) : exec (.max h u d a b) s = execMax h u d a b s := rfl
theorem exec_clz (h d a s) : exec (.clz h d a) s = execClz h d a s := rfl
theorem exec_popc (h d a s) : exec (.popc h d a) s = execPopc h d a s := rfl
theorem exec_brev (h d a s) : exec (.brev h d a) s = execBrev h d a s := rfl
theorem exec_bfx (h sx d a pos wm1 s) : exec (.bfx h sx d a pos wm1) s = execBfx h sx d a pos wm1 s := rfl
theorem exec_bfi (h d a b pos wm1 s) : exec (.bfi h d a b pos wm1) s = execBfi h d a b pos wm1 s := rfl
theorem exec_sel (h d a b g s) : exec (.sel h d a b g) s = execSel h d a b g s := rfl
theorem exec_mov (h d a s) : exec (.mov h d a) s = execMov h d a s := rfl
theorem exec_movi (h mode d a imm s) : exec (.movi h mode d a imm) s = execMovi h mode d a imm s := rfl
theorem exec_ldk (h form d ix w off s) : exec (.ldk h form d ix w off) s = execLdk h form d ix w off s := rfl
theorem exec_cmp (h c g a b s) : exec (.cmp h c g a b) s = execCmp h c g a b s := rfl
theorem exec_cmpImm (h c g a imm s) : exec (.cmpImm h c g a imm) s = execCmpImm h c g a imm s := rfl
theorem exec_gand (h na nb nd g ga gb s) : exec (.gand h na nb nd g ga gb) s = execGand h na nb nd g ga gb s := rfl
theorem exec_gor (h na nb nd g ga gb s) : exec (.gor h na nb nd g ga gb) s = execGor h na nb nd g ga gb s := rfl
theorem exec_wfld (h d j s) : exec (.wfld h d j) s = execWfld h d j s := rfl
theorem exec_bra (h off slot s) : exec (.bra h off slot) s = execBra h off slot s := rfl
theorem exec_brx (h a s) : exec (.brx h a) s = execBrx h a s := rfl
theorem exec_call (h l off slot s) : exec (.call h l off slot) s = execCall h l off slot s := rfl
theorem exec_ret (h a s) : exec (.ret h a) s = execRet h a s := rfl
theorem exec_loop (h c off slot s) : exec (.loop h c off slot) s = execLoop h c off slot s := rfl
theorem exec_bkt (h d a w off s) : exec (.bkt h d a w off) s = execBkt h d a w off s := rfl
theorem exec_endTask (h s) : exec (.endTask h) s = execEndTask h s := rfl
theorem exec_yield (h s) : exec (.yield h) s = execYield h s := rfl
theorem exec_trap (h imm s) : exec (.trap h imm) s = execTrap h imm s := rfl
theorem exec_tret (h s) : exec (.tret h) s = execTret h s := rfl
theorem exec_nop (h s) : exec (.nop h) s = execNop h s := rfl
theorem exec_tkpost (h sc q s) : exec (.tkpost h sc q) s = execTkpost h sc q s := rfl
theorem exec_tkwait (h sc q s) : exec (.tkwait h sc q) s = execTkwait h sc q s := rfl
theorem exec_tkqry (h d q s) : exec (.tkqry h d q) s = execTkqry h d q s := rfl
theorem exec_bar (h sc s) : exec (.bar h sc) s = execBar h sc s := rfl
theorem exec_cbar (h sc s) : exec (.cbar h sc) s = execCbar h sc s := rfl
theorem exec_fence (h o sc s) : exec (.fence h o sc) s = execFence h o sc s := rfl
theorem exec_ld (h size sx m d s) : exec (.ld h size sx m d) s = execLd h size sx m d s := rfl
theorem exec_st (h size m a s) : exec (.st h size m a) s = execSt h size m a s := rfl
theorem exec_atom (h op w8 m d s) : exec (.atom h op w8 m d) s = execAtom h op w8 m d s := rfl
theorem exec_red (h op w8 m a s) : exec (.red h op w8 m a) s = execRed h op w8 m a s := rfl
theorem exec_pref (h k m s) : exec (.pref h k m) s = execPref h k m s := rfl
theorem exec_cmnt (h k m s) : exec (.cmnt h k m) s = execCmnt h k m s := rfl
theorem exec_vld (h f m v s) : exec (.vld h f m v) s = execVld h f m v s := rfl
theorem exec_vldScratchpad (h f v p r s) : exec (.vldScratchpad h f v p r) s = execVldScratchpad h f v p r s := rfl
theorem exec_vldAcc (h trec v p r s) : exec (.vldAcc h trec v p r) s = execVldAcc h trec v p r s := rfl
theorem exec_vst (h f m v s) : exec (.vst h f m v) s = execVst h f m v s := rfl
theorem exec_vstScratchpad (h f p r v s) : exec (.vstScratchpad h f p r v) s = execVstScratchpad h f p r v s := rfl
theorem exec_vldx (h x s) : exec (.vldx h x) s = execVldx h x s := rfl
theorem exec_vstx (h x s) : exec (.vstx h x) s = execVstx h x s := rfl
theorem exec_vredx (h op x s) : exec (.vredx h op x) s = execVredx h op x s := rfl
theorem exec_tld (h t s) : exec (.tld h t) s = execTld h t s := rfl
theorem exec_tldRows (h t s) : exec (.tldRows h t) s = execTldRows h t s := rfl
theorem exec_tldAdp (h t s) : exec (.tldAdp h t) s = execTldAdp h t s := rfl
theorem exec_tst (h t s) : exec (.tst h t) s = execTst h t s := rfl
theorem exec_tscat (h t s) : exec (.tscat h t) s = execTscat h t s := rfl
theorem exec_scopy (h k d a b l c s) : exec (.scopy h k d a b l c) s = execScopy h k d a b l c s := rfl
theorem exec_rrot (h dst src l s) : exec (.rrot h dst src l) s = execRrot h dst src l s := rfl
theorem exec_wld (h w a s) : exec (.wld h w a) s = execWld h w a s := rfl
theorem exec_mma (h m s) : exec (.mma h m) s = execMma h m s := rfl
theorem exec_mmas (h m s) : exec (.mmas h m) s = execMmas h m s := rfl
theorem exec_mmag (h m s) : exec (.mmag h m) s = execMmag h m s := rfl
theorem exec_mzero (h w32 trec acc p s) : exec (.mzero h w32 trec acc p) s = execMzero h w32 trec acc p s := rfl
theorem exec_mstat (h trec d s) : exec (.mstat h trec d) s = execMstat h trec d s := rfl
theorem exec_vadd (h m d a b s) : exec (.vadd h m d a b) s = execVadd h m d a b s := rfl
theorem exec_vsub (h m d a b s) : exec (.vsub h m d a b) s = execVsub h m d a b s := rfl
theorem exec_vmul (h m d a b s) : exec (.vmul h m d a b) s = execVmul h m d a b s := rfl
theorem exec_vfma (h m d a b c s) : exec (.vfma h m d a b c) s = execVfma h m d a b c s := rfl
theorem exec_vmin (h m d a b s) : exec (.vmin h m d a b) s = execVmin h m d a b s := rfl
theorem exec_vmax (h m d a b s) : exec (.vmax h m d a b) s = execVmax h m d a b s := rfl
theorem exec_vabs (h m d a s) : exec (.vabs h m d a) s = execVabs h m d a s := rfl
theorem exec_vneg (h m d a s) : exec (.vneg h m d a) s = execVneg h m d a s := rfl
theorem exec_vand (h m d a b s) : exec (.vand h m d a b) s = execVand h m d a b s := rfl
theorem exec_vor (h m d a b s) : exec (.vor h m d a b) s = execVor h m d a b s := rfl
theorem exec_vxor (h m d a b s) : exec (.vxor h m d a b) s = execVxor h m d a b s := rfl
theorem exec_vshl (h m d a b s) : exec (.vshl h m d a b) s = execVshl h m d a b s := rfl
theorem exec_vshr (h m d a b s) : exec (.vshr h m d a b) s = execVshr h m d a b s := rfl
theorem exec_vcmp (h c m q a b s) : exec (.vcmp h c m q a b) s = execVcmp h c m q a b s := rfl
theorem exec_vsel (h m d a b q s) : exec (.vsel h m d a b q) s = execVsel h m d a b q s := rfl
theorem exec_vpcnt (h x s) : exec (.vpcnt h x) s = execVpcnt h x s := rfl
theorem exec_vbtst (h m q a b s) : exec (.vbtst h m q a b) s = execVbtst h m q a b s := rfl
theorem exec_vred (h op m d a s) : exec (.vred h op m d a) s = execVred h op m d a s := rfl
theorem exec_vscan (h op m d a s) : exec (.vscan h op m d a) s = execVscan h op m d a s := rfl
theorem exec_vcvt (h df m d a s) : exec (.vcvt h df m d a) s = execVcvt h df m d a s := rfl
theorem exec_vpack (h od m d a b s) : exec (.vpack h od m d a b) s = execVpack h od m d a b s := rfl
theorem exec_vunpk (h hi m d a b s) : exec (.vunpk h hi m d a b) s = execVunpk h hi m d a b s := rfl
theorem exec_vsfn (h fn m d a s) : exec (.vsfn h fn m d a) s = execVsfn h fn m d a s := rfl
theorem exec_vperm (h m d a x s) : exec (.vperm h m d a x) s = execVperm h m d a x s := rfl
theorem exec_vbcast (h m x s) : exec (.vbcast h m x) s = execVbcast h m x s := rfl
theorem exec_vidx (h m d a b s) : exec (.vidx h m d a b) s = execVidx h m d a b s := rfl
theorem exec_vmovs (h x s) : exec (.vmovs h x) s = execVmovs h x s := rfl
theorem exec_vcprs (h m d a s) : exec (.vcprs h m d a) s = execVcprs h m d a s := rfl
theorem exec_vxpnd (h m d a s) : exec (.vxpnd h m d a) s = execVxpnd h m d a s := rfl
theorem exec_qand (h na nb nd d a b s) : exec (.qand h na nb nd d a b) s = execQand h na nb nd d a b s := rfl
theorem exec_qor (h na nb nd d a b s) : exec (.qor h na nb nd d a b) s = execQor h na nb nd d a b s := rfl
theorem exec_qnot (h d a s) : exec (.qnot h d a) s = execQnot h d a s := rfl
theorem exec_tsub (h d a c s) : exec (.tsub h d a c) s = execTsub h d a c s := rfl
theorem exec_tcan (h all d hd ix s) : exec (.tcan h all d hd ix) s = execTcan h all d hd ix s := rfl
theorem exec_dqpush (h d a s) : exec (.dqpush h d a) s = execDqpush h d a s := rfl
theorem exec_dqpop (h d e s) : exec (.dqpop h d e) s = execDqpop h d e s := rfl
theorem exec_dqstl (h d e v s) : exec (.dqstl h d e v) s = execDqstl h d e v s := rfl
theorem exec_watch (h d a s) : exec (.watch h d a) s = execWatch h d a s := rfl
theorem exec_unwatch (h d a s) : exec (.unwatch h d a) s = execUnwatch h d a s := rfl
theorem exec_resq (h sum d a b s) : exec (.resq h sum d a b) s = execResq h sum d a b s := rfl
theorem exec_carve (h d a s) : exec (.carve h d a) s = execCarve h d a s := rfl
theorem exec_sysrd (h d r s) : exec (.sysrd h d r) s = execSysrd h d r s := rfl
theorem exec_syswr (h r a s) : exec (.syswr h r a) s = execSyswr h r a s := rfl
theorem exec_tlbinv (h s2 all a b c s) : exec (.tlbinv h s2 all a b c) s = execTlbinv h s2 all a b c s := rfl
theorem exec_psdone (h a imm s) : exec (.psdone h a imm) s = execPsdone h a imm s := rfl
theorem exec_rdcnt (h d n s) : exec (.rdcnt h d n) s = execRdcnt h d n s := rfl
theorem exec_rdtime (h d s) : exec (.rdtime h d) s = execRdtime h d s := rfl
theorem exec_notify (h d a s) : exec (.notify h d a) s = execNotify h d a s := rfl
theorem exec_tokenPost (q s) : exec (.tokenPost q) s = execTokenPost q s := rfl
theorem exec_instructionComplete (q k s) : exec (.instructionComplete q k) s = execInstructionComplete q k s := rfl
theorem exec_transferComplete (q k s) : exec (.transferComplete q k) s = execTransferComplete q k s := rfl
theorem exec_wldFillComplete (c ws s) : exec (.wldFillComplete c ws) s = execWldFillComplete c ws s := rfl
theorem exec_matrixComplete (c s) : exec (.matrixComplete c) s = execMatrixComplete c s := rfl
theorem exec_rrotComplete (c s) : exec (.rrotComplete c) s = execRrotComplete c s := rfl
theorem exec_watchdogTrap (c s) : exec (.watchdogTrap c) s = execWatchdogTrap c s := rfl
theorem exec_tsubQueueEntry (c s) : exec (.tsubQueueEntry c) s = execTsubQueueEntry c s := rfl
theorem exec_dependencesMet (p seq s) : exec (.dependencesMet p seq) s = execDependencesMet p seq s := rfl
theorem exec_taskRoute (p seq ix s) : exec (.taskRoute p seq ix) s = execTaskRoute p seq ix s := rfl
theorem exec_weirTestCycle (die s) : exec (.weirTestCycle die) s = execWeirTestCycle die s := rfl
theorem exec_buntingStart (die s) : exec (.buntingStart die) s = execBuntingStart die s := rfl
theorem exec_taskDispatch (p seq ix s) : exec (.taskDispatch p seq ix) s = execTaskDispatch p seq ix s := rfl
theorem exec_gangDispatch (p seq gang s) : exec (.gangDispatch p seq gang) s = execGangDispatch p seq gang s := rfl
theorem exec_contextRetire (c s) : exec (.contextRetire c) s = execContextRetire c s := rfl
theorem exec_launchCommit (p seq s) : exec (.launchCommit p seq) s = execLaunchCommit p seq s := rfl
theorem exec_heldFireSubmit (k s) : exec (.heldFireSubmit k) s = execHeldFireSubmit k s := rfl
theorem exec_faultQueueJoin (k s) : exec (.faultQueueJoin k) s = execFaultQueueJoin k s := rfl
theorem exec_sideLogReplay (core k s) : exec (.sideLogReplay core k) s = execSideLogReplay core k s := rfl
theorem exec_fltresRetry (c s2 token s) : exec (.fltresRetry c s2 token) s = execFltresRetry c s2 token s := rfl
theorem exec_fltresAbandon (c s2 token s) : exec (.fltresAbandon c s2 token) s = execFltresAbandon c s2 token s := rfl
theorem exec_fltqRead (q d s) : exec (.fltqRead q d) s = execFltqRead q d s := rfl
theorem exec_fltq2Read (q d s) : exec (.fltq2Read q d) s = execFltq2Read q d s := rfl
theorem exec_sublogRead (q d s) : exec (.sublogRead q d) s = execSublogRead q d s := rfl
theorem exec_parklogRead (q d s) : exec (.parklogRead q d) s = execParklogRead q d s := rfl
theorem exec_audlogRead (q d s) : exec (.audlogRead q d) s = execAudlogRead q d s := rfl
theorem exec_fablogRead (q d s) : exec (.fablogRead q d) s = execFablogRead q d s := rfl
theorem exec_sweep (die s) : exec (.sweep die) s = execSweep die s := rfl
theorem exec_scrubPage (die s) : exec (.scrubPage die) s = execScrubPage die s := rfl
theorem exec_pgmap (p v s) : exec (.pgmap p v) s = execPgmap p v s := rfl
theorem exec_pgmapPageTaken (p s) : exec (.pgmapPageTaken p) s = execPgmapPageTaken p s := rfl
theorem exec_pgunmap (p v s) : exec (.pgunmap p v) s = execPgunmap p v s := rfl
theorem exec_pgfree (v s) : exec (.pgfree v) s = execPgfree v s := rfl
theorem exec_cvadmit (c v s) : exec (.cvadmit c v) s = execCvadmit c v s := rfl
theorem exec_codeVaultAdmissionEnd (s) : exec (.codeVaultAdmissionEnd) s = execCodeVaultAdmissionEnd s := rfl
theorem exec_cvwd1 (v s) : exec (.cvwd1 v) s = execCvwd1 v s := rfl
theorem exec_vload (v s) : exec (.vload v) s = execVload v s := rfl
theorem exec_shardTimeout (n s) : exec (.shardTimeout n) s = execShardTimeout n s := rfl
theorem exec_burgeeSend (s) : exec (.burgeeSend) s = execBurgeeSend s := rfl
theorem exec_burgeedst (v s) : exec (.burgeedst v) s = execBurgeedst v s := rfl
theorem exec_weircfgHeight (die v s) : exec (.weircfgHeight die v) s = execWeircfgHeight die v s := rfl
theorem exec_vaultcfgSize (die v s) : exec (.vaultcfgSize die v) s = execVaultcfgSize die v s := rfl
theorem exec_rnpool (p v s) : exec (.rnpool p v) s = execRnpool p v s := rfl
theorem exec_preqSaveContext (c s) : exec (.preqSaveContext c) s = execPreqSaveContext c s := rfl
theorem exec_preqSavePolder (p s) : exec (.preqSavePolder p) s = execPreqSavePolder p s := rfl
theorem exec_preqPartitionSwap (p q s) : exec (.preqPartitionSwap p q) s = execPreqPartitionSwap p q s := rfl
theorem exec_preqRestorePolder (p s) : exec (.preqRestorePolder p) s = execPreqRestorePolder p s := rfl
theorem exec_forcedSave (c s) : exec (.forcedSave c) s = execForcedSave c s := rfl
theorem exec_contextRestore (c s) : exec (.contextRestore c) s = execContextRestore c s := rfl
theorem exec_swapExchange (s) : exec (.swapExchange) s = execSwapExchange s := rfl
theorem exec_uncorrectableError (site s) : exec (.uncorrectableError site) s = execUncorrectableError site s := rfl
theorem exec_dieLinkFailure (a b s) : exec (.dieLinkFailure a b) s = execDieLinkFailure a b s := rfl
theorem exec_auditReplay (k core wrong s) : exec (.auditReplay k core wrong) s = execAuditReplay k core wrong s := rfl
theorem exec_suspectClr (core s) : exec (.suspectClr core) s = execSuspectClr core s := rfl
theorem exec_suspectQuar (core on s) : exec (.suspectQuar core on) s = execSuspectQuar core on s := rfl
theorem exec_leveeClosing (n s) : exec (.leveeClosing n) s = execLeveeClosing n s := rfl
theorem exec_leveeCloseComplete (n s) : exec (.leveeCloseComplete n) s = execLeveeCloseComplete n s := rfl
theorem exec_leveeOpen (n s) : exec (.leveeOpen n) s = execLeveeOpen n s := rfl
theorem exec_regionDetach (n s) : exec (.regionDetach n) s = execRegionDetach n s := rfl
theorem exec_poolLinkDown (port s) : exec (.poolLinkDown port) s = execPoolLinkDown port s := rfl
theorem exec_poolCompletionTimeout (port s) : exec (.poolCompletionTimeout port) s = execPoolCompletionTimeout port s := rfl
theorem exec_poolIdeLoss (port s) : exec (.poolIdeLoss port) s = execPoolIdeLoss port s := rfl
theorem exec_viralIndication (port s) : exec (.viralIndication port) s = execViralIndication port s := rfl
theorem exec_backInvalidationSnoop (k addr s) :
    exec (.backInvalidationSnoop k addr) s = execBackInvalidationSnoop k addr s := rfl
theorem exec_readRequest (port p s) : exec (.readRequest port p) s = execReadRequest port p s := rfl
theorem exec_writeRequest (port p s) : exec (.writeRequest port p) s = execWriteRequest port p s := rfl
theorem exec_atomicRequest (port p s) : exec (.atomicRequest port p) s = execAtomicRequest port p s := rfl
theorem exec_readResponse (port p s) : exec (.readResponse port p) s = execReadResponse port p s := rfl
theorem exec_writeAcknowledgement (port p s) : exec (.writeAcknowledgement port p) s = execWriteAcknowledgement port p s := rfl
theorem exec_errorResponse (port p s) : exec (.errorResponse port p) s = execErrorResponse port p s := rfl
theorem exec_shard (port p s) : exec (.shard port p) s = execShard port p s := rfl
theorem exec_shardRequest (port p s) : exec (.shardRequest port p) s = execShardRequest port p s := rfl
theorem exec_burgee (port p s) : exec (.burgee port p) s = execBurgee port p s := rfl
theorem exec_fabricRequestTimeout (rtag s) : exec (.fabricRequestTimeout rtag) s = execFabricRequestTimeout rtag s := rfl
theorem exec_fabricAckTimeout (port s) : exec (.fabricAckTimeout port) s = execFabricAckTimeout port s := rfl
theorem exec_fabricLinkDown (port s) : exec (.fabricLinkDown port) s = execFabricLinkDown port s := rfl
theorem exec_commonsMeteringPeriod (s) : exec (.commonsMeteringPeriod) s = execCommonsMeteringPeriod s := rfl
theorem exec_qosWindow (s) : exec (.qosWindow) s = execQosWindow s := rfl
theorem exec_atomicCredit (s) : exec (.atomicCredit) s = execAtomicCredit s := rfl
theorem exec_pdctlConfigure (p s) : exec (.pdctlConfigure p) s = execPdctlConfigure p s := rfl
theorem exec_pdctlActivate (p v s) : exec (.pdctlActivate p v) s = execPdctlActivate p v s := rfl
theorem exec_pdctlDestroy (p s) : exec (.pdctlDestroy p) s = execPdctlDestroy p s := rfl
theorem exec_polderDestroyComplete (p s) : exec (.polderDestroyComplete p) s = execPolderDestroyComplete p s := rfl
theorem exec_commons (k v s) : exec (.commons k v) s = execCommons k v s := rfl
theorem exec_keyctlGenerate (k s) : exec (.keyctlGenerate k) s = execKeyctlGenerate k s := rfl
theorem exec_keyctlErase (k s) : exec (.keyctlErase k) s = execKeyctlErase k s := rfl
theorem exec_sealld (c v s) : exec (.sealld c v) s = execSealld c v s := rfl
theorem exec_mkey (v s) : exec (.mkey v) s = execMkey v s := rfl
theorem exec_bootrec (v s) : exec (.bootrec v) s = execBootrec v s := rfl
theorem exec_hostBar2Access (fn off size data s) :
    exec (.hostBar2Access fn off size data) s = execHostBar2Access fn off size data s := rfl
theorem exec_msixUnmask (fn vec s) : exec (.msixUnmask fn vec) s = execMsixUnmask fn vec s := rfl
theorem exec_configurationRequest (s) : exec (.configurationRequest) s = execConfigurationRequest s := rfl
theorem exec_getTdispVersion (fn s) : exec (.getTdispVersion fn) s = execGetTdispVersion fn s := rfl
theorem exec_getTdispCapabilities (fn s) : exec (.getTdispCapabilities fn) s = execGetTdispCapabilities fn s := rfl
theorem exec_lockInterfaceRequest (fn s) : exec (.lockInterfaceRequest fn) s = execLockInterfaceRequest fn s := rfl
theorem exec_getDeviceInterfaceReport (fn s) : exec (.getDeviceInterfaceReport fn) s = execGetDeviceInterfaceReport fn s := rfl
theorem exec_getDeviceInterfaceState (fn s) : exec (.getDeviceInterfaceState fn) s = execGetDeviceInterfaceState fn s := rfl
theorem exec_startInterfaceRequest (fn s) : exec (.startInterfaceRequest fn) s = execStartInterfaceRequest fn s := rfl
theorem exec_stopInterfaceRequest (fn s) : exec (.stopInterfaceRequest fn) s = execStopInterfaceRequest fn s := rfl
theorem exec_negotiateAlgorithms (offered s) : exec (.negotiateAlgorithms offered) s = execNegotiateAlgorithms offered s := rfl
theorem exec_getMeasurements (slot index signed s) : exec (.getMeasurements slot index signed) s = execGetMeasurements slot index signed s := rfl
theorem exec_ideKm (stream s) : exec (.ideKm stream) s = execIdeKm stream s := rfl
theorem exec_ideIntegrityFailure (stream s) : exec (.ideIntegrityFailure stream) s = execIdeIntegrityFailure stream s := rfl
theorem exec_moduleReset (s) : exec (.moduleReset) s = execModuleReset s := rfl
theorem exec_powerLoss (s) : exec (.powerLoss) s = execPowerLoss s := rfl
theorem exec_thermalWarning (die s) : exec (.thermalWarning die) s = execThermalWarning die s := rfl
theorem exec_thermalTrip (die s) : exec (.thermalTrip die) s = execThermalTrip die s := rfl
theorem exec_firmwareUpdate (version image signature s) : exec (.firmwareUpdate version image signature) s = execFirmwareUpdate version image signature s := rfl
theorem exec_poolLinkActive (port narrow slow s) : exec (.poolLinkActive port narrow slow) s = execPoolLinkActive port narrow slow s := rfl
theorem exec_sweepComplete (die s) : exec (.sweepComplete die) s = execSweepComplete die s := rfl
theorem exec_spdmSecuredSession (slot s) : exec (.spdmSecuredSession slot) s = execSpdmSecuredSession slot s := rfl
theorem exec_otherPacketType (port p s) : exec (.otherPacketType port p) s = execOtherPacketType port p s := rfl

end Sys2Proof.Laws
end

