-- ==== Sys2Proof/Laws/Issue.lean ====
section
/-! SUPPORT. What issue and finish do, said once: the answer of issue for an instruction that issues, and what finish leaves
unchanged and changes (R71, R80, R92, R95). -/

namespace Sys2Proof.Laws

open Machine

/-- The answer of issue when the instruction issues: that of its body. sc is the scope of its post (R72). -/
def actAnswer (s : State) (q : Seqr) (h : Hdr) (sc : Scope) : Act → Answer
  | .done s' k e n => .next (finish s' (ctxOf s.cur) q h k e none n false sc)
  | .quiet s' e => .next (finish s' (ctxOf s.cur) q h .plain e none none true)
  | .posts s' k p => .next (finish s' (ctxOf s.cur) q { h with pq := p } k Exc.none none none false sc)
  | .trap s' cause detail addr =>
    .next (trapBefore (rotate s' (ctxOf s.cur) q h.yld) (ctxOf s.cur) q (mkTrap q cause detail addr))
  | .late s' =>
    .next (trapBefore (rotate s' (ctxOf s.cur) q h.yld) (ctxOf s.cur) q { mkTrap q 0x12 0 0 with imprec := true })
  | .after s' cause detail =>
    .next (finish s' (ctxOf s.cur) q h .plain Exc.none (some (mkTrap q cause detail 0)) none)
  | .hold s' w => .next (holdAt s' (ctxOf s.cur) q h w)
  | .wait => .next s
  | .waitRel r => .next (modSeq s (ctxOf s.cur) q fun x => { x with relWait := some r })
  | .set s' => .next s'

/-- An instruction that issues answers what its body does. -/
theorem issue_runs {s : State} {c : Ctx} {i : Instr} {h : Hdr} {seqs : List Seqr} (H : Issues s c i h seqs)
    {form : Ctx → Form} {body : Ctx → Seqr → Act} {sc : Scope} (hq : (form c).queue = true) (hp : (form c).perm = true)
    (hw : (form c).wf = checkOne i) (hr : (form c).regs = scalarRegs i) (hs : (form c).seqs = seqs) :
    issue s h form body sc = actAnswer s s.cur.seq h sc (body c s.cur.seq) := by
  obtain ⟨h1, h2, h3, h4, h5, h6, h7, h8, h9, h10⟩ := H
  have h4' : checkOne i = true := h4
  have hf : formTrap (form c) h s.cur.seq = none := by
    simp [formTrap, hw, hs, hq, hp, h4', h6, h7]
    simpa using h5
  simp only [issue, h1, h2, h3, hf, h8, hr, h9, h10, Bool.not_true, Bool.or_false, Bool.false_eq_true, if_false]
  cases body c s.cur.seq <;> rfl

/-- The id of a context that getCtx finds. -/
theorem getCtx_id {s : State} {id : CtxId} {c : Ctx} (h : getCtx s id = some c) : c.id = id := by
  have := List.find?_some h
  simpa using this

/-- A context read after another is modified. -/
theorem getCtx_modCtx_ne {s : State} {id j : CtxId} {f : Ctx → Ctx} (hf : ∀ c, (f c).id = c.id) (hj : j ≠ id) :
    getCtx (modCtx s id f) j = getCtx s j := by
  unfold getCtx modCtx
  generalize s.ctxs = l
  induction l with
  | nil => rfl
  | cons a l ih =>
    simp only [List.map_cons, List.find?_cons] at ih ⊢
    by_cases ha : a.id = id
    · have h1 : ((f a).id == j) = false := by rw [hf, ha]; simpa using fun e => hj e.symm
      have h2 : (id == j) = false := by simpa using fun e => hj e.symm
      simp [ha, h1, h2, ih]
    · simp [ha, ih]

/-- A context read after it is modified. -/
theorem getCtx_modCtx {s : State} {id : CtxId} {f : Ctx → Ctx} {c : Ctx} (hf : ∀ c, (f c).id = c.id)
    (h : getCtx s id = some c) : getCtx (modCtx s id f) id = some (f c) := by
  unfold getCtx modCtx at *
  revert h
  generalize s.ctxs = l
  induction l with
  | nil => intro h; simp at h
  | cons a l ih =>
    intro h
    simp only [List.map_cons, List.find?_cons] at h ih ⊢
    by_cases ha : a.id = id
    · simp only [ha, beq_self_eq_true] at h
      have h' : a = c := by simpa using h
      subst h'
      simp [ha, hf]
    · have h1 : (a.id == id) = false := by simpa using ha
      simp only [h1] at h
      rw [if_neg ha, h1]
      exact ih h

/-- Two modifications of one context are one. -/
theorem modCtx_modCtx (s : State) (id : CtxId) (f g : Ctx → Ctx) (hf : ∀ c, (f c).id = c.id) :
    modCtx (modCtx s id f) id g = modCtx s id fun c => g (f c) := by
  unfold modCtx
  simp only [List.map_map]
  congr 1
  apply List.map_congr_left
  intro c _
  by_cases h : c.id = id <;> simp [h, hf]

theorem getCtx_modCore (s : State) (n : Nat) (f : CoreState → CoreState) (id : CtxId) :
    getCtx (modCore s n f) id = getCtx s id := rfl

theorem getCtx_rotate (s : State) (id : CtxId) (q : Seqr) (b : Bool) (j : CtxId) :
    getCtx (rotate s id q b) j = getCtx s j := rfl

/-- A core read after a rotation differs in its ports only (R80). -/
theorem getCore_rotate (s : State) (id : CtxId) (q : Seqr) (b : Bool) (n : Nat) :
    { getCore (rotate s id q b) n with ports := [] } = { getCore s n with ports := [] } := by
  unfold getCore rotate modCore
  simp only [List.getD_eq_getElem?_getD, List.getElem?_modify]
  by_cases h : id.core = n
  · subst h
    cases s.cores[id.core]? <;> simp
  · cases hx : s.cores[n]? <;> simp [h]

/-- A context changed, and the issue ports rotated, and nothing outside them. -/
theorem frame_rotate_modCtx (s : State) (f : Ctx → Ctx) (q : Seqr) (b : Bool) (hf : ∀ c, (f c).id = c.id) :
    FrameOutside s (rotate (modCtx s (ctxOf s.cur) f) (ctxOf s.cur) q b) where
  device := rfl
  cores n := by
    have := getCore_rotate (modCtx s (ctxOf s.cur) f) (ctxOf s.cur) q b n
    exact this
  others id hid := by rw [getCtx_rotate]; exact getCtx_modCtx_ne hf hid
  memory _ _ := rfl

@[simp] theorem setSeq_id (c : Ctx) (q : Seqr) (v : Seq) : (c.setSeq q v).id = c.id := by cases q <;> rfl
@[simp] theorem modSeq_id (c : Ctx) (q : Seqr) (f : Seq → Seq) : (c.modSeq q f).id = c.id := by
  simp [Ctx.modSeq]
@[simp] theorem setTok_id (c : Ctx) (n : Nat) (v : BitVec 6) : (c.setTok n v).id = c.id := rfl
@[simp] theorem takeWait_id (h : Hdr) (q : Seqr) (c : Ctx) : (takeWait h q c).id = c.id := by
  unfold takeWait
  split
  · rfl
  · rfl
@[simp] theorem wS_id (c : Ctx) (q : Seqr) (r : SReg) (v : Word) : (c.wS q r v).id = c.id := by
  unfold Ctx.wS
  split
  · rfl
  · split
    · exact modSeq_id ..
    · rfl
@[simp] theorem wG_id (c : Ctx) (q : Seqr) (g : GReg) (b : Bool) : (c.wG q g b).id = c.id := by
  unfold Ctx.wG; split <;> simp

@[simp] theorem seq_setSeq_same (c : Ctx) (q : Seqr) (v : Seq) : (c.setSeq q v).seq q = v := by cases q <;> rfl
theorem seq_setSeq_ne (c : Ctx) (q p : Seqr) (v : Seq) (h : p ≠ q) : (c.setSeq q v).seq p = c.seq p := by
  cases q <;> cases p <;> first | rfl | exact absurd rfl h
@[simp] theorem setSeq_shared (c : Ctx) (q : Seqr) (v : Seq) : (c.setSeq q v).shared = c.shared := by cases q <;> rfl
@[simp] theorem setSeq_vreg (c : Ctx) (q : Seqr) (v : Seq) : (c.setSeq q v).vreg = c.vreg := by cases q <;> rfl
@[simp] theorem setSeq_preg (c : Ctx) (q : Seqr) (v : Seq) : (c.setSeq q v).preg = c.preg := by cases q <;> rfl
@[simp] theorem setSeq_tokens (c : Ctx) (q : Seqr) (v : Seq) : (c.setSeq q v).tokens = c.tokens := by cases q <;> rfl
@[simp] theorem setSeq_fpcr (c : Ctx) (q : Seqr) (v : Seq) : (c.setSeq q v).fpcr = c.fpcr := by cases q <;> rfl
@[simp] theorem setSeq_frames (c : Ctx) (q : Seqr) (v : Seq) : (c.setSeq q v).frames = c.frames := by cases q <;> rfl
@[simp] theorem setTok_seq (c : Ctx) (n : Nat) (v : BitVec 6) (q : Seqr) : (c.setTok n v).seq q = c.seq q := by
  cases q <;> rfl
@[simp] theorem takeWait_seq (h : Hdr) (q p : Seqr) (c : Ctx) : (takeWait h q c).seq p = c.seq p := by
  unfold takeWait
  split
  · rfl
  · exact setTok_seq ..

theorem takeWait_issued (h : Hdr) (q : Seqr) (c : Ctx) : (takeWait h q c).issued = c.issued := by
  unfold takeWait
  split
  · rfl
  · rfl

theorem ctxRest_setSeq (c : Ctx) (q : Seqr) (v : Seq) : ctxRest (c.setSeq q v) = ctxRest c := by cases q <;> rfl

theorem ctxRest_takeWait (h : Hdr) (q : Seqr) (c : Ctx) : ctxRest (takeWait h q c) = ctxRest c := by
  unfold takeWait
  split
  · rfl
  · rfl

/-- A scalar register read after one is written (R74). -/
theorem rS_wS (c : Ctx) (q : Seqr) (r x : SReg) (v : Word) :
    (c.wS q r v).rS q x = if x = r ∧ x ≠ 0 then v else c.rS q x := by
  by_cases hx : x = 0
  · simp [Ctx.rS, hx]
  by_cases hr : r = 0
  · have : x ≠ r := fun e => hx (e.trans hr)
    simp only [Ctx.wS, if_pos hr, this, false_and, if_false]
  by_cases h1 : r.toNat < 32 <;> by_cases h2 : x.toNat < 32 <;> by_cases h3 : x = r
  · subst h3
    simp only [Ctx.wS, Ctx.rS, if_neg hx, if_pos h1, Ctx.modSeq, seq_setSeq_same]
    simp [h1, List.getD_eq_getElem?_getD]
    intro h0; exact absurd h0 hx
  · have : r.toNat ≠ x.toNat := fun e => h3 (BitVec.eq_of_toNat_eq e.symm)
    simp only [Ctx.wS, Ctx.rS, if_neg hx, if_neg hr, if_pos h1, if_pos h2, Ctx.modSeq, seq_setSeq_same, h3, false_and,
      if_false]
    simp [List.getD_eq_getElem?_getD, this]
  · exact absurd (h3 ▸ h1) h2
  · simp only [Ctx.wS, Ctx.rS, if_neg hx, if_neg hr, if_pos h1, if_neg h2, Ctx.modSeq, setSeq_shared, h3, false_and,
      if_false]
  · exact absurd (h3 ▸ h2) h1
  · have hs : ∀ w, ({ c with shared := w } : Ctx).seq q = c.seq q := fun w => by cases q <;> rfl
    simp only [Ctx.wS, Ctx.rS, if_neg hx, if_neg hr, if_neg h1, if_pos h2, hs, h3, false_and, if_false]
  · subst h3
    have : x.toNat - 32 < 32 := by omega
    simp only [Ctx.wS, Ctx.rS, if_neg hx, if_neg h1]
    simp [List.getD_eq_getElem?_getD, this]
    intro h0; exact absurd h0 hx
  · have : r.toNat - 32 ≠ x.toNat - 32 := fun e => h3 (BitVec.eq_of_toNat_eq (by omega))
    simp only [Ctx.wS, Ctx.rS, if_neg hx, if_neg hr, if_neg h1, if_neg h2, h3, false_and, if_false]
    simp [List.getD_eq_getElem?_getD, this]

/-- What finish does to the issuing context. -/
def finishCtx (q : Seqr) (h : Hdr) (kind : OpKind) (exc : Exc) (t : Option TrapReq) (next : Option CodePoint)
    (quiet : Bool) (sc : Scope) (c : Ctx) : Ctx :=
  let ena := if quiet then 0 else fpcrEnables c.fpcr
  let age := c.ageAt q
  let c := takeWait h q c
  let x := c.seq q
  let a := x.advance
  let hit := enabledExc ena exc
  let trap : Option TrapReq :=
    match t with
    | some t => some t
    | none => if hit = 0 then none else some (mkTrap q 0x05 hit.toNat 0)
  let o : Op :=
    { post := h.pq, kind := kind, exc := { bits := exc.bits, causes := exc.causes }, ena := ena, trap := trap
      ends := next.isNone && a.2.2, depth := c.frames.length, age := age, scope := sc
      done := false }
  { (c.setSeq q { x with
      pc := next.getD a.1, line := if next.isSome then none else a.2.1, waited := none, relWait := none
      atEnd := next.isNone && a.2.2, fab := [], rtags := [], retired := x.retired + 1, ops := x.ops ++ [o] }) with
    watchdog := 0, issued := if age = c.issued then c.issued + 1 else c.issued }

theorem finish_eq (s : State) (id : CtxId) (q : Seqr) (h : Hdr) (k : OpKind) (e : Exc) (t : Option TrapReq)
    (n : Option CodePoint) (b : Bool) (sc : Scope) :
    finish s id q h k e t n b sc
      = rotate (modCtx (waitAcquire s id.core h sc) id (finishCtx q h k e t n b sc)) id q h.yld := rfl

/-- Dropping L1 lines and changing a context do not meet. -/
theorem waitAcquire_modCtx (s : State) (core : Nat) (h : Hdr) (sc : Scope) (id : CtxId) (f : Ctx → Ctx) :
    waitAcquire (modCtx s id f) core h sc = modCtx (waitAcquire s core h sc) id f := by
  cases sc <;> simp only [waitAcquire] <;> split <;> rfl

@[simp] theorem waitAcquire_cur (s : State) (core : Nat) (h : Hdr) (sc : Scope) :
    (waitAcquire s core h sc).cur = s.cur := by
  cases sc <;> simp only [waitAcquire] <;> split <;> rfl

@[simp] theorem waitAcquire_ctxs (s : State) (core : Nat) (h : Hdr) (sc : Scope) :
    (waitAcquire s core h sc).ctxs = s.ctxs := by
  cases sc <;> simp only [waitAcquire] <;> split <;> rfl

@[simp] theorem getCtx_waitAcquire (s : State) (core : Nat) (h : Hdr) (sc : Scope) (id : CtxId) :
    getCtx (waitAcquire s core h sc) id = getCtx s id := by simp [getCtx]

@[simp] theorem finishCtx_id (q : Seqr) (h : Hdr) (k : OpKind) (e : Exc) (t : Option TrapReq) (n : Option CodePoint)
    (b : Bool) (sc : Scope) (c : Ctx) : (finishCtx q h k e t n b sc c).id = c.id := by
  unfold finishCtx
  show ((takeWait h q c).setSeq q _).id = c.id
  rw [setSeq_id, takeWait_id]

/-- A change of the issuing context and its issue leave everything outside it as it was, but the L1 lines that a wait
drops. -/
theorem finish_outside_at (s : State) (f : Ctx → Ctx) (q : Seqr) (h : Hdr) (k : OpKind) (e : Exc) (t : Option TrapReq)
    (n : Option CodePoint) (b : Bool) (sc : Scope) (hf : ∀ c, (f c).id = c.id) :
    FrameOutside (waitAcquire s (ctxOf s.cur).core h sc)
      (finish (modCtx s (ctxOf s.cur) f) (ctxOf s.cur) q h k e t n b sc) := by
  rw [finish_eq, waitAcquire_modCtx, modCtx_modCtx _ _ _ _ hf]
  have := frame_rotate_modCtx (waitAcquire s (ctxOf s.cur).core h sc) (fun c => finishCtx q h k e t n b sc (f c)) q h.yld
    fun c => by rw [finishCtx_id, hf]
  rwa [waitAcquire_cur] at this

/-- The same at context scope. -/
theorem finish_outside (s : State) (f : Ctx → Ctx) (q : Seqr) (h : Hdr) (k : OpKind) (e : Exc) (t : Option TrapReq)
    (n : Option CodePoint) (b : Bool) (hf : ∀ c, (f c).id = c.id) :
    FrameOutside s (finish (modCtx s (ctxOf s.cur) f) (ctxOf s.cur) q h k e t n b .ctx) :=
  finish_outside_at s f q h k e t n b .ctx hf

/-- The issuing context after a change of it and its issue. -/
theorem finish_ctx {s : State} {c : Ctx} {f : Ctx → Ctx} {q : Seqr} {h : Hdr} {k : OpKind} {e : Exc} {t : Option TrapReq}
    {n : Option CodePoint} {b : Bool} {sc : Scope} (hf : ∀ c, (f c).id = c.id) (hc : getCtx s (ctxOf s.cur) = some c) :
    getCtx (finish (modCtx s (ctxOf s.cur) f) (ctxOf s.cur) q h k e t n b sc) (ctxOf s.cur)
      = some (finishCtx q h k e t n b sc (f c)) := by
  rw [finish_eq, getCtx_rotate]
  exact getCtx_modCtx (finishCtx_id q h k e t n b sc) (by rw [getCtx_waitAcquire]; exact getCtx_modCtx hf hc)

/-- The issue itself changes no scalar register. -/
theorem finishCtx_rS (q p : Seqr) (h : Hdr) (k : OpKind) (e : Exc) (t : Option TrapReq) (n : Option CodePoint) (b : Bool)
    (sc : Scope) (c : Ctx) (r : SReg) : (finishCtx q h k e t n b sc c).rS p r = c.rS p r := by
  have h1 : ∀ p, ((finishCtx q h k e t n b sc c).seq p).sreg = (c.seq p).sreg := by
    intro p
    show (Ctx.seq ((takeWait h q c).setSeq q _) p).sreg = _
    by_cases hp : p = q
    · subst hp; simp
    · rw [seq_setSeq_ne _ _ _ _ hp]; simp
  have h2 : (finishCtx q h k e t n b sc c).shared = c.shared := by
    show ((takeWait h q c).setSeq q _).shared = _
    rw [setSeq_shared]; unfold takeWait; split <;> rfl
  simp only [Ctx.rS, h1, h2]

/-- The issue itself changes no guard. -/
theorem finishCtx_rG (q p : Seqr) (h : Hdr) (k : OpKind) (e : Exc) (t : Option TrapReq) (n : Option CodePoint) (b : Bool)
    (sc : Scope) (c : Ctx) (g : GReg) : (finishCtx q h k e t n b sc c).rG p g = c.rG p g := by
  have h1 : ((finishCtx q h k e t n b sc c).seq p).guards = (c.seq p).guards := by
    show (Ctx.seq ((takeWait h q c).setSeq q _) p).guards = _
    by_cases hp : p = q
    · subst hp; simp
    · rw [seq_setSeq_ne _ _ _ _ hp]; simp
  simp only [Ctx.rG, h1]

/-- The issue itself: the other sequencers, the queues and the rest of the context. -/
theorem finishCtx_frame (q : Seqr) (h : Hdr) (k : OpKind) (e : Exc) (t : Option TrapReq) (n : Option CodePoint)
    (b : Bool) (sc : Scope) (c : Ctx) : FrameContext q h c (finishCtx q h k e t n b sc c) where
  others p hp := by
    show Ctx.seq ((takeWait h q c).setSeq q _) p = _
    rw [seq_setSeq_ne _ _ _ _ hp, takeWait_seq]
  tokens := by
    show ((takeWait h q c).setSeq q _).tokens = _
    rw [setSeq_tokens]
  rest := by
    show ctxRest ((takeWait h q c).setSeq q _) = _
    rw [ctxRest_setSeq, ctxRest_takeWait]

/-- The issue itself changes no vector and no predicate register. -/
theorem finishCtx_vectors (q : Seqr) (h : Hdr) (k : OpKind) (e : Exc) (t : Option TrapReq) (n : Option CodePoint)
    (b : Bool) (sc : Scope) (c : Ctx) : VectorsKept c (finishCtx q h k e t n b sc c) := by
  have hv : (takeWait h q c).vreg = c.vreg ∧ (takeWait h q c).preg = c.preg := by
    unfold takeWait
    split
    · exact ⟨rfl, rfl⟩
    · exact ⟨rfl, rfl⟩
  constructor
  · show ((takeWait h q c).setSeq q _).vreg = _
    rw [setSeq_vreg, hv.1]
  · show ((takeWait h q c).setSeq q _).preg = _
    rw [setSeq_preg, hv.2]

/-- The issue itself stands behind the instruction, or where it branches. -/
theorem finishCtx_seq (q : Seqr) (h : Hdr) (k : OpKind) (e : Exc) (t : Option TrapReq) (n : Option CodePoint) (b : Bool)
    (sc : Scope) (c : Ctx) :
    ((finishCtx q h k e t n b sc c).seq q).pc = n.getD (c.seq q).advance.1
      ∧ ((finishCtx q h k e t n b sc c).seq q).line = (if n.isSome then none else (c.seq q).advance.2.1)
      ∧ ((finishCtx q h k e t n b sc c).seq q).retired = (c.seq q).retired + 1 := by
  have h1 : ∀ (x : Seq) (n : Nat), Ctx.seq { (takeWait h q c).setSeq q x with watchdog := 0, issued := n } q = x := by
    intro x n; cases q <;> rfl
  unfold finishCtx
  simp only [h1, takeWait_seq, and_self]

/-- The parts of a context that a scalar register's write leaves alone. -/
theorem wS_frame (c : Ctx) (q : Seqr) (r : SReg) (v : Word) :
    (∀ p, p ≠ q → (c.wS q r v).seq p = c.seq p) ∧ (c.wS q r v).tokens = c.tokens ∧ (c.wS q r v).vreg = c.vreg
      ∧ (c.wS q r v).preg = c.preg ∧ ((c.wS q r v).seq q).advance = (c.seq q).advance
      ∧ ((c.wS q r v).seq q).waited = (c.seq q).waited ∧ ((c.wS q r v).seq q).retired = (c.seq q).retired
      ∧ (∀ g, (c.wS q r v).rG q g = c.rG q g)
      ∧ ctxRest (c.wS q r v) = ctxRest c := by
  unfold Ctx.wS Ctx.modSeq
  split
  · exact ⟨fun _ _ => rfl, rfl, rfl, rfl, rfl, rfl, rfl, fun _ => rfl, rfl⟩
  · split
    · refine ⟨fun p hp => seq_setSeq_ne _ _ _ _ hp, setSeq_tokens .., setSeq_vreg .., setSeq_preg .., ?_, ?_, ?_, ?_, ?_⟩
      · rw [seq_setSeq_same]; rfl
      · rw [seq_setSeq_same]
      · rw [seq_setSeq_same]
      · intro g; unfold Ctx.rG; rw [seq_setSeq_same]
      · exact ctxRest_setSeq ..
    · refine ⟨fun p _ => by cases p <;> rfl, rfl, rfl, rfl, ?_, ?_, ?_, ?_, rfl⟩ <;>
        first | (cases q <;> rfl) | (intro g; cases q <;> rfl)

/-- An effect that writes one scalar register, issued. -/
theorem writesScalar_finish {s : State} {c : Ctx} (hc : getCtx s (ctxOf s.cur) = some c) (h : Hdr) (r : SReg)
    (v : Ctx → Word) :
    WritesScalar s (finish (modCtx s (ctxOf s.cur) fun x => x.wS s.cur.seq r (v x)) (ctxOf s.cur) s.cur.seq h .plain
      Exc.none none none false .ctx) c h r (v c) := by
  obtain ⟨w1, w2, w3, w4, w5, w6, w7, w8, w9⟩ := wS_frame c s.cur.seq r (v c)
  have F := finishCtx_frame s.cur.seq h .plain Exc.none none none false .ctx (c.wS s.cur.seq r (v c))
  have Q := finishCtx_seq s.cur.seq h .plain Exc.none none none false .ctx (c.wS s.cur.seq r (v c))
  refine ⟨finish_outside s _ _ _ _ _ _ _ _ fun c => wS_id .., _, finish_ctx (fun c => wS_id ..) hc, ?_, ?_, ?_, ?_, ?_⟩
  · refine ⟨fun p hp => (F.others p hp).trans (w1 p hp), ?_, ?_⟩
    · rw [F.tokens]; unfold takeWait Ctx.setTok Ctx.tok; rw [w6, w2]; split <;> simp [w2]
    · rw [F.rest, w9]
  · have V := finishCtx_vectors s.cur.seq h .plain Exc.none none none false .ctx (c.wS s.cur.seq r (v c))
    exact ⟨V.1.trans w3, V.2.trans w4⟩
  · intro g; rw [finishCtx_rG, w8]
  · intro x; rw [finishCtx_rS, rS_wS]
  · exact ⟨by rw [Q.1]; exact congrArg Prod.fst w5, by rw [Q.2.2, w7]⟩

end Sys2Proof.Laws
end

