-- ==== Sys2Proof/Laws/State.lean ====
section
/-! SUPPORT. One law per field and update: an update of one part of the state leaves every other field as it was, so that no
proof unfolds a record update. -/

namespace Sys2Proof.Laws

open Machine

section modCtx

variable (s : State) (id : CtxId) (f : Ctx → Ctx)

@[simp] theorem modCtx_saved : (modCtx s id f).saved = s.saved := rfl
@[simp] theorem modCtx_cores : (modCtx s id f).cores = s.cores := rfl
@[simp] theorem modCtx_dies : (modCtx s id f).dies = s.dies := rfl
@[simp] theorem modCtx_polders : (modCtx s id f).polders = s.polders := rfl
@[simp] theorem modCtx_buntings : (modCtx s id f).buntings = s.buntings := rfl
@[simp] theorem modCtx_nextBunting : (modCtx s id f).nextBunting = s.nextBunting := rfl
@[simp] theorem modCtx_mem : (modCtx s id f).mem = s.mem := rfl
@[simp] theorem modCtx_pool : (modCtx s id f).pool = s.pool := rfl
@[simp] theorem modCtx_marks : (modCtx s id f).marks = s.marks := rfl
@[simp] theorem modCtx_poison : (modCtx s id f).poison = s.poison := rfl
@[simp] theorem modCtx_areas : (modCtx s id f).areas = s.areas := rfl
@[simp] theorem modCtx_keys : (modCtx s id f).keys = s.keys := rfl
@[simp] theorem modCtx_nextGen : (modCtx s id f).nextGen = s.nextGen := rfl
@[simp] theorem modCtx_asids : (modCtx s id f).asids = s.asids := rfl
@[simp] theorem modCtx_regions : (modCtx s id f).regions = s.regions := rfl
@[simp] theorem modCtx_breaches : (modCtx s id f).breaches = s.breaches := rfl
@[simp] theorem modCtx_ports : (modCtx s id f).ports = s.ports := rfl
@[simp] theorem modCtx_faults : (modCtx s id f).faults = s.faults := rfl
@[simp] theorem modCtx_nextFault : (modCtx s id f).nextFault = s.nextFault := rfl
@[simp] theorem modCtx_roomWait : (modCtx s id f).roomWait = s.roomWait := rfl
@[simp] theorem modCtx_lateTokens : (modCtx s id f).lateTokens = s.lateTokens := rfl
@[simp] theorem modCtx_heldSubs : (modCtx s id f).heldSubs = s.heldSubs := rfl
@[simp] theorem modCtx_heldFires : (modCtx s id f).heldFires = s.heldFires := rfl
@[simp] theorem modCtx_fires : (modCtx s id f).fires = s.fires := rfl
@[simp] theorem modCtx_watches : (modCtx s id f).watches = s.watches := rfl
@[simp] theorem modCtx_nextWatch : (modCtx s id f).nextWatch = s.nextWatch := rfl
@[simp] theorem modCtx_lastServed : (modCtx s id f).lastServed = s.lastServed := rfl
@[simp] theorem modCtx_images : (modCtx s id f).images = s.images := rfl
@[simp] theorem modCtx_nextImage : (modCtx s id f).nextImage = s.nextImage := rfl
@[simp] theorem modCtx_cvBusy : (modCtx s id f).cvBusy = s.cvBusy := rfl
@[simp] theorem modCtx_cvStatus : (modCtx s id f).cvStatus = s.cvStatus := rfl
@[simp] theorem modCtx_cvwd0 : (modCtx s id f).cvwd0 = s.cvwd0 := rfl
@[simp] theorem modCtx_versions : (modCtx s id f).versions = s.versions := rfl
@[simp] theorem modCtx_load : (modCtx s id f).load = s.load := rfl
@[simp] theorem modCtx_vlStatus : (modCtx s id f).vlStatus = s.vlStatus := rfl
@[simp] theorem modCtx_vlFailed : (modCtx s id f).vlFailed = s.vlFailed := rfl
@[simp] theorem modCtx_mkeys : (modCtx s id f).mkeys = s.mkeys := rfl
@[simp] theorem modCtx_mkeyStatus : (modCtx s id f).mkeyStatus = s.mkeyStatus := rfl
@[simp] theorem modCtx_burgeeDst : (modCtx s id f).burgeeDst = s.burgeeDst := rfl
@[simp] theorem modCtx_burgeeSeq : (modCtx s id f).burgeeSeq = s.burgeeSeq := rfl
@[simp] theorem modCtx_burgeeDue : (modCtx s id f).burgeeDue = s.burgeeDue := rfl
@[simp] theorem modCtx_rtvec : (modCtx s id f).rtvec = s.rtvec := rfl
@[simp] theorem modCtx_preq : (modCtx s id f).preq = s.preq := rfl
@[simp] theorem modCtx_pstatStatus : (modCtx s id f).pstatStatus = s.pstatStatus := rfl
@[simp] theorem modCtx_pstatSaved : (modCtx s id f).pstatSaved = s.pstatSaved := rfl
@[simp] theorem modCtx_pstatForced : (modCtx s id f).pstatForced = s.pstatForced := rfl
@[simp] theorem modCtx_commons : (modCtx s id f).commons = s.commons := rfl
@[simp] theorem modCtx_audEn : (modCtx s id f).audEn = s.audEn := rfl
@[simp] theorem modCtx_audRate : (modCtx s id f).audRate = s.audRate := rfl
@[simp] theorem modCtx_audThresh : (modCtx s id f).audThresh = s.audThresh := rfl
@[simp] theorem modCtx_audbuf : (modCtx s id f).audbuf = s.audbuf := rfl
@[simp] theorem modCtx_audlog : (modCtx s id f).audlog = s.audlog := rfl
@[simp] theorem modCtx_audits : (modCtx s id f).audits = s.audits := rfl
@[simp] theorem modCtx_nextAudit : (modCtx s id f).nextAudit = s.nextAudit := rfl
@[simp] theorem modCtx_suspectSel : (modCtx s id f).suspectSel = s.suspectSel := rfl
@[simp] theorem modCtx_fabid : (modCtx s id f).fabid = s.fabid := rfl
@[simp] theorem modCtx_froute : (modCtx s id f).froute = s.froute := rfl
@[simp] theorem modCtx_fpmap : (modCtx s id f).fpmap = s.fpmap := rfl
@[simp] theorem modCtx_fablog : (modCtx s id f).fablog = s.fablog := rfl
@[simp] theorem modCtx_fabDown : (modCtx s id f).fabDown = s.fabDown := rfl
@[simp] theorem modCtx_fabReqs : (modCtx s id f).fabReqs = s.fabReqs := rfl
@[simp] theorem modCtx_nextRtag : (modCtx s id f).nextRtag = s.nextRtag := rfl
@[simp] theorem modCtx_linksDown : (modCtx s id f).linksDown = s.linksDown := rfl
@[simp] theorem modCtx_fns : (modCtx s id f).fns = s.fns := rfl
@[simp] theorem modCtx_bootstat : (modCtx s id f).bootstat = s.bootstat := rfl
@[simp] theorem modCtx_ide : (modCtx s id f).ide = s.ide := rfl
@[simp] theorem modCtx_spdmReady : (modCtx s id f).spdmReady = s.spdmReady := rfl
@[simp] theorem modCtx_spdm : (modCtx s id f).spdm = s.spdm := rfl
@[simp] theorem modCtx_startup : (modCtx s id f).startup = s.startup := rfl
@[simp] theorem modCtx_powered : (modCtx s id f).powered = s.powered := rfl
@[simp] theorem modCtx_halted : (modCtx s id f).halted = s.halted := rfl
@[simp] theorem modCtx_optis : (modCtx s id f).optis = s.optis := rfl
@[simp] theorem modCtx_corrected : (modCtx s id f).corrected = s.corrected := rfl
@[simp] theorem modCtx_fwVersion : (modCtx s id f).fwVersion = s.fwVersion := rfl
@[simp] theorem modCtx_firmware : (modCtx s id f).firmware = s.firmware := rfl
@[simp] theorem modCtx_fwPending : (modCtx s id f).fwPending = s.fwPending := rfl
@[simp] theorem modCtx_cycle : (modCtx s id f).cycle = s.cycle := rfl
@[simp] theorem modCtx_qosStart : (modCtx s id f).qosStart = s.qosStart := rfl
@[simp] theorem modCtx_cur : (modCtx s id f).cur = s.cur := rfl
@[simp] theorem modCtx_agenda : (modCtx s id f).agenda = s.agenda := rfl
@[simp] theorem modCtx_freeCtr : (modCtx s id f).freeCtr = s.freeCtr := rfl
@[simp] theorem modCtx_outbox : (modCtx s id f).outbox = s.outbox := rfl
@[simp] theorem modCtx_stalled : (modCtx s id f).stalled = s.stalled := rfl

end modCtx

section modCore

variable (s : State) (n : Nat) (f : CoreState → CoreState)

@[simp] theorem modCore_ctxs : (modCore s n f).ctxs = s.ctxs := rfl
@[simp] theorem modCore_saved : (modCore s n f).saved = s.saved := rfl
@[simp] theorem modCore_dies : (modCore s n f).dies = s.dies := rfl
@[simp] theorem modCore_polders : (modCore s n f).polders = s.polders := rfl
@[simp] theorem modCore_buntings : (modCore s n f).buntings = s.buntings := rfl
@[simp] theorem modCore_nextBunting : (modCore s n f).nextBunting = s.nextBunting := rfl
@[simp] theorem modCore_mem : (modCore s n f).mem = s.mem := rfl
@[simp] theorem modCore_pool : (modCore s n f).pool = s.pool := rfl
@[simp] theorem modCore_marks : (modCore s n f).marks = s.marks := rfl
@[simp] theorem modCore_poison : (modCore s n f).poison = s.poison := rfl
@[simp] theorem modCore_areas : (modCore s n f).areas = s.areas := rfl
@[simp] theorem modCore_keys : (modCore s n f).keys = s.keys := rfl
@[simp] theorem modCore_nextGen : (modCore s n f).nextGen = s.nextGen := rfl
@[simp] theorem modCore_asids : (modCore s n f).asids = s.asids := rfl
@[simp] theorem modCore_regions : (modCore s n f).regions = s.regions := rfl
@[simp] theorem modCore_breaches : (modCore s n f).breaches = s.breaches := rfl
@[simp] theorem modCore_ports : (modCore s n f).ports = s.ports := rfl
@[simp] theorem modCore_faults : (modCore s n f).faults = s.faults := rfl
@[simp] theorem modCore_nextFault : (modCore s n f).nextFault = s.nextFault := rfl
@[simp] theorem modCore_roomWait : (modCore s n f).roomWait = s.roomWait := rfl
@[simp] theorem modCore_lateTokens : (modCore s n f).lateTokens = s.lateTokens := rfl
@[simp] theorem modCore_heldSubs : (modCore s n f).heldSubs = s.heldSubs := rfl
@[simp] theorem modCore_heldFires : (modCore s n f).heldFires = s.heldFires := rfl
@[simp] theorem modCore_fires : (modCore s n f).fires = s.fires := rfl
@[simp] theorem modCore_watches : (modCore s n f).watches = s.watches := rfl
@[simp] theorem modCore_nextWatch : (modCore s n f).nextWatch = s.nextWatch := rfl
@[simp] theorem modCore_lastServed : (modCore s n f).lastServed = s.lastServed := rfl
@[simp] theorem modCore_images : (modCore s n f).images = s.images := rfl
@[simp] theorem modCore_nextImage : (modCore s n f).nextImage = s.nextImage := rfl
@[simp] theorem modCore_cvBusy : (modCore s n f).cvBusy = s.cvBusy := rfl
@[simp] theorem modCore_cvStatus : (modCore s n f).cvStatus = s.cvStatus := rfl
@[simp] theorem modCore_cvwd0 : (modCore s n f).cvwd0 = s.cvwd0 := rfl
@[simp] theorem modCore_versions : (modCore s n f).versions = s.versions := rfl
@[simp] theorem modCore_load : (modCore s n f).load = s.load := rfl
@[simp] theorem modCore_vlStatus : (modCore s n f).vlStatus = s.vlStatus := rfl
@[simp] theorem modCore_vlFailed : (modCore s n f).vlFailed = s.vlFailed := rfl
@[simp] theorem modCore_mkeys : (modCore s n f).mkeys = s.mkeys := rfl
@[simp] theorem modCore_mkeyStatus : (modCore s n f).mkeyStatus = s.mkeyStatus := rfl
@[simp] theorem modCore_burgeeDst : (modCore s n f).burgeeDst = s.burgeeDst := rfl
@[simp] theorem modCore_burgeeSeq : (modCore s n f).burgeeSeq = s.burgeeSeq := rfl
@[simp] theorem modCore_burgeeDue : (modCore s n f).burgeeDue = s.burgeeDue := rfl
@[simp] theorem modCore_rtvec : (modCore s n f).rtvec = s.rtvec := rfl
@[simp] theorem modCore_preq : (modCore s n f).preq = s.preq := rfl
@[simp] theorem modCore_pstatStatus : (modCore s n f).pstatStatus = s.pstatStatus := rfl
@[simp] theorem modCore_pstatSaved : (modCore s n f).pstatSaved = s.pstatSaved := rfl
@[simp] theorem modCore_pstatForced : (modCore s n f).pstatForced = s.pstatForced := rfl
@[simp] theorem modCore_commons : (modCore s n f).commons = s.commons := rfl
@[simp] theorem modCore_audEn : (modCore s n f).audEn = s.audEn := rfl
@[simp] theorem modCore_audRate : (modCore s n f).audRate = s.audRate := rfl
@[simp] theorem modCore_audThresh : (modCore s n f).audThresh = s.audThresh := rfl
@[simp] theorem modCore_audbuf : (modCore s n f).audbuf = s.audbuf := rfl
@[simp] theorem modCore_audlog : (modCore s n f).audlog = s.audlog := rfl
@[simp] theorem modCore_audits : (modCore s n f).audits = s.audits := rfl
@[simp] theorem modCore_nextAudit : (modCore s n f).nextAudit = s.nextAudit := rfl
@[simp] theorem modCore_suspectSel : (modCore s n f).suspectSel = s.suspectSel := rfl
@[simp] theorem modCore_fabid : (modCore s n f).fabid = s.fabid := rfl
@[simp] theorem modCore_froute : (modCore s n f).froute = s.froute := rfl
@[simp] theorem modCore_fpmap : (modCore s n f).fpmap = s.fpmap := rfl
@[simp] theorem modCore_fablog : (modCore s n f).fablog = s.fablog := rfl
@[simp] theorem modCore_fabDown : (modCore s n f).fabDown = s.fabDown := rfl
@[simp] theorem modCore_fabReqs : (modCore s n f).fabReqs = s.fabReqs := rfl
@[simp] theorem modCore_nextRtag : (modCore s n f).nextRtag = s.nextRtag := rfl
@[simp] theorem modCore_linksDown : (modCore s n f).linksDown = s.linksDown := rfl
@[simp] theorem modCore_fns : (modCore s n f).fns = s.fns := rfl
@[simp] theorem modCore_bootstat : (modCore s n f).bootstat = s.bootstat := rfl
@[simp] theorem modCore_ide : (modCore s n f).ide = s.ide := rfl
@[simp] theorem modCore_spdmReady : (modCore s n f).spdmReady = s.spdmReady := rfl
@[simp] theorem modCore_spdm : (modCore s n f).spdm = s.spdm := rfl
@[simp] theorem modCore_startup : (modCore s n f).startup = s.startup := rfl
@[simp] theorem modCore_powered : (modCore s n f).powered = s.powered := rfl
@[simp] theorem modCore_halted : (modCore s n f).halted = s.halted := rfl
@[simp] theorem modCore_optis : (modCore s n f).optis = s.optis := rfl
@[simp] theorem modCore_corrected : (modCore s n f).corrected = s.corrected := rfl
@[simp] theorem modCore_fwVersion : (modCore s n f).fwVersion = s.fwVersion := rfl
@[simp] theorem modCore_firmware : (modCore s n f).firmware = s.firmware := rfl
@[simp] theorem modCore_fwPending : (modCore s n f).fwPending = s.fwPending := rfl
@[simp] theorem modCore_cycle : (modCore s n f).cycle = s.cycle := rfl
@[simp] theorem modCore_qosStart : (modCore s n f).qosStart = s.qosStart := rfl
@[simp] theorem modCore_cur : (modCore s n f).cur = s.cur := rfl
@[simp] theorem modCore_agenda : (modCore s n f).agenda = s.agenda := rfl
@[simp] theorem modCore_freeCtr : (modCore s n f).freeCtr = s.freeCtr := rfl
@[simp] theorem modCore_outbox : (modCore s n f).outbox = s.outbox := rfl
@[simp] theorem modCore_stalled : (modCore s n f).stalled = s.stalled := rfl

end modCore

section modDie

variable (s : State) (n : Nat) (f : DieState → DieState)

@[simp] theorem modDie_ctxs : (modDie s n f).ctxs = s.ctxs := rfl
@[simp] theorem modDie_saved : (modDie s n f).saved = s.saved := rfl
@[simp] theorem modDie_cores : (modDie s n f).cores = s.cores := rfl
@[simp] theorem modDie_polders : (modDie s n f).polders = s.polders := rfl
@[simp] theorem modDie_buntings : (modDie s n f).buntings = s.buntings := rfl
@[simp] theorem modDie_nextBunting : (modDie s n f).nextBunting = s.nextBunting := rfl
@[simp] theorem modDie_mem : (modDie s n f).mem = s.mem := rfl
@[simp] theorem modDie_pool : (modDie s n f).pool = s.pool := rfl
@[simp] theorem modDie_marks : (modDie s n f).marks = s.marks := rfl
@[simp] theorem modDie_poison : (modDie s n f).poison = s.poison := rfl
@[simp] theorem modDie_areas : (modDie s n f).areas = s.areas := rfl
@[simp] theorem modDie_keys : (modDie s n f).keys = s.keys := rfl
@[simp] theorem modDie_nextGen : (modDie s n f).nextGen = s.nextGen := rfl
@[simp] theorem modDie_asids : (modDie s n f).asids = s.asids := rfl
@[simp] theorem modDie_regions : (modDie s n f).regions = s.regions := rfl
@[simp] theorem modDie_breaches : (modDie s n f).breaches = s.breaches := rfl
@[simp] theorem modDie_ports : (modDie s n f).ports = s.ports := rfl
@[simp] theorem modDie_faults : (modDie s n f).faults = s.faults := rfl
@[simp] theorem modDie_nextFault : (modDie s n f).nextFault = s.nextFault := rfl
@[simp] theorem modDie_roomWait : (modDie s n f).roomWait = s.roomWait := rfl
@[simp] theorem modDie_lateTokens : (modDie s n f).lateTokens = s.lateTokens := rfl
@[simp] theorem modDie_heldSubs : (modDie s n f).heldSubs = s.heldSubs := rfl
@[simp] theorem modDie_heldFires : (modDie s n f).heldFires = s.heldFires := rfl
@[simp] theorem modDie_fires : (modDie s n f).fires = s.fires := rfl
@[simp] theorem modDie_watches : (modDie s n f).watches = s.watches := rfl
@[simp] theorem modDie_nextWatch : (modDie s n f).nextWatch = s.nextWatch := rfl
@[simp] theorem modDie_lastServed : (modDie s n f).lastServed = s.lastServed := rfl
@[simp] theorem modDie_images : (modDie s n f).images = s.images := rfl
@[simp] theorem modDie_nextImage : (modDie s n f).nextImage = s.nextImage := rfl
@[simp] theorem modDie_cvBusy : (modDie s n f).cvBusy = s.cvBusy := rfl
@[simp] theorem modDie_cvStatus : (modDie s n f).cvStatus = s.cvStatus := rfl
@[simp] theorem modDie_cvwd0 : (modDie s n f).cvwd0 = s.cvwd0 := rfl
@[simp] theorem modDie_versions : (modDie s n f).versions = s.versions := rfl
@[simp] theorem modDie_load : (modDie s n f).load = s.load := rfl
@[simp] theorem modDie_vlStatus : (modDie s n f).vlStatus = s.vlStatus := rfl
@[simp] theorem modDie_vlFailed : (modDie s n f).vlFailed = s.vlFailed := rfl
@[simp] theorem modDie_mkeys : (modDie s n f).mkeys = s.mkeys := rfl
@[simp] theorem modDie_mkeyStatus : (modDie s n f).mkeyStatus = s.mkeyStatus := rfl
@[simp] theorem modDie_burgeeDst : (modDie s n f).burgeeDst = s.burgeeDst := rfl
@[simp] theorem modDie_burgeeSeq : (modDie s n f).burgeeSeq = s.burgeeSeq := rfl
@[simp] theorem modDie_burgeeDue : (modDie s n f).burgeeDue = s.burgeeDue := rfl
@[simp] theorem modDie_rtvec : (modDie s n f).rtvec = s.rtvec := rfl
@[simp] theorem modDie_preq : (modDie s n f).preq = s.preq := rfl
@[simp] theorem modDie_pstatStatus : (modDie s n f).pstatStatus = s.pstatStatus := rfl
@[simp] theorem modDie_pstatSaved : (modDie s n f).pstatSaved = s.pstatSaved := rfl
@[simp] theorem modDie_pstatForced : (modDie s n f).pstatForced = s.pstatForced := rfl
@[simp] theorem modDie_commons : (modDie s n f).commons = s.commons := rfl
@[simp] theorem modDie_audEn : (modDie s n f).audEn = s.audEn := rfl
@[simp] theorem modDie_audRate : (modDie s n f).audRate = s.audRate := rfl
@[simp] theorem modDie_audThresh : (modDie s n f).audThresh = s.audThresh := rfl
@[simp] theorem modDie_audbuf : (modDie s n f).audbuf = s.audbuf := rfl
@[simp] theorem modDie_audlog : (modDie s n f).audlog = s.audlog := rfl
@[simp] theorem modDie_audits : (modDie s n f).audits = s.audits := rfl
@[simp] theorem modDie_nextAudit : (modDie s n f).nextAudit = s.nextAudit := rfl
@[simp] theorem modDie_suspectSel : (modDie s n f).suspectSel = s.suspectSel := rfl
@[simp] theorem modDie_fabid : (modDie s n f).fabid = s.fabid := rfl
@[simp] theorem modDie_froute : (modDie s n f).froute = s.froute := rfl
@[simp] theorem modDie_fpmap : (modDie s n f).fpmap = s.fpmap := rfl
@[simp] theorem modDie_fablog : (modDie s n f).fablog = s.fablog := rfl
@[simp] theorem modDie_fabDown : (modDie s n f).fabDown = s.fabDown := rfl
@[simp] theorem modDie_fabReqs : (modDie s n f).fabReqs = s.fabReqs := rfl
@[simp] theorem modDie_nextRtag : (modDie s n f).nextRtag = s.nextRtag := rfl
@[simp] theorem modDie_linksDown : (modDie s n f).linksDown = s.linksDown := rfl
@[simp] theorem modDie_fns : (modDie s n f).fns = s.fns := rfl
@[simp] theorem modDie_bootstat : (modDie s n f).bootstat = s.bootstat := rfl
@[simp] theorem modDie_ide : (modDie s n f).ide = s.ide := rfl
@[simp] theorem modDie_spdmReady : (modDie s n f).spdmReady = s.spdmReady := rfl
@[simp] theorem modDie_spdm : (modDie s n f).spdm = s.spdm := rfl
@[simp] theorem modDie_startup : (modDie s n f).startup = s.startup := rfl
@[simp] theorem modDie_powered : (modDie s n f).powered = s.powered := rfl
@[simp] theorem modDie_halted : (modDie s n f).halted = s.halted := rfl
@[simp] theorem modDie_optis : (modDie s n f).optis = s.optis := rfl
@[simp] theorem modDie_corrected : (modDie s n f).corrected = s.corrected := rfl
@[simp] theorem modDie_fwVersion : (modDie s n f).fwVersion = s.fwVersion := rfl
@[simp] theorem modDie_firmware : (modDie s n f).firmware = s.firmware := rfl
@[simp] theorem modDie_fwPending : (modDie s n f).fwPending = s.fwPending := rfl
@[simp] theorem modDie_cycle : (modDie s n f).cycle = s.cycle := rfl
@[simp] theorem modDie_qosStart : (modDie s n f).qosStart = s.qosStart := rfl
@[simp] theorem modDie_cur : (modDie s n f).cur = s.cur := rfl
@[simp] theorem modDie_agenda : (modDie s n f).agenda = s.agenda := rfl
@[simp] theorem modDie_freeCtr : (modDie s n f).freeCtr = s.freeCtr := rfl
@[simp] theorem modDie_outbox : (modDie s n f).outbox = s.outbox := rfl
@[simp] theorem modDie_stalled : (modDie s n f).stalled = s.stalled := rfl

end modDie

section modPolder

variable (s : State) (p : BitVec 4) (f : Polder → Polder)

@[simp] theorem modPolder_ctxs : (modPolder s p f).ctxs = s.ctxs := rfl
@[simp] theorem modPolder_saved : (modPolder s p f).saved = s.saved := rfl
@[simp] theorem modPolder_cores : (modPolder s p f).cores = s.cores := rfl
@[simp] theorem modPolder_dies : (modPolder s p f).dies = s.dies := rfl
@[simp] theorem modPolder_buntings : (modPolder s p f).buntings = s.buntings := rfl
@[simp] theorem modPolder_nextBunting : (modPolder s p f).nextBunting = s.nextBunting := rfl
@[simp] theorem modPolder_mem : (modPolder s p f).mem = s.mem := rfl
@[simp] theorem modPolder_pool : (modPolder s p f).pool = s.pool := rfl
@[simp] theorem modPolder_marks : (modPolder s p f).marks = s.marks := rfl
@[simp] theorem modPolder_poison : (modPolder s p f).poison = s.poison := rfl
@[simp] theorem modPolder_areas : (modPolder s p f).areas = s.areas := rfl
@[simp] theorem modPolder_keys : (modPolder s p f).keys = s.keys := rfl
@[simp] theorem modPolder_nextGen : (modPolder s p f).nextGen = s.nextGen := rfl
@[simp] theorem modPolder_asids : (modPolder s p f).asids = s.asids := rfl
@[simp] theorem modPolder_regions : (modPolder s p f).regions = s.regions := rfl
@[simp] theorem modPolder_breaches : (modPolder s p f).breaches = s.breaches := rfl
@[simp] theorem modPolder_ports : (modPolder s p f).ports = s.ports := rfl
@[simp] theorem modPolder_faults : (modPolder s p f).faults = s.faults := rfl
@[simp] theorem modPolder_nextFault : (modPolder s p f).nextFault = s.nextFault := rfl
@[simp] theorem modPolder_roomWait : (modPolder s p f).roomWait = s.roomWait := rfl
@[simp] theorem modPolder_lateTokens : (modPolder s p f).lateTokens = s.lateTokens := rfl
@[simp] theorem modPolder_heldSubs : (modPolder s p f).heldSubs = s.heldSubs := rfl
@[simp] theorem modPolder_heldFires : (modPolder s p f).heldFires = s.heldFires := rfl
@[simp] theorem modPolder_fires : (modPolder s p f).fires = s.fires := rfl
@[simp] theorem modPolder_watches : (modPolder s p f).watches = s.watches := rfl
@[simp] theorem modPolder_nextWatch : (modPolder s p f).nextWatch = s.nextWatch := rfl
@[simp] theorem modPolder_lastServed : (modPolder s p f).lastServed = s.lastServed := rfl
@[simp] theorem modPolder_images : (modPolder s p f).images = s.images := rfl
@[simp] theorem modPolder_nextImage : (modPolder s p f).nextImage = s.nextImage := rfl
@[simp] theorem modPolder_cvBusy : (modPolder s p f).cvBusy = s.cvBusy := rfl
@[simp] theorem modPolder_cvStatus : (modPolder s p f).cvStatus = s.cvStatus := rfl
@[simp] theorem modPolder_cvwd0 : (modPolder s p f).cvwd0 = s.cvwd0 := rfl
@[simp] theorem modPolder_versions : (modPolder s p f).versions = s.versions := rfl
@[simp] theorem modPolder_load : (modPolder s p f).load = s.load := rfl
@[simp] theorem modPolder_vlStatus : (modPolder s p f).vlStatus = s.vlStatus := rfl
@[simp] theorem modPolder_vlFailed : (modPolder s p f).vlFailed = s.vlFailed := rfl
@[simp] theorem modPolder_mkeys : (modPolder s p f).mkeys = s.mkeys := rfl
@[simp] theorem modPolder_mkeyStatus : (modPolder s p f).mkeyStatus = s.mkeyStatus := rfl
@[simp] theorem modPolder_burgeeDst : (modPolder s p f).burgeeDst = s.burgeeDst := rfl
@[simp] theorem modPolder_burgeeSeq : (modPolder s p f).burgeeSeq = s.burgeeSeq := rfl
@[simp] theorem modPolder_burgeeDue : (modPolder s p f).burgeeDue = s.burgeeDue := rfl
@[simp] theorem modPolder_rtvec : (modPolder s p f).rtvec = s.rtvec := rfl
@[simp] theorem modPolder_preq : (modPolder s p f).preq = s.preq := rfl
@[simp] theorem modPolder_pstatStatus : (modPolder s p f).pstatStatus = s.pstatStatus := rfl
@[simp] theorem modPolder_pstatSaved : (modPolder s p f).pstatSaved = s.pstatSaved := rfl
@[simp] theorem modPolder_pstatForced : (modPolder s p f).pstatForced = s.pstatForced := rfl
@[simp] theorem modPolder_commons : (modPolder s p f).commons = s.commons := rfl
@[simp] theorem modPolder_audEn : (modPolder s p f).audEn = s.audEn := rfl
@[simp] theorem modPolder_audRate : (modPolder s p f).audRate = s.audRate := rfl
@[simp] theorem modPolder_audThresh : (modPolder s p f).audThresh = s.audThresh := rfl
@[simp] theorem modPolder_audbuf : (modPolder s p f).audbuf = s.audbuf := rfl
@[simp] theorem modPolder_audlog : (modPolder s p f).audlog = s.audlog := rfl
@[simp] theorem modPolder_audits : (modPolder s p f).audits = s.audits := rfl
@[simp] theorem modPolder_nextAudit : (modPolder s p f).nextAudit = s.nextAudit := rfl
@[simp] theorem modPolder_suspectSel : (modPolder s p f).suspectSel = s.suspectSel := rfl
@[simp] theorem modPolder_fabid : (modPolder s p f).fabid = s.fabid := rfl
@[simp] theorem modPolder_froute : (modPolder s p f).froute = s.froute := rfl
@[simp] theorem modPolder_fpmap : (modPolder s p f).fpmap = s.fpmap := rfl
@[simp] theorem modPolder_fablog : (modPolder s p f).fablog = s.fablog := rfl
@[simp] theorem modPolder_fabDown : (modPolder s p f).fabDown = s.fabDown := rfl
@[simp] theorem modPolder_fabReqs : (modPolder s p f).fabReqs = s.fabReqs := rfl
@[simp] theorem modPolder_nextRtag : (modPolder s p f).nextRtag = s.nextRtag := rfl
@[simp] theorem modPolder_linksDown : (modPolder s p f).linksDown = s.linksDown := rfl
@[simp] theorem modPolder_fns : (modPolder s p f).fns = s.fns := rfl
@[simp] theorem modPolder_bootstat : (modPolder s p f).bootstat = s.bootstat := rfl
@[simp] theorem modPolder_ide : (modPolder s p f).ide = s.ide := rfl
@[simp] theorem modPolder_spdmReady : (modPolder s p f).spdmReady = s.spdmReady := rfl
@[simp] theorem modPolder_spdm : (modPolder s p f).spdm = s.spdm := rfl
@[simp] theorem modPolder_startup : (modPolder s p f).startup = s.startup := rfl
@[simp] theorem modPolder_powered : (modPolder s p f).powered = s.powered := rfl
@[simp] theorem modPolder_halted : (modPolder s p f).halted = s.halted := rfl
@[simp] theorem modPolder_optis : (modPolder s p f).optis = s.optis := rfl
@[simp] theorem modPolder_corrected : (modPolder s p f).corrected = s.corrected := rfl
@[simp] theorem modPolder_fwVersion : (modPolder s p f).fwVersion = s.fwVersion := rfl
@[simp] theorem modPolder_firmware : (modPolder s p f).firmware = s.firmware := rfl
@[simp] theorem modPolder_fwPending : (modPolder s p f).fwPending = s.fwPending := rfl
@[simp] theorem modPolder_cycle : (modPolder s p f).cycle = s.cycle := rfl
@[simp] theorem modPolder_qosStart : (modPolder s p f).qosStart = s.qosStart := rfl
@[simp] theorem modPolder_cur : (modPolder s p f).cur = s.cur := rfl
@[simp] theorem modPolder_agenda : (modPolder s p f).agenda = s.agenda := rfl
@[simp] theorem modPolder_freeCtr : (modPolder s p f).freeCtr = s.freeCtr := rfl
@[simp] theorem modPolder_outbox : (modPolder s p f).outbox = s.outbox := rfl
@[simp] theorem modPolder_stalled : (modPolder s p f).stalled = s.stalled := rfl

end modPolder

section modLaunch

variable (s : State) (p : BitVec 4) (q : BitVec 48) (f : Launch → Launch)

@[simp] theorem modLaunch_ctxs : (modLaunch s p q f).ctxs = s.ctxs := rfl
@[simp] theorem modLaunch_saved : (modLaunch s p q f).saved = s.saved := rfl
@[simp] theorem modLaunch_cores : (modLaunch s p q f).cores = s.cores := rfl
@[simp] theorem modLaunch_dies : (modLaunch s p q f).dies = s.dies := rfl
@[simp] theorem modLaunch_buntings : (modLaunch s p q f).buntings = s.buntings := rfl
@[simp] theorem modLaunch_nextBunting : (modLaunch s p q f).nextBunting = s.nextBunting := rfl
@[simp] theorem modLaunch_mem : (modLaunch s p q f).mem = s.mem := rfl
@[simp] theorem modLaunch_pool : (modLaunch s p q f).pool = s.pool := rfl
@[simp] theorem modLaunch_marks : (modLaunch s p q f).marks = s.marks := rfl
@[simp] theorem modLaunch_poison : (modLaunch s p q f).poison = s.poison := rfl
@[simp] theorem modLaunch_areas : (modLaunch s p q f).areas = s.areas := rfl
@[simp] theorem modLaunch_keys : (modLaunch s p q f).keys = s.keys := rfl
@[simp] theorem modLaunch_nextGen : (modLaunch s p q f).nextGen = s.nextGen := rfl
@[simp] theorem modLaunch_asids : (modLaunch s p q f).asids = s.asids := rfl
@[simp] theorem modLaunch_regions : (modLaunch s p q f).regions = s.regions := rfl
@[simp] theorem modLaunch_breaches : (modLaunch s p q f).breaches = s.breaches := rfl
@[simp] theorem modLaunch_ports : (modLaunch s p q f).ports = s.ports := rfl
@[simp] theorem modLaunch_faults : (modLaunch s p q f).faults = s.faults := rfl
@[simp] theorem modLaunch_nextFault : (modLaunch s p q f).nextFault = s.nextFault := rfl
@[simp] theorem modLaunch_roomWait : (modLaunch s p q f).roomWait = s.roomWait := rfl
@[simp] theorem modLaunch_lateTokens : (modLaunch s p q f).lateTokens = s.lateTokens := rfl
@[simp] theorem modLaunch_heldSubs : (modLaunch s p q f).heldSubs = s.heldSubs := rfl
@[simp] theorem modLaunch_heldFires : (modLaunch s p q f).heldFires = s.heldFires := rfl
@[simp] theorem modLaunch_fires : (modLaunch s p q f).fires = s.fires := rfl
@[simp] theorem modLaunch_watches : (modLaunch s p q f).watches = s.watches := rfl
@[simp] theorem modLaunch_nextWatch : (modLaunch s p q f).nextWatch = s.nextWatch := rfl
@[simp] theorem modLaunch_lastServed : (modLaunch s p q f).lastServed = s.lastServed := rfl
@[simp] theorem modLaunch_images : (modLaunch s p q f).images = s.images := rfl
@[simp] theorem modLaunch_nextImage : (modLaunch s p q f).nextImage = s.nextImage := rfl
@[simp] theorem modLaunch_cvBusy : (modLaunch s p q f).cvBusy = s.cvBusy := rfl
@[simp] theorem modLaunch_cvStatus : (modLaunch s p q f).cvStatus = s.cvStatus := rfl
@[simp] theorem modLaunch_cvwd0 : (modLaunch s p q f).cvwd0 = s.cvwd0 := rfl
@[simp] theorem modLaunch_versions : (modLaunch s p q f).versions = s.versions := rfl
@[simp] theorem modLaunch_load : (modLaunch s p q f).load = s.load := rfl
@[simp] theorem modLaunch_vlStatus : (modLaunch s p q f).vlStatus = s.vlStatus := rfl
@[simp] theorem modLaunch_vlFailed : (modLaunch s p q f).vlFailed = s.vlFailed := rfl
@[simp] theorem modLaunch_mkeys : (modLaunch s p q f).mkeys = s.mkeys := rfl
@[simp] theorem modLaunch_mkeyStatus : (modLaunch s p q f).mkeyStatus = s.mkeyStatus := rfl
@[simp] theorem modLaunch_burgeeDst : (modLaunch s p q f).burgeeDst = s.burgeeDst := rfl
@[simp] theorem modLaunch_burgeeSeq : (modLaunch s p q f).burgeeSeq = s.burgeeSeq := rfl
@[simp] theorem modLaunch_burgeeDue : (modLaunch s p q f).burgeeDue = s.burgeeDue := rfl
@[simp] theorem modLaunch_rtvec : (modLaunch s p q f).rtvec = s.rtvec := rfl
@[simp] theorem modLaunch_preq : (modLaunch s p q f).preq = s.preq := rfl
@[simp] theorem modLaunch_pstatStatus : (modLaunch s p q f).pstatStatus = s.pstatStatus := rfl
@[simp] theorem modLaunch_pstatSaved : (modLaunch s p q f).pstatSaved = s.pstatSaved := rfl
@[simp] theorem modLaunch_pstatForced : (modLaunch s p q f).pstatForced = s.pstatForced := rfl
@[simp] theorem modLaunch_commons : (modLaunch s p q f).commons = s.commons := rfl
@[simp] theorem modLaunch_audEn : (modLaunch s p q f).audEn = s.audEn := rfl
@[simp] theorem modLaunch_audRate : (modLaunch s p q f).audRate = s.audRate := rfl
@[simp] theorem modLaunch_audThresh : (modLaunch s p q f).audThresh = s.audThresh := rfl
@[simp] theorem modLaunch_audbuf : (modLaunch s p q f).audbuf = s.audbuf := rfl
@[simp] theorem modLaunch_audlog : (modLaunch s p q f).audlog = s.audlog := rfl
@[simp] theorem modLaunch_audits : (modLaunch s p q f).audits = s.audits := rfl
@[simp] theorem modLaunch_nextAudit : (modLaunch s p q f).nextAudit = s.nextAudit := rfl
@[simp] theorem modLaunch_suspectSel : (modLaunch s p q f).suspectSel = s.suspectSel := rfl
@[simp] theorem modLaunch_fabid : (modLaunch s p q f).fabid = s.fabid := rfl
@[simp] theorem modLaunch_froute : (modLaunch s p q f).froute = s.froute := rfl
@[simp] theorem modLaunch_fpmap : (modLaunch s p q f).fpmap = s.fpmap := rfl
@[simp] theorem modLaunch_fablog : (modLaunch s p q f).fablog = s.fablog := rfl
@[simp] theorem modLaunch_fabDown : (modLaunch s p q f).fabDown = s.fabDown := rfl
@[simp] theorem modLaunch_fabReqs : (modLaunch s p q f).fabReqs = s.fabReqs := rfl
@[simp] theorem modLaunch_nextRtag : (modLaunch s p q f).nextRtag = s.nextRtag := rfl
@[simp] theorem modLaunch_linksDown : (modLaunch s p q f).linksDown = s.linksDown := rfl
@[simp] theorem modLaunch_fns : (modLaunch s p q f).fns = s.fns := rfl
@[simp] theorem modLaunch_bootstat : (modLaunch s p q f).bootstat = s.bootstat := rfl
@[simp] theorem modLaunch_ide : (modLaunch s p q f).ide = s.ide := rfl
@[simp] theorem modLaunch_spdmReady : (modLaunch s p q f).spdmReady = s.spdmReady := rfl
@[simp] theorem modLaunch_spdm : (modLaunch s p q f).spdm = s.spdm := rfl
@[simp] theorem modLaunch_startup : (modLaunch s p q f).startup = s.startup := rfl
@[simp] theorem modLaunch_powered : (modLaunch s p q f).powered = s.powered := rfl
@[simp] theorem modLaunch_halted : (modLaunch s p q f).halted = s.halted := rfl
@[simp] theorem modLaunch_optis : (modLaunch s p q f).optis = s.optis := rfl
@[simp] theorem modLaunch_corrected : (modLaunch s p q f).corrected = s.corrected := rfl
@[simp] theorem modLaunch_fwVersion : (modLaunch s p q f).fwVersion = s.fwVersion := rfl
@[simp] theorem modLaunch_firmware : (modLaunch s p q f).firmware = s.firmware := rfl
@[simp] theorem modLaunch_fwPending : (modLaunch s p q f).fwPending = s.fwPending := rfl
@[simp] theorem modLaunch_cycle : (modLaunch s p q f).cycle = s.cycle := rfl
@[simp] theorem modLaunch_qosStart : (modLaunch s p q f).qosStart = s.qosStart := rfl
@[simp] theorem modLaunch_cur : (modLaunch s p q f).cur = s.cur := rfl
@[simp] theorem modLaunch_agenda : (modLaunch s p q f).agenda = s.agenda := rfl
@[simp] theorem modLaunch_freeCtr : (modLaunch s p q f).freeCtr = s.freeCtr := rfl
@[simp] theorem modLaunch_outbox : (modLaunch s p q f).outbox = s.outbox := rfl
@[simp] theorem modLaunch_stalled : (modLaunch s p q f).stalled = s.stalled := rfl

end modLaunch

section optisLog

variable (s : State) (n a : Nat)

@[simp] theorem optisLog_ctxs : (optisLog s n a).ctxs = s.ctxs := rfl
@[simp] theorem optisLog_saved : (optisLog s n a).saved = s.saved := rfl
@[simp] theorem optisLog_cores : (optisLog s n a).cores = s.cores := rfl
@[simp] theorem optisLog_dies : (optisLog s n a).dies = s.dies := rfl
@[simp] theorem optisLog_polders : (optisLog s n a).polders = s.polders := rfl
@[simp] theorem optisLog_buntings : (optisLog s n a).buntings = s.buntings := rfl
@[simp] theorem optisLog_nextBunting : (optisLog s n a).nextBunting = s.nextBunting := rfl
@[simp] theorem optisLog_mem : (optisLog s n a).mem = s.mem := rfl
@[simp] theorem optisLog_pool : (optisLog s n a).pool = s.pool := rfl
@[simp] theorem optisLog_marks : (optisLog s n a).marks = s.marks := rfl
@[simp] theorem optisLog_poison : (optisLog s n a).poison = s.poison := rfl
@[simp] theorem optisLog_areas : (optisLog s n a).areas = s.areas := rfl
@[simp] theorem optisLog_keys : (optisLog s n a).keys = s.keys := rfl
@[simp] theorem optisLog_nextGen : (optisLog s n a).nextGen = s.nextGen := rfl
@[simp] theorem optisLog_asids : (optisLog s n a).asids = s.asids := rfl
@[simp] theorem optisLog_regions : (optisLog s n a).regions = s.regions := rfl
@[simp] theorem optisLog_breaches : (optisLog s n a).breaches = s.breaches := rfl
@[simp] theorem optisLog_ports : (optisLog s n a).ports = s.ports := rfl
@[simp] theorem optisLog_faults : (optisLog s n a).faults = s.faults := rfl
@[simp] theorem optisLog_nextFault : (optisLog s n a).nextFault = s.nextFault := rfl
@[simp] theorem optisLog_roomWait : (optisLog s n a).roomWait = s.roomWait := rfl
@[simp] theorem optisLog_lateTokens : (optisLog s n a).lateTokens = s.lateTokens := rfl
@[simp] theorem optisLog_heldSubs : (optisLog s n a).heldSubs = s.heldSubs := rfl
@[simp] theorem optisLog_heldFires : (optisLog s n a).heldFires = s.heldFires := rfl
@[simp] theorem optisLog_fires : (optisLog s n a).fires = s.fires := rfl
@[simp] theorem optisLog_watches : (optisLog s n a).watches = s.watches := rfl
@[simp] theorem optisLog_nextWatch : (optisLog s n a).nextWatch = s.nextWatch := rfl
@[simp] theorem optisLog_lastServed : (optisLog s n a).lastServed = s.lastServed := rfl
@[simp] theorem optisLog_images : (optisLog s n a).images = s.images := rfl
@[simp] theorem optisLog_nextImage : (optisLog s n a).nextImage = s.nextImage := rfl
@[simp] theorem optisLog_cvBusy : (optisLog s n a).cvBusy = s.cvBusy := rfl
@[simp] theorem optisLog_cvStatus : (optisLog s n a).cvStatus = s.cvStatus := rfl
@[simp] theorem optisLog_cvwd0 : (optisLog s n a).cvwd0 = s.cvwd0 := rfl
@[simp] theorem optisLog_versions : (optisLog s n a).versions = s.versions := rfl
@[simp] theorem optisLog_load : (optisLog s n a).load = s.load := rfl
@[simp] theorem optisLog_vlStatus : (optisLog s n a).vlStatus = s.vlStatus := rfl
@[simp] theorem optisLog_vlFailed : (optisLog s n a).vlFailed = s.vlFailed := rfl
@[simp] theorem optisLog_mkeys : (optisLog s n a).mkeys = s.mkeys := rfl
@[simp] theorem optisLog_mkeyStatus : (optisLog s n a).mkeyStatus = s.mkeyStatus := rfl
@[simp] theorem optisLog_burgeeDst : (optisLog s n a).burgeeDst = s.burgeeDst := rfl
@[simp] theorem optisLog_burgeeSeq : (optisLog s n a).burgeeSeq = s.burgeeSeq := rfl
@[simp] theorem optisLog_burgeeDue : (optisLog s n a).burgeeDue = s.burgeeDue := rfl
@[simp] theorem optisLog_rtvec : (optisLog s n a).rtvec = s.rtvec := rfl
@[simp] theorem optisLog_preq : (optisLog s n a).preq = s.preq := rfl
@[simp] theorem optisLog_pstatStatus : (optisLog s n a).pstatStatus = s.pstatStatus := rfl
@[simp] theorem optisLog_pstatSaved : (optisLog s n a).pstatSaved = s.pstatSaved := rfl
@[simp] theorem optisLog_pstatForced : (optisLog s n a).pstatForced = s.pstatForced := rfl
@[simp] theorem optisLog_commons : (optisLog s n a).commons = s.commons := rfl
@[simp] theorem optisLog_audEn : (optisLog s n a).audEn = s.audEn := rfl
@[simp] theorem optisLog_audRate : (optisLog s n a).audRate = s.audRate := rfl
@[simp] theorem optisLog_audThresh : (optisLog s n a).audThresh = s.audThresh := rfl
@[simp] theorem optisLog_audbuf : (optisLog s n a).audbuf = s.audbuf := rfl
@[simp] theorem optisLog_audlog : (optisLog s n a).audlog = s.audlog := rfl
@[simp] theorem optisLog_audits : (optisLog s n a).audits = s.audits := rfl
@[simp] theorem optisLog_nextAudit : (optisLog s n a).nextAudit = s.nextAudit := rfl
@[simp] theorem optisLog_suspectSel : (optisLog s n a).suspectSel = s.suspectSel := rfl
@[simp] theorem optisLog_fabid : (optisLog s n a).fabid = s.fabid := rfl
@[simp] theorem optisLog_froute : (optisLog s n a).froute = s.froute := rfl
@[simp] theorem optisLog_fpmap : (optisLog s n a).fpmap = s.fpmap := rfl
@[simp] theorem optisLog_fablog : (optisLog s n a).fablog = s.fablog := rfl
@[simp] theorem optisLog_fabDown : (optisLog s n a).fabDown = s.fabDown := rfl
@[simp] theorem optisLog_fabReqs : (optisLog s n a).fabReqs = s.fabReqs := rfl
@[simp] theorem optisLog_nextRtag : (optisLog s n a).nextRtag = s.nextRtag := rfl
@[simp] theorem optisLog_linksDown : (optisLog s n a).linksDown = s.linksDown := rfl
@[simp] theorem optisLog_fns : (optisLog s n a).fns = s.fns := rfl
@[simp] theorem optisLog_bootstat : (optisLog s n a).bootstat = s.bootstat := rfl
@[simp] theorem optisLog_ide : (optisLog s n a).ide = s.ide := rfl
@[simp] theorem optisLog_spdmReady : (optisLog s n a).spdmReady = s.spdmReady := rfl
@[simp] theorem optisLog_spdm : (optisLog s n a).spdm = s.spdm := rfl
@[simp] theorem optisLog_startup : (optisLog s n a).startup = s.startup := rfl
@[simp] theorem optisLog_powered : (optisLog s n a).powered = s.powered := rfl
@[simp] theorem optisLog_halted : (optisLog s n a).halted = s.halted := rfl
@[simp] theorem optisLog_corrected : (optisLog s n a).corrected = s.corrected := rfl
@[simp] theorem optisLog_fwVersion : (optisLog s n a).fwVersion = s.fwVersion := rfl
@[simp] theorem optisLog_firmware : (optisLog s n a).firmware = s.firmware := rfl
@[simp] theorem optisLog_fwPending : (optisLog s n a).fwPending = s.fwPending := rfl
@[simp] theorem optisLog_cycle : (optisLog s n a).cycle = s.cycle := rfl
@[simp] theorem optisLog_qosStart : (optisLog s n a).qosStart = s.qosStart := rfl
@[simp] theorem optisLog_cur : (optisLog s n a).cur = s.cur := rfl
@[simp] theorem optisLog_agenda : (optisLog s n a).agenda = s.agenda := rfl
@[simp] theorem optisLog_freeCtr : (optisLog s n a).freeCtr = s.freeCtr := rfl
@[simp] theorem optisLog_outbox : (optisLog s n a).outbox = s.outbox := rfl
@[simp] theorem optisLog_stalled : (optisLog s n a).stalled = s.stalled := rfl

end optisLog

section setSeq

variable (c : Ctx) (q : Seqr) (v : Seq)

@[simp] theorem ctx_setSeq_id : (c.setSeq q v).id = c.id := by cases q <;> rfl
@[simp] theorem ctx_setSeq_polder : (c.setSeq q v).polder = c.polder := by cases q <;> rfl
@[simp] theorem ctx_setSeq_asid : (c.setSeq q v).asid = c.asid := by cases q <;> rfl
@[simp] theorem ctx_setSeq_priv : (c.setSeq q v).priv = c.priv := by cases q <;> rfl
@[simp] theorem ctx_setSeq_neutral : (c.setSeq q v).neutral = c.neutral := by cases q <;> rfl
@[simp] theorem ctx_setSeq_gang : (c.setSeq q v).gang = c.gang := by cases q <;> rfl
@[simp] theorem ctx_setSeq_task : (c.setSeq q v).task = c.task := by cases q <;> rfl
@[simp] theorem ctx_setSeq_life : (c.setSeq q v).life = c.life := by cases q <;> rfl
@[simp] theorem ctx_setSeq_cut : (c.setSeq q v).cut = c.cut := by cases q <;> rfl
@[simp] theorem ctx_setSeq_shared : (c.setSeq q v).shared = c.shared := by cases q <;> rfl
@[simp] theorem ctx_setSeq_vreg : (c.setSeq q v).vreg = c.vreg := by cases q <;> rfl
@[simp] theorem ctx_setSeq_preg : (c.setSeq q v).preg = c.preg := by cases q <;> rfl
@[simp] theorem ctx_setSeq_tokens : (c.setSeq q v).tokens = c.tokens := by cases q <;> rfl
@[simp] theorem ctx_setSeq_image : (c.setSeq q v).image = c.image := by cases q <;> rfl
@[simp] theorem ctx_setSeq_lines : (c.setSeq q v).lines = c.lines := by cases q <;> rfl
@[simp] theorem ctx_setSeq_entries : (c.setSeq q v).entries = c.entries := by cases q <;> rfl
@[simp] theorem ctx_setSeq_vault : (c.setSeq q v).vault = c.vault := by cases q <;> rfl
@[simp] theorem ctx_setSeq_headerBad : (c.setSeq q v).headerBad = c.headerBad := by cases q <;> rfl
@[simp] theorem ctx_setSeq_windows : (c.setSeq q v).windows = c.windows := by cases q <;> rfl
@[simp] theorem ctx_setSeq_units : (c.setSeq q v).units = c.units := by cases q <;> rfl
@[simp] theorem ctx_setSeq_scratch : (c.setSeq q v).scratch = c.scratch := by cases q <;> rfl
@[simp] theorem ctx_setSeq_origin : (c.setSeq q v).origin = c.origin := by cases q <;> rfl
@[simp] theorem ctx_setSeq_spoison : (c.setSeq q v).spoison = c.spoison := by cases q <;> rfl
@[simp] theorem ctx_setSeq_fpcr : (c.setSeq q v).fpcr = c.fpcr := by cases q <;> rfl
@[simp] theorem ctx_setSeq_workid : (c.setSeq q v).workid = c.workid := by cases q <;> rfl
@[simp] theorem ctx_setSeq_wfields : (c.setSeq q v).wfields = c.wfields := by cases q <;> rfl
@[simp] theorem ctx_setSeq_handle : (c.setSeq q v).handle = c.handle := by cases q <;> rfl
@[simp] theorem ctx_setSeq_cancel : (c.setSeq q v).cancel = c.cancel := by cases q <;> rfl
@[simp] theorem ctx_setSeq_padrows : (c.setSeq q v).padrows = c.padrows := by cases q <;> rfl
@[simp] theorem ctx_setSeq_padcols : (c.setSeq q v).padcols = c.padcols := by cases q <;> rfl
@[simp] theorem ctx_setSeq_trec : (c.setSeq q v).trec = c.trec := by cases q <;> rfl
@[simp] theorem ctx_setSeq_taddr : (c.setSeq q v).taddr = c.taddr := by cases q <;> rfl
@[simp] theorem ctx_setSeq_fltaddr : (c.setSeq q v).fltaddr = c.fltaddr := by cases q <;> rfl
@[simp] theorem ctx_setSeq_asselP : (c.setSeq q v).asselP = c.asselP := by cases q <;> rfl
@[simp] theorem ctx_setSeq_asselA : (c.setSeq q v).asselA = c.asselA := by cases q <;> rfl
@[simp] theorem ctx_setSeq_prsel : (c.setSeq q v).prsel = c.prsel := by cases q <;> rfl
@[simp] theorem ctx_setSeq_pdsel : (c.setSeq q v).pdsel = c.pdsel := by cases q <;> rfl
@[simp] theorem ctx_setSeq_fpsel : (c.setSeq q v).fpsel = c.fpsel := by cases q <;> rfl
@[simp] theorem ctx_setSeq_frames : (c.setSeq q v).frames = c.frames := by cases q <;> rfl
@[simp] theorem ctx_setSeq_pending : (c.setSeq q v).pending = c.pending := by cases q <;> rfl
@[simp] theorem ctx_setSeq_preempt : (c.setSeq q v).preempt = c.preempt := by cases q <;> rfl
@[simp] theorem ctx_setSeq_slots : (c.setSeq q v).slots = c.slots := by cases q <;> rfl
@[simp] theorem ctx_setSeq_tiles : (c.setSeq q v).tiles = c.tiles := by cases q <;> rfl
@[simp] theorem ctx_setSeq_matrix : (c.setSeq q v).matrix = c.matrix := by cases q <;> rfl
@[simp] theorem ctx_setSeq_xfers : (c.setSeq q v).xfers = c.xfers := by cases q <;> rfl
@[simp] theorem ctx_setSeq_nextXfer : (c.setSeq q v).nextXfer = c.nextXfer := by cases q <;> rfl
@[simp] theorem ctx_setSeq_replay : (c.setSeq q v).replay = c.replay := by cases q <;> rfl
@[simp] theorem ctx_setSeq_refab : (c.setSeq q v).refab = c.refab := by cases q <;> rfl
@[simp] theorem ctx_setSeq_retags : (c.setSeq q v).retags = c.retags := by cases q <;> rfl
@[simp] theorem ctx_setSeq_rrot : (c.setSeq q v).rrot = c.rrot := by cases q <;> rfl
@[simp] theorem ctx_setSeq_rrotWait : (c.setSeq q v).rrotWait = c.rrotWait := by cases q <;> rfl
@[simp] theorem ctx_setSeq_cbars : (c.setSeq q v).cbars = c.cbars := by cases q <;> rfl
@[simp] theorem ctx_setSeq_watchdog : (c.setSeq q v).watchdog = c.watchdog := by cases q <;> rfl
@[simp] theorem ctx_setSeq_stalls : (c.setSeq q v).stalls = c.stalls := by cases q <;> rfl
@[simp] theorem ctx_setSeq_resident : (c.setSeq q v).resident = c.resident := by cases q <;> rfl
@[simp] theorem ctx_setSeq_issued : (c.setSeq q v).issued = c.issued := by cases q <;> rfl
@[simp] theorem ctx_setSeq_matDone : (c.setSeq q v).matDone = c.matDone := by cases q <;> rfl
@[simp] theorem ctx_setSeq_moved : (c.setSeq q v).moved = c.moved := by cases q <;> rfl
@[simp] theorem ctx_setSeq_dqLost : (c.setSeq q v).dqLost = c.dqLost := by cases q <;> rfl

end setSeq

section wV

variable (c : Ctx) (v : VReg) (x : VecReg)

@[simp] theorem ctx_wV_id : (c.wV v x).id = c.id := rfl
@[simp] theorem ctx_wV_polder : (c.wV v x).polder = c.polder := rfl
@[simp] theorem ctx_wV_asid : (c.wV v x).asid = c.asid := rfl
@[simp] theorem ctx_wV_priv : (c.wV v x).priv = c.priv := rfl
@[simp] theorem ctx_wV_neutral : (c.wV v x).neutral = c.neutral := rfl
@[simp] theorem ctx_wV_gang : (c.wV v x).gang = c.gang := rfl
@[simp] theorem ctx_wV_task : (c.wV v x).task = c.task := rfl
@[simp] theorem ctx_wV_life : (c.wV v x).life = c.life := rfl
@[simp] theorem ctx_wV_cut : (c.wV v x).cut = c.cut := rfl
@[simp] theorem ctx_wV_x : (c.wV v x).x = c.x := rfl
@[simp] theorem ctx_wV_l : (c.wV v x).l = c.l := rfl
@[simp] theorem ctx_wV_c : (c.wV v x).c = c.c := rfl
@[simp] theorem ctx_wV_s : (c.wV v x).s = c.s := rfl
@[simp] theorem ctx_wV_shared : (c.wV v x).shared = c.shared := rfl
@[simp] theorem ctx_wV_preg : (c.wV v x).preg = c.preg := rfl
@[simp] theorem ctx_wV_tokens : (c.wV v x).tokens = c.tokens := rfl
@[simp] theorem ctx_wV_image : (c.wV v x).image = c.image := rfl
@[simp] theorem ctx_wV_lines : (c.wV v x).lines = c.lines := rfl
@[simp] theorem ctx_wV_entries : (c.wV v x).entries = c.entries := rfl
@[simp] theorem ctx_wV_vault : (c.wV v x).vault = c.vault := rfl
@[simp] theorem ctx_wV_headerBad : (c.wV v x).headerBad = c.headerBad := rfl
@[simp] theorem ctx_wV_windows : (c.wV v x).windows = c.windows := rfl
@[simp] theorem ctx_wV_units : (c.wV v x).units = c.units := rfl
@[simp] theorem ctx_wV_scratch : (c.wV v x).scratch = c.scratch := rfl
@[simp] theorem ctx_wV_origin : (c.wV v x).origin = c.origin := rfl
@[simp] theorem ctx_wV_spoison : (c.wV v x).spoison = c.spoison := rfl
@[simp] theorem ctx_wV_fpcr : (c.wV v x).fpcr = c.fpcr := rfl
@[simp] theorem ctx_wV_workid : (c.wV v x).workid = c.workid := rfl
@[simp] theorem ctx_wV_wfields : (c.wV v x).wfields = c.wfields := rfl
@[simp] theorem ctx_wV_handle : (c.wV v x).handle = c.handle := rfl
@[simp] theorem ctx_wV_cancel : (c.wV v x).cancel = c.cancel := rfl
@[simp] theorem ctx_wV_padrows : (c.wV v x).padrows = c.padrows := rfl
@[simp] theorem ctx_wV_padcols : (c.wV v x).padcols = c.padcols := rfl
@[simp] theorem ctx_wV_trec : (c.wV v x).trec = c.trec := rfl
@[simp] theorem ctx_wV_taddr : (c.wV v x).taddr = c.taddr := rfl
@[simp] theorem ctx_wV_fltaddr : (c.wV v x).fltaddr = c.fltaddr := rfl
@[simp] theorem ctx_wV_asselP : (c.wV v x).asselP = c.asselP := rfl
@[simp] theorem ctx_wV_asselA : (c.wV v x).asselA = c.asselA := rfl
@[simp] theorem ctx_wV_prsel : (c.wV v x).prsel = c.prsel := rfl
@[simp] theorem ctx_wV_pdsel : (c.wV v x).pdsel = c.pdsel := rfl
@[simp] theorem ctx_wV_fpsel : (c.wV v x).fpsel = c.fpsel := rfl
@[simp] theorem ctx_wV_frames : (c.wV v x).frames = c.frames := rfl
@[simp] theorem ctx_wV_pending : (c.wV v x).pending = c.pending := rfl
@[simp] theorem ctx_wV_preempt : (c.wV v x).preempt = c.preempt := rfl
@[simp] theorem ctx_wV_slots : (c.wV v x).slots = c.slots := rfl
@[simp] theorem ctx_wV_tiles : (c.wV v x).tiles = c.tiles := rfl
@[simp] theorem ctx_wV_matrix : (c.wV v x).matrix = c.matrix := rfl
@[simp] theorem ctx_wV_xfers : (c.wV v x).xfers = c.xfers := rfl
@[simp] theorem ctx_wV_nextXfer : (c.wV v x).nextXfer = c.nextXfer := rfl
@[simp] theorem ctx_wV_replay : (c.wV v x).replay = c.replay := rfl
@[simp] theorem ctx_wV_refab : (c.wV v x).refab = c.refab := rfl
@[simp] theorem ctx_wV_retags : (c.wV v x).retags = c.retags := rfl
@[simp] theorem ctx_wV_rrot : (c.wV v x).rrot = c.rrot := rfl
@[simp] theorem ctx_wV_rrotWait : (c.wV v x).rrotWait = c.rrotWait := rfl
@[simp] theorem ctx_wV_cbars : (c.wV v x).cbars = c.cbars := rfl
@[simp] theorem ctx_wV_watchdog : (c.wV v x).watchdog = c.watchdog := rfl
@[simp] theorem ctx_wV_stalls : (c.wV v x).stalls = c.stalls := rfl
@[simp] theorem ctx_wV_resident : (c.wV v x).resident = c.resident := rfl
@[simp] theorem ctx_wV_issued : (c.wV v x).issued = c.issued := rfl
@[simp] theorem ctx_wV_matDone : (c.wV v x).matDone = c.matDone := rfl
@[simp] theorem ctx_wV_moved : (c.wV v x).moved = c.moved := rfl
@[simp] theorem ctx_wV_dqLost : (c.wV v x).dqLost = c.dqLost := rfl

end wV

section wQ

variable (c : Ctx) (q : QReg) (x : PData)

@[simp] theorem ctx_wQ_id : (c.wQ q x).id = c.id := rfl
@[simp] theorem ctx_wQ_polder : (c.wQ q x).polder = c.polder := rfl
@[simp] theorem ctx_wQ_asid : (c.wQ q x).asid = c.asid := rfl
@[simp] theorem ctx_wQ_priv : (c.wQ q x).priv = c.priv := rfl
@[simp] theorem ctx_wQ_neutral : (c.wQ q x).neutral = c.neutral := rfl
@[simp] theorem ctx_wQ_gang : (c.wQ q x).gang = c.gang := rfl
@[simp] theorem ctx_wQ_task : (c.wQ q x).task = c.task := rfl
@[simp] theorem ctx_wQ_life : (c.wQ q x).life = c.life := rfl
@[simp] theorem ctx_wQ_cut : (c.wQ q x).cut = c.cut := rfl
@[simp] theorem ctx_wQ_x : (c.wQ q x).x = c.x := rfl
@[simp] theorem ctx_wQ_l : (c.wQ q x).l = c.l := rfl
@[simp] theorem ctx_wQ_c : (c.wQ q x).c = c.c := rfl
@[simp] theorem ctx_wQ_s : (c.wQ q x).s = c.s := rfl
@[simp] theorem ctx_wQ_shared : (c.wQ q x).shared = c.shared := rfl
@[simp] theorem ctx_wQ_vreg : (c.wQ q x).vreg = c.vreg := rfl
@[simp] theorem ctx_wQ_tokens : (c.wQ q x).tokens = c.tokens := rfl
@[simp] theorem ctx_wQ_image : (c.wQ q x).image = c.image := rfl
@[simp] theorem ctx_wQ_lines : (c.wQ q x).lines = c.lines := rfl
@[simp] theorem ctx_wQ_entries : (c.wQ q x).entries = c.entries := rfl
@[simp] theorem ctx_wQ_vault : (c.wQ q x).vault = c.vault := rfl
@[simp] theorem ctx_wQ_headerBad : (c.wQ q x).headerBad = c.headerBad := rfl
@[simp] theorem ctx_wQ_windows : (c.wQ q x).windows = c.windows := rfl
@[simp] theorem ctx_wQ_units : (c.wQ q x).units = c.units := rfl
@[simp] theorem ctx_wQ_scratch : (c.wQ q x).scratch = c.scratch := rfl
@[simp] theorem ctx_wQ_origin : (c.wQ q x).origin = c.origin := rfl
@[simp] theorem ctx_wQ_spoison : (c.wQ q x).spoison = c.spoison := rfl
@[simp] theorem ctx_wQ_fpcr : (c.wQ q x).fpcr = c.fpcr := rfl
@[simp] theorem ctx_wQ_workid : (c.wQ q x).workid = c.workid := rfl
@[simp] theorem ctx_wQ_wfields : (c.wQ q x).wfields = c.wfields := rfl
@[simp] theorem ctx_wQ_handle : (c.wQ q x).handle = c.handle := rfl
@[simp] theorem ctx_wQ_cancel : (c.wQ q x).cancel = c.cancel := rfl
@[simp] theorem ctx_wQ_padrows : (c.wQ q x).padrows = c.padrows := rfl
@[simp] theorem ctx_wQ_padcols : (c.wQ q x).padcols = c.padcols := rfl
@[simp] theorem ctx_wQ_trec : (c.wQ q x).trec = c.trec := rfl
@[simp] theorem ctx_wQ_taddr : (c.wQ q x).taddr = c.taddr := rfl
@[simp] theorem ctx_wQ_fltaddr : (c.wQ q x).fltaddr = c.fltaddr := rfl
@[simp] theorem ctx_wQ_asselP : (c.wQ q x).asselP = c.asselP := rfl
@[simp] theorem ctx_wQ_asselA : (c.wQ q x).asselA = c.asselA := rfl
@[simp] theorem ctx_wQ_prsel : (c.wQ q x).prsel = c.prsel := rfl
@[simp] theorem ctx_wQ_pdsel : (c.wQ q x).pdsel = c.pdsel := rfl
@[simp] theorem ctx_wQ_fpsel : (c.wQ q x).fpsel = c.fpsel := rfl
@[simp] theorem ctx_wQ_frames : (c.wQ q x).frames = c.frames := rfl
@[simp] theorem ctx_wQ_pending : (c.wQ q x).pending = c.pending := rfl
@[simp] theorem ctx_wQ_preempt : (c.wQ q x).preempt = c.preempt := rfl
@[simp] theorem ctx_wQ_slots : (c.wQ q x).slots = c.slots := rfl
@[simp] theorem ctx_wQ_tiles : (c.wQ q x).tiles = c.tiles := rfl
@[simp] theorem ctx_wQ_matrix : (c.wQ q x).matrix = c.matrix := rfl
@[simp] theorem ctx_wQ_xfers : (c.wQ q x).xfers = c.xfers := rfl
@[simp] theorem ctx_wQ_nextXfer : (c.wQ q x).nextXfer = c.nextXfer := rfl
@[simp] theorem ctx_wQ_replay : (c.wQ q x).replay = c.replay := rfl
@[simp] theorem ctx_wQ_refab : (c.wQ q x).refab = c.refab := rfl
@[simp] theorem ctx_wQ_retags : (c.wQ q x).retags = c.retags := rfl
@[simp] theorem ctx_wQ_rrot : (c.wQ q x).rrot = c.rrot := rfl
@[simp] theorem ctx_wQ_rrotWait : (c.wQ q x).rrotWait = c.rrotWait := rfl
@[simp] theorem ctx_wQ_cbars : (c.wQ q x).cbars = c.cbars := rfl
@[simp] theorem ctx_wQ_watchdog : (c.wQ q x).watchdog = c.watchdog := rfl
@[simp] theorem ctx_wQ_stalls : (c.wQ q x).stalls = c.stalls := rfl
@[simp] theorem ctx_wQ_resident : (c.wQ q x).resident = c.resident := rfl
@[simp] theorem ctx_wQ_issued : (c.wQ q x).issued = c.issued := rfl
@[simp] theorem ctx_wQ_matDone : (c.wQ q x).matDone = c.matDone := rfl
@[simp] theorem ctx_wQ_moved : (c.wQ q x).moved = c.moved := rfl
@[simp] theorem ctx_wQ_dqLost : (c.wQ q x).dqLost = c.dqLost := rfl

end wQ

section setTok

variable (c : Ctx) (n : Nat) (v : BitVec 6)

@[simp] theorem ctx_setTok_id : (c.setTok n v).id = c.id := rfl
@[simp] theorem ctx_setTok_polder : (c.setTok n v).polder = c.polder := rfl
@[simp] theorem ctx_setTok_asid : (c.setTok n v).asid = c.asid := rfl
@[simp] theorem ctx_setTok_priv : (c.setTok n v).priv = c.priv := rfl
@[simp] theorem ctx_setTok_neutral : (c.setTok n v).neutral = c.neutral := rfl
@[simp] theorem ctx_setTok_gang : (c.setTok n v).gang = c.gang := rfl
@[simp] theorem ctx_setTok_task : (c.setTok n v).task = c.task := rfl
@[simp] theorem ctx_setTok_life : (c.setTok n v).life = c.life := rfl
@[simp] theorem ctx_setTok_cut : (c.setTok n v).cut = c.cut := rfl
@[simp] theorem ctx_setTok_x : (c.setTok n v).x = c.x := rfl
@[simp] theorem ctx_setTok_l : (c.setTok n v).l = c.l := rfl
@[simp] theorem ctx_setTok_c : (c.setTok n v).c = c.c := rfl
@[simp] theorem ctx_setTok_s : (c.setTok n v).s = c.s := rfl
@[simp] theorem ctx_setTok_shared : (c.setTok n v).shared = c.shared := rfl
@[simp] theorem ctx_setTok_vreg : (c.setTok n v).vreg = c.vreg := rfl
@[simp] theorem ctx_setTok_preg : (c.setTok n v).preg = c.preg := rfl
@[simp] theorem ctx_setTok_image : (c.setTok n v).image = c.image := rfl
@[simp] theorem ctx_setTok_lines : (c.setTok n v).lines = c.lines := rfl
@[simp] theorem ctx_setTok_entries : (c.setTok n v).entries = c.entries := rfl
@[simp] theorem ctx_setTok_vault : (c.setTok n v).vault = c.vault := rfl
@[simp] theorem ctx_setTok_headerBad : (c.setTok n v).headerBad = c.headerBad := rfl
@[simp] theorem ctx_setTok_windows : (c.setTok n v).windows = c.windows := rfl
@[simp] theorem ctx_setTok_units : (c.setTok n v).units = c.units := rfl
@[simp] theorem ctx_setTok_scratch : (c.setTok n v).scratch = c.scratch := rfl
@[simp] theorem ctx_setTok_origin : (c.setTok n v).origin = c.origin := rfl
@[simp] theorem ctx_setTok_spoison : (c.setTok n v).spoison = c.spoison := rfl
@[simp] theorem ctx_setTok_fpcr : (c.setTok n v).fpcr = c.fpcr := rfl
@[simp] theorem ctx_setTok_workid : (c.setTok n v).workid = c.workid := rfl
@[simp] theorem ctx_setTok_wfields : (c.setTok n v).wfields = c.wfields := rfl
@[simp] theorem ctx_setTok_handle : (c.setTok n v).handle = c.handle := rfl
@[simp] theorem ctx_setTok_cancel : (c.setTok n v).cancel = c.cancel := rfl
@[simp] theorem ctx_setTok_padrows : (c.setTok n v).padrows = c.padrows := rfl
@[simp] theorem ctx_setTok_padcols : (c.setTok n v).padcols = c.padcols := rfl
@[simp] theorem ctx_setTok_trec : (c.setTok n v).trec = c.trec := rfl
@[simp] theorem ctx_setTok_taddr : (c.setTok n v).taddr = c.taddr := rfl
@[simp] theorem ctx_setTok_fltaddr : (c.setTok n v).fltaddr = c.fltaddr := rfl
@[simp] theorem ctx_setTok_asselP : (c.setTok n v).asselP = c.asselP := rfl
@[simp] theorem ctx_setTok_asselA : (c.setTok n v).asselA = c.asselA := rfl
@[simp] theorem ctx_setTok_prsel : (c.setTok n v).prsel = c.prsel := rfl
@[simp] theorem ctx_setTok_pdsel : (c.setTok n v).pdsel = c.pdsel := rfl
@[simp] theorem ctx_setTok_fpsel : (c.setTok n v).fpsel = c.fpsel := rfl
@[simp] theorem ctx_setTok_frames : (c.setTok n v).frames = c.frames := rfl
@[simp] theorem ctx_setTok_pending : (c.setTok n v).pending = c.pending := rfl
@[simp] theorem ctx_setTok_preempt : (c.setTok n v).preempt = c.preempt := rfl
@[simp] theorem ctx_setTok_slots : (c.setTok n v).slots = c.slots := rfl
@[simp] theorem ctx_setTok_tiles : (c.setTok n v).tiles = c.tiles := rfl
@[simp] theorem ctx_setTok_matrix : (c.setTok n v).matrix = c.matrix := rfl
@[simp] theorem ctx_setTok_xfers : (c.setTok n v).xfers = c.xfers := rfl
@[simp] theorem ctx_setTok_nextXfer : (c.setTok n v).nextXfer = c.nextXfer := rfl
@[simp] theorem ctx_setTok_replay : (c.setTok n v).replay = c.replay := rfl
@[simp] theorem ctx_setTok_refab : (c.setTok n v).refab = c.refab := rfl
@[simp] theorem ctx_setTok_retags : (c.setTok n v).retags = c.retags := rfl
@[simp] theorem ctx_setTok_rrot : (c.setTok n v).rrot = c.rrot := rfl
@[simp] theorem ctx_setTok_rrotWait : (c.setTok n v).rrotWait = c.rrotWait := rfl
@[simp] theorem ctx_setTok_cbars : (c.setTok n v).cbars = c.cbars := rfl
@[simp] theorem ctx_setTok_watchdog : (c.setTok n v).watchdog = c.watchdog := rfl
@[simp] theorem ctx_setTok_stalls : (c.setTok n v).stalls = c.stalls := rfl
@[simp] theorem ctx_setTok_resident : (c.setTok n v).resident = c.resident := rfl
@[simp] theorem ctx_setTok_issued : (c.setTok n v).issued = c.issued := rfl
@[simp] theorem ctx_setTok_matDone : (c.setTok n v).matDone = c.matDone := rfl
@[simp] theorem ctx_setTok_moved : (c.setTok n v).moved = c.moved := rfl
@[simp] theorem ctx_setTok_dqLost : (c.setTok n v).dqLost = c.dqLost := rfl

end setTok

end Sys2Proof.Laws
end

