-- ==== Sys2Proof/Laws/Memory.lean ====
section
/-! SUPPORT. The laws of memory: a byte read after a write, the canonical form, and what every operation on memory keeps of
both (log entry 1). -/

namespace Sys2Proof.Laws

open Machine

/-! ### Cells -/

theorem cellGet_without_same (l : List Host.Cell) (a : Nat) : cellGet (cellsWithout l a) a = 0 := by
  induction l with
  | nil => rfl
  | cons e l ih =>
    obtain ⟨k, c⟩ := e
    by_cases h : k = a
    · subst h; simpa [cellsWithout] using ih
    · have : (k != a) = true := by simpa using h
      simp only [cellsWithout, List.filter_cons, this, if_true, cellGet, h, if_false]
      exact ih

theorem cellGet_without_ne (l : List Host.Cell) (a j : Nat) (h : j ≠ a) : cellGet (cellsWithout l a) j = cellGet l j := by
  induction l with
  | nil => rfl
  | cons e l ih =>
    obtain ⟨k, c⟩ := e
    by_cases hk : k = a
    · subst hk
      have : cellGet ((k, c) :: l) j = cellGet l j := by simp [cellGet, h.symm]
      rw [this, ← ih]
      simp [cellsWithout]
    · have : (k != a) = true := by simpa using hk
      simp only [cellsWithout, List.filter_cons, this, if_true, cellGet]
      split
      · rfl
      · exact ih

/-- A byte read where it was written. -/
@[simp] theorem cellGet_cellSet_same (m : List Host.Cell) (a : Nat) (b : Byte) : cellGet (cellSet m a b) a = b := by
  induction m with
  | nil =>
    by_cases hb : b = 0
    · rw [hb]; rfl
    · simp only [cellSet, if_neg hb, cellGet, if_true]
  | cons e m ih =>
    obtain ⟨k, c⟩ := e
    simp only [cellSet]
    by_cases h1 : a < k
    · have : k ≠ a := by omega
      by_cases hb : b = 0
      · simp [h1, hb, cellGet, this, cellGet_without_same]
      · simp only [h1, if_true, if_neg hb, cellGet]
    · by_cases h2 : a = k
      · subst h2
        by_cases hb : b = 0
        · simp [hb, cellGet_without_same]
        · simp only [Nat.lt_irrefl, if_false, if_true, if_neg hb, cellGet]
      · have h3 : k ≠ a := fun e => h2 e.symm
        simp [h1, h2, cellGet, h3, ih]

/-- A byte read elsewhere. -/
theorem cellGet_cellSet_ne (m : List Host.Cell) (a j : Nat) (b : Byte) (h : j ≠ a) :
    cellGet (cellSet m a b) j = cellGet m j := by
  induction m with
  | nil =>
    by_cases hb : b = 0
    · simp only [cellSet, if_pos hb]
    · simp only [cellSet, if_neg hb, cellGet, if_neg h.symm]
  | cons e m ih =>
    obtain ⟨k, c⟩ := e
    simp only [cellSet]
    split
    · split
      · simp [cellGet, cellGet_without_ne _ _ _ h]
      · simp [cellGet, h.symm]
    · split
      · rename_i h2
        subst h2
        split <;> simp [cellGet, h.symm, cellGet_without_ne _ _ _ h]
      · simp [cellGet, ih]

theorem cellsAbove_weaken {l : List Host.Cell} {lo lo' : Option Nat} (h : cellsAbove lo l = true)
    (hl : ∀ x, lo' = some x → ∃ y, lo = some y ∧ x ≤ y) : cellsAbove lo' l = true := by
  cases l with
  | nil => rfl
  | cons e l =>
    obtain ⟨k, c⟩ := e
    simp only [cellsAbove, Bool.and_eq_true] at h ⊢
    refine ⟨⟨?_, h.1.2⟩, h.2⟩
    cases lo' with
    | none => rfl
    | some x =>
      obtain ⟨y, rfl, hxy⟩ := hl x rfl
      have := h.1.1
      simp only [decide_eq_true_eq] at this ⊢
      omega

/-- Entries left out keep the canonical form. -/
theorem cellsAbove_filter {m : List Host.Cell} (p : Host.Cell → Bool) {lo : Option Nat} (h : cellsAbove lo m = true) :
    cellsAbove lo (m.filter p) = true := by
  induction m generalizing lo with
  | nil => rfl
  | cons e m ih =>
    obtain ⟨k, c⟩ := e
    simp only [cellsAbove, Bool.and_eq_true] at h
    simp only [List.filter_cons]
    split
    · simp only [cellsAbove, Bool.and_eq_true]
      exact ⟨h.1, ih h.2⟩
    · refine ih (cellsAbove_weaken h.2 ?_)
      intro x hx
      subst hx
      refine ⟨k, rfl, Nat.le_of_lt ?_⟩
      simpa using h.1.1

theorem wf_filter {m : List Host.Cell} (p : Host.Cell → Bool) (h : Memory.wf m = true) :
    Memory.wf (m.filter p) = true := cellsAbove_filter p h

theorem cellsAbove_cellSet {m : List Host.Cell} {lo : Option Nat} {a : Nat} (b : Byte) (h : cellsAbove lo m = true)
    (ha : ∀ x, lo = some x → x < a) : cellsAbove lo (cellSet m a b) = true := by
  induction m generalizing lo with
  | nil =>
    by_cases hb : b = 0
    · simp only [cellSet, if_pos hb, cellsAbove]
    · have hb' : (b != 0) = true := by simpa using hb
      cases lo with
      | none => simp only [cellSet, if_neg hb, cellsAbove, hb', Bool.and_true]
      | some x => simp only [cellSet, if_neg hb, cellsAbove, hb', Bool.and_true, ha x rfl, decide_true]
  | cons e m ih =>
    obtain ⟨k, c⟩ := e
    simp only [cellsAbove, Bool.and_eq_true] at h
    have h0 := h
    simp only [cellSet]
    split
    · rename_i h1
      split
      · simp only [cellsAbove, Bool.and_eq_true]
        exact ⟨h0.1, cellsAbove_filter _ h.2⟩
      · rename_i hb
        have hb' : (b != 0) = true := by simpa using hb
        simp only [cellsAbove, hb', Bool.and_true, Bool.and_eq_true, decide_eq_true_eq]
        refine ⟨?_, ⟨h1, h.1.2⟩, h.2⟩
        cases lo with
        | none => rfl
        | some x => simpa using ha x rfl
    · rename_i h1
      split
      · rename_i h2
        subst h2
        split
        · exact cellsAbove_filter _ (cellsAbove_weaken h.2 fun x hx => ⟨a, rfl, Nat.le_of_lt (ha x hx)⟩)
        · rename_i hb
          have hb' : (b != 0) = true := by simpa using hb
          simp only [cellsAbove, hb', Bool.and_true, Bool.and_eq_true]
          refine ⟨?_, h.2⟩
          cases lo with
          | none => rfl
          | some x => simpa using ha x rfl
      · rename_i h2
        simp only [cellsAbove, Bool.and_eq_true]
        exact ⟨h.1, ih h.2 (by intro x hx; cases hx; omega)⟩

/-- A write keeps the canonical form. -/
theorem wf_cellSet {m : List Host.Cell} (a : Nat) (b : Byte) (h : Memory.wf m = true) :
    Memory.wf (cellSet m a b) = true := cellsAbove_cellSet b h (by simp)

theorem wf_cellsWrite {m : List Host.Cell} (a : Nat) (bs : List Byte) (h : Memory.wf m = true) :
    Memory.wf (cellsWrite m a bs) = true := by
  induction bs generalizing m a with
  | nil => exact h
  | cons b bs ih => exact ih (a + 1) (wf_cellSet a b h)

/-- A byte outside a span written. -/
theorem cellGet_cellsWrite_out (m : List Host.Cell) (a : Nat) (bs : List Byte) (j : Nat)
    (h : j < a ∨ a + bs.length ≤ j) : cellGet (cellsWrite m a bs) j = cellGet m j := by
  induction bs generalizing m a with
  | nil => rfl
  | cons b bs ih =>
    simp only [cellsWrite, List.length_cons] at h ⊢
    rw [ih (cellSet m a b) (a + 1) (by omega), cellGet_cellSet_ne m a j b (by omega)]

/-- A span read where it was written. -/
theorem cellsRead_cellsWrite (m : List Host.Cell) (a : Nat) (bs : List Byte) :
    cellsRead (cellsWrite m a bs) a bs.length = bs := by
  induction bs generalizing m a with
  | nil => rfl
  | cons b bs ih =>
    simp only [cellsWrite, List.length_cons, cellsRead]
    rw [cellGet_cellsWrite_out _ _ _ _ (by omega), cellGet_cellSet_same m a b,
      ih (cellSet m a b) (a + 1)]

/-- Equal memories are equal data: the canonical form has one list for each content. -/
theorem wf_ext {m n : List Host.Cell} (hm : Memory.wf m = true) (hn : Memory.wf n = true)
    (h : ∀ a, cellGet m a = cellGet n a) : m = n := by
  have above : ∀ (l : List Host.Cell) (x a : Nat), a ≤ x → cellsAbove (some x) l = true → cellGet l a = 0 := by
    intro l
    induction l with
    | nil => intro _ _ _ _; rfl
    | cons e l ih =>
      obtain ⟨k, c⟩ := e
      intro x a ha hl
      simp only [cellsAbove, Bool.and_eq_true, decide_eq_true_eq] at hl
      have : k ≠ a := by omega
      simp only [cellGet, this, if_false]
      exact ih k a (by omega) hl.2
  suffices H : ∀ (m n : List Host.Cell) (lo : Option Nat), cellsAbove lo m = true → cellsAbove lo n = true →
      (∀ a, cellGet m a = cellGet n a) → m = n from H m n none hm hn h
  clear hm hn h m n
  intro m
  induction m with
  | nil =>
    intro n lo _ hn h
    cases n with
    | nil => rfl
    | cons e n =>
      obtain ⟨k, c⟩ := e
      simp only [cellsAbove, Bool.and_eq_true] at hn
      have := h k
      simp [cellGet] at this
      simp [← this] at hn
  | cons e m ih =>
    obtain ⟨k, c⟩ := e
    intro n lo hm hn h
    simp only [cellsAbove, Bool.and_eq_true] at hm
    cases n with
    | nil =>
      have := h k
      simp [cellGet] at this
      simp [this] at hm
    | cons e n =>
      obtain ⟨j, d⟩ := e
      simp only [cellsAbove, Bool.and_eq_true] at hn
      have hc : c ≠ 0 := by simpa using hm.1.2
      have hd : d ≠ 0 := by simpa using hn.1.2
      have hkj : k = j := by
        rcases Nat.lt_trichotomy k j with hlt | heq | hgt
        · have := h k
          have hj : j ≠ k := by omega
          simp only [cellGet, if_true, hj, if_false] at this
          rw [above n j k (by omega) hn.2] at this
          exact absurd this hc
        · exact heq
        · have := h j
          have hk : k ≠ j := by omega
          simp only [cellGet, if_true, hk, if_false] at this
          rw [above m k j (by omega) hm.2] at this
          exact absurd this.symm hd
      subst hkj
      have hcd : c = d := by have := h k; simpa [cellGet] using this
      subst hcd
      congr 1
      refine ih n (some k) hm.2 hn.2 fun a => ?_
      by_cases ha : k = a
      · subst ha
        rw [above m k k (Nat.le_refl k) hm.2, above n k k (Nat.le_refl k) hn.2]
      · have := h a
        simpa [cellGet, ha] using this

/-! ### The operations of Machine/Memory.lean -/

theorem memoryOk_of_eq {s t : State} (h : MemoryOk s) (h1 : t.mem = s.mem) (h2 : t.pool = s.pool) : MemoryOk t := by
  unfold MemoryOk; rw [h1, h2]; exact h

theorem ite_ok {p : Prop} [Decidable p] {s t : State} (hs : MemoryOk s) (ht : MemoryOk t) :
    MemoryOk (if p then s else t) := by split <;> assumption

/-- New contents in the canonical form. -/
theorem memoryOk_mem {s t : State} {m : List Host.Cell} (h : MemoryOk s) (hm : Memory.wf m = true) (h1 : t.mem = m)
    (h2 : t.pool = s.pool) : MemoryOk t := by
  unfold MemoryOk; rw [h1, h2]; exact ⟨hm, h.2⟩

theorem memoryOk_pool {s t : State} {m : List Host.Cell} (h : MemoryOk s) (hm : Memory.wf m = true) (h1 : t.mem = s.mem)
    (h2 : t.pool = m) : MemoryOk t := by
  unfold MemoryOk; rw [h1, h2]; exact ⟨h.1, hm⟩

theorem claimLine_ok {s : State} (k ln : Nat) (h : MemoryOk s) : MemoryOk (claimLine s k ln) := by
  unfold claimLine
  generalize hbmRead s k (64 * ln) 64 = bs
  split
  · exact h
  · exact memoryOk_mem h (wf_cellsWrite (64 * ln) bs h.1) rfl rfl

theorem hbmWriteLine_ok {s : State} (k ln off : Nat) (bs : List Byte) (h : MemoryOk s) :
    MemoryOk (hbmWriteLine s k ln off bs) := by
  have h1 := claimLine_ok k ln h
  unfold hbmWriteLine
  generalize claimLine s k ln = u at h1
  exact memoryOk_mem h1 (wf_cellsWrite (64 * ln + off) bs h1.1) rfl rfl

theorem foldl_ok {α : Type} {f : State → α → State} (hf : ∀ s x, MemoryOk s → MemoryOk (f s x)) (l : List α) :
    ∀ {s : State}, MemoryOk s → MemoryOk (l.foldl f s) := by
  induction l with
  | nil => intro s h; exact h
  | cons a l ih => intro s h; exact ih (hf s a h)

theorem hbmWrite_ok {s : State} (k a : Nat) (bs : List Byte) (h : MemoryOk s) : MemoryOk (hbmWrite s k a bs) :=
  foldl_ok (fun _ p hs => hbmWriteLine_ok k p.1 p.2.1 p.2.2 hs) _ h

theorem unmarkLine_ok {s : State} (ln : Nat) (h : MemoryOk s) : MemoryOk (unmarkLine s ln) := by
  unfold unmarkLine
  generalize hbmRead s 0 (64 * ln) 64 = bs
  exact memoryOk_mem h (wf_cellsWrite (64 * ln) bs h.1) rfl rfl

theorem rawWrite_ok {s : State} (a : Nat) (bs : List Byte) (h : MemoryOk s) : MemoryOk (rawWrite s a bs) := by
  unfold rawWrite
  dsimp only
  generalize List.filter _ _ = lines
  have h1 := foldl_ok (fun _ ln hs => unmarkLine_ok ln hs) lines h
  generalize lines.foldl unmarkLine s = u at h1
  exact memoryOk_mem h1 (wf_cellsWrite a bs h1.1) rfl rfl

theorem rdcFlushLine_ok {s : State} (x : RdcLine) (h : MemoryOk s) : MemoryOk (rdcFlushLine s x) := by
  unfold rdcFlushLine
  generalize leBytes x.data.toNat 64 = bs
  refine ⟨h.1, ?_⟩
  show Memory.wf (match physKind (64 * x.addr) with | .pool _ => _ | _ => s.pool) = true
  split
  · exact wf_cellsWrite (poolAddr s (64 * x.addr)) bs h.2
  · exact h.2

/-! The caches hold no bytes of their own -/

theorem l2Drop_ok {s : State} (d ln : Nat) (h : MemoryOk s) : MemoryOk (l2Drop s d ln) := memoryOk_of_eq h rfl rfl

theorem modDie_ok {s : State} (d : Nat) (f : DieState → DieState) (h : MemoryOk s) : MemoryOk (modDie s d f) :=
  memoryOk_of_eq h rfl rfl

theorem modCores_ok {s : State} (c : List CoreState) (h : MemoryOk s) : MemoryOk { s with cores := c } :=
  memoryOk_of_eq h rfl rfl

theorem l2Room_ok {s : State} (d ln : Nat) (h : MemoryOk s) : MemoryOk (l2Room s d ln) := by
  unfold l2Room
  dsimp only
  split
  · exact h
  · generalize replaced _ _ _ = o
    cases o with
    | none => exact h
    | some v => exact l2Drop_ok d v h

theorem l2Fill_ok {s : State} (n : BitVec 2) (p : BitVec 4) (g : Option Nat) (ln : Nat) (h : MemoryOk s) :
    MemoryOk (l2Fill s n p g ln) := by
  unfold l2Fill
  split
  · dsimp only
    split
    · exact modDie_ok _ _ h
    · exact modDie_ok _ _ (l2Room_ok _ ln h)
  · exact h

theorem l2Write_ok {s : State} (die ln : Nat) (h : MemoryOk s) : MemoryOk (l2Write s die ln) := by
  unfold l2Write
  split
  · dsimp only
    split
    · exact memoryOk_of_eq h rfl rfl
    · exact memoryOk_of_eq (l2Fill_ok 0 0 none ln h) rfl rfl
  · exact h

theorem l1Use_ok {s : State} (core : Nat) (n : BitVec 2) (ln : Nat) (h : MemoryOk s) : MemoryOk (l1Use s core n ln) := by
  unfold l1Use
  split
  · exact h
  · exact modCores_ok _ h

theorem l1Fill_ok {s : State} (core m : Nat) (n : BitVec 2) (p : BitVec 4) (g : Option Nat) (ln : Nat) (h : MemoryOk s) :
    MemoryOk (l1Fill s core m n p g ln) := by
  unfold l1Fill
  dsimp only
  exact ite_ok (l1Use_ok core n ln h) (ite_ok h (modCores_ok _ h))

theorem l1Drop_ok {s : State} (core : Nat) (keep : Bool) (f : Nat → Bool) (h : MemoryOk s) :
    MemoryOk (l1Drop s core keep f) := modCores_ok _ h

theorem rdcRoom_ok {s : State} (d ln : Nat) (h : MemoryOk s) : MemoryOk (rdcRoom s d ln) := by
  unfold rdcRoom
  dsimp only
  split
  · exact h
  · split
    · exact h
    · refine modDie_ok _ _ ?_
      split
      · exact rdcFlushLine_ok _ h
      · exact h

theorem rdcUse_ok {s : State} (d : Nat) (n : BitVec 2) (ln : Nat) (h : MemoryOk s) : MemoryOk (rdcUse s d n ln) :=
  modDie_ok _ _ h

theorem poolTake_ok {s : State} (ln : Nat) (h : MemoryOk s) : MemoryOk (poolTake s ln) := memoryOk_of_eq h rfl rfl

theorem poolOwn_ok {s : State} (d ln : Nat) (h : MemoryOk s) : MemoryOk (poolOwn s d ln) := by
  unfold poolOwn
  split
  · exact h
  · refine modDie_ok _ _ (rdcRoom_ok _ _ (poolTake_ok _ ?_))
    split
    · exact rdcFlushLine_ok _ h
    · exact h

theorem poolWriteLine_ok {s : State} (d ln off : Nat) (bs : List Byte) (w : Option Writer) (h : MemoryOk s) :
    MemoryOk (poolWriteLine s d ln off bs w) := by
  unfold poolWriteLine
  dsimp only
  generalize ((leBytes _ 64).take off ++ bs ++ (leBytes _ 64).drop (off + bs.length)).take 64 = new
  have h1 : MemoryOk (poolTake s ln) := memoryOk_of_eq h rfl rfl
  generalize poolTake s ln = u at h1
  by_cases hd : d < 4
  · rw [if_pos hd]
    exact memoryOk_of_eq (rdcRoom_ok d ln h1) rfl rfl
  · rw [if_neg hd]
    refine ⟨h1.1, ?_⟩
    exact wf_cellsWrite _ new h1.2

theorem poolWrite_ok {s : State} (d a : Nat) (bs : List Byte) (w : Option Writer) (h : MemoryOk s) :
    MemoryOk (poolWrite s d a bs w) :=
  foldl_ok (fun _ p hs => poolWriteLine_ok d p.1 p.2.1 p.2.2 w hs) _ h

/-- A write at a physical address keeps the canonical form of both memories. -/
theorem physWrite_ok {s : State} (d k a : Nat) (bs : List Byte) (w : Option Writer) (h : MemoryOk s) :
    MemoryOk (physWrite s d k a bs w) := by
  unfold physWrite
  split
  · exact memoryOk_of_eq (foldl_ok (fun _ ln hs => l2Write_ok d ln hs) _ (hbmWrite_ok k a bs h)) rfl rfl
  · exact memoryOk_of_eq (poolWrite_ok d a bs w h) rfl rfl
  · exact memoryOk_mem h (wf_cellsWrite a bs h.1) rfl rfl

/-! What an access leaves in TLBs, heat and caches keeps it as well (R242) -/

theorem heatEntry_ok {s : State} (die : Nat) (x : LeafRef) (rd wr : Bool) (h : MemoryOk s) :
    MemoryOk (heatEntry s die x rd wr) := by
  unfold heatEntry
  exact ite_ok h (physWrite_ok _ _ _ _ _ h)

theorem heatLeaves_ok {s : State} (die : Nat) (l1 l2 : Option LeafRef) (rd wr : Bool) (h : MemoryOk s) :
    MemoryOk (heatLeaves s die l1 l2 rd wr) := by
  cases l1 with
  | none => cases l2 with
    | none => exact h
    | some y => exact heatEntry_ok die y rd wr h
  | some x => cases l2 with
    | none => exact heatEntry_ok die x rd wr h
    | some y => exact heatEntry_ok die y rd wr (heatEntry_ok die x rd wr h)

theorem tlbInstall_ok {s : State} (g : Agent) (e : TlbEntry) (h : MemoryOk s) : MemoryOk (tlbInstall s g e) := by
  have same : (tlbInstall s g e).mem = s.mem ∧ (tlbInstall s g e).pool = s.pool := by
    unfold tlbInstall
    cases g.core <;> by_cases hd : g.die < 4 <;> simp only [hd, if_true, if_false] <;> trivial
  exact memoryOk_of_eq h same.1 same.2

theorem walksInstall_ok {s : State} (die : Nat) (ws : List WalkEntry) (h : MemoryOk s) :
    MemoryOk (walksInstall s die ws) := by
  unfold walksInstall
  split
  · exact h
  · exact memoryOk_of_eq h rfl rfl

theorem noteSeg_ok {s : State} (g : Agent) (acc : Acc) (x : Seg) (h : MemoryOk s) : MemoryOk (noteSeg s g acc x) := by
  unfold noteSeg
  have h1 := walksInstall_ok g.die x.walks h
  generalize walksInstall s g.die x.walks = u at h1
  dsimp only
  cases x.tlb with
  | none => exact heatLeaves_ok _ _ _ _ _ h1
  | some e =>
    exact ite_ok (ite_ok (heatLeaves_ok _ _ _ _ _ h1) h1) (tlbInstall_ok g _ (ite_ok (heatLeaves_ok _ _ _ _ _ h1) h1))

theorem noteSegs_ok (g : Agent) (acc : Acc) (l : List Seg) :
    ∀ {s : State} (p : Option TlbEntry), MemoryOk s → MemoryOk (noteSegs s g acc p l) := by
  induction l with
  | nil => intro s p h; exact h
  | cons x l ih =>
    intro s p h
    exact ite_ok (ih p h) (ih _ (noteSeg_ok g acc x h))

theorem poolShare_ok {s : State} (ln : Nat) (h : MemoryOk s) : MemoryOk (poolShare s ln) := by
  unfold poolShare
  split
  · exact h
  · exact memoryOk_of_eq (rdcFlushLine_ok _ h) rfl rfl

theorem rdcReadPool_ok {s : State} (d ln : Nat) (h : MemoryOk s) : MemoryOk (rdcReadPool s d ln) :=
  ite_ok h (memoryOk_of_eq (rdcRoom_ok d ln (poolShare_ok ln h)) rfl rfl)

theorem rdcReadRemote_ok {s : State} (d ln : Nat) (h : MemoryOk s) : MemoryOk (rdcReadRemote s d ln) := by
  unfold rdcReadRemote
  split
  · exact h
  · exact memoryOk_of_eq (rdcRoom_ok d ln h) rfl rfl

theorem fillLine_ok {s : State} (die : Nat) (n : BitVec 2) (p : BitVec 4) (g : Option Nat) (ln : Nat) (h : MemoryOk s) :
    MemoryOk (fillLine s die n p g ln) := by
  unfold fillLine
  split
  · exact ite_ok (rdcUse_ok _ _ _ (rdcReadRemote_ok _ _ (l2Fill_ok n p g ln h))) (l2Fill_ok n p g ln h)
  · exact ite_ok (rdcUse_ok _ _ _ (rdcReadPool_ok _ _ h)) h
  · exact h

theorem readLine_ok {s : State} (g : Agent) (acc : Acc) (gr ln : Nat) (h : MemoryOk s) :
    MemoryOk (readLine s g acc gr ln) := by
  unfold readLine
  split
  · exact rdcUse_ok _ _ _ (poolOwn_ok _ _ h)
  · exact fillLine_ok _ _ _ _ _ h

theorem writeLine_ok {s : State} (g : Agent) (gr ln : Nat) (h : MemoryOk s) : MemoryOk (writeLine s g gr ln) := by
  unfold writeLine
  split
  · exact rdcUse_ok _ _ _ h
  · exact ite_ok (rdcUse_ok _ _ _ (l2Fill_ok _ _ _ _ h)) (l2Fill_ok _ _ _ _ h)

theorem fillSeg_ok {s : State} (g : Agent) (acc : Acc) (l1 : Bool) (x : Seg) (h : MemoryOk s) :
    MemoryOk (fillSeg s g acc l1 x) := by
  unfold fillSeg
  refine foldl_ok (fun t ln ht => ?_) _ h
  have h1 : MemoryOk (if accReads acc then readLine t g acc (pieceGranule s x) ln else writeLine t g (pieceGranule s x) ln) :=
    ite_ok (readLine_ok g acc _ ln ht) (writeLine_ok g _ ln ht)
  dsimp only
  generalize (if accReads acc then readLine t g acc (pieceGranule s x) ln else writeLine t g (pieceGranule s x) ln) = u at h1
  cases g.core with
  | none => exact h1
  | some c =>
    cases acc with
    | read => exact ite_ok (l1Fill_ok _ _ _ _ _ _ h1) h1
    | fetch => exact ite_ok (l1Fill_ok _ _ _ _ _ _ h1) h1
    | write => exact l1Use_ok _ _ _ h1
    | atomic => exact l1Use_ok _ _ _ h1
    | xferWrite => exact l1Drop_ok _ _ _ h1
    | xferRead => exact h1

theorem noteFill_ok {s : State} (g : Agent) (acc : Acc) (segs : List Seg) (l1 : Bool) (h : MemoryOk s) :
    MemoryOk (noteFill s g acc segs l1) :=
  foldl_ok (fun _ x hs => fillSeg_ok g acc l1 x hs) segs (noteSegs_ok g acc segs none h)

/-- What an access leaves besides its bytes keeps the canonical form of both memories. -/
theorem noteAccess_ok {s : State} (g : Agent) (acc : Acc) (segs : List Seg) (l1 : Bool) (h : MemoryOk s) :
    MemoryOk (noteAccess s g acc segs l1) :=
  memoryOk_of_eq (noteFill_ok g acc segs l1 h) rfl rfl

theorem touch_ok {s : State} (g : Agent) (acc : Acc) (gs : List (Nat × Nat)) (h : MemoryOk s) :
    MemoryOk (touch s g acc gs) := noteSegs_ok g acc _ none h

/-! What a write of memory leaves of the rest of the state -/

theorem onlyMemory_refl (s : State) : OnlyMemory s s := ⟨rfl, fun _ => rfl, fun _ => rfl⟩

theorem onlyMemory_trans {s t u : State} (h1 : OnlyMemory s t) (h2 : OnlyMemory t u) : OnlyMemory s u := by
  refine ⟨?_, fun n => (h2.cores n).trans (h1.cores n), fun n => (h2.dies n).trans (h1.dies n)⟩
  have h3 := h1.rest
  rw [← h2.rest] at h3
  exact h3

theorem foldl_only {α : Type} {f : State → α → State} (hf : ∀ s x, OnlyMemory s (f s x)) (l : List α) :
    ∀ s : State, OnlyMemory s (l.foldl f s) := by
  induction l with
  | nil => exact onlyMemory_refl
  | cons a l ih => exact fun s => onlyMemory_trans (hf s a) (ih (f s a))

/-- The memory, its marks and the count of free values changed, and nothing else. -/
theorem onlyMemory_of {s u : State}
    (h : { u with mem := s.mem, marks := s.marks, poison := s.poison, pool := s.pool, watches := s.watches
                  fires := s.fires, outbox := s.outbox, freeCtr := s.freeCtr, cores := s.cores, dies := s.dies } = s)
    (hc : u.cores = s.cores) (hd : u.dies = s.dies) : OnlyMemory s u :=
  ⟨h, fun n => by simp only [getCore, hc], fun n => by simp only [getDie, hd]⟩

/-- Dies changed one by one in their caches alone. -/
theorem onlyMemory_dies {s u : State}
    (h : { u with mem := s.mem, marks := s.marks, poison := s.poison, pool := s.pool, watches := s.watches
                  fires := s.fires, outbox := s.outbox, freeCtr := s.freeCtr, cores := s.cores, dies := s.dies } = s)
    (hc : u.cores = s.cores) (hd : ∀ n : Nat, (u.dies[n]?).map dieRest = (s.dies[n]?).map dieRest) : OnlyMemory s u := by
  refine ⟨h, fun n => by simp only [getCore, hc], fun n => ?_⟩
  have := hd n
  simp only [getDie, List.getD_eq_getElem?_getD]
  cases hu : u.dies[n]? with
  | none => cases hs : s.dies[n]? with
    | none => rfl
    | some y => rw [hu, hs] at this; cases this
  | some x => cases hs : s.dies[n]? with
    | none => rw [hu, hs] at this; cases this
    | some y => rw [hu, hs] at this; exact Option.some.inj this

theorem modDie_only (s : State) (d : Nat) (f : DieState → DieState) (hf : ∀ x, dieRest (f x) = dieRest x) :
    OnlyMemory s (modDie s d f) := by
  refine onlyMemory_dies rfl rfl fun n => ?_
  simp only [modDie, List.getElem?_modify]
  cases s.dies[n]? with
  | none => rfl
  | some x => by_cases h : d = n <;> simp [h, hf]

theorem mapDies_only (s : State) (f : DieState → DieState) (hf : ∀ x, dieRest (f x) = dieRest x) :
    OnlyMemory s { s with dies := s.dies.map f } := by
  refine onlyMemory_dies rfl rfl fun n => ?_
  simp only [List.getElem?_map]
  cases s.dies[n]? with
  | none => rfl
  | some x => simp [hf]

theorem mapIdxDies_only (s : State) (f : Nat → DieState → DieState) (hf : ∀ i x, dieRest (f i x) = dieRest x) :
    OnlyMemory s { s with dies := s.dies.mapIdx f } := by
  refine onlyMemory_dies rfl rfl fun n => ?_
  simp only [List.getElem?_mapIdx]
  cases s.dies[n]? with
  | none => rfl
  | some x => simp [hf]

theorem claimLine_only (s : State) (k ln : Nat) : OnlyMemory s (claimLine s k ln) := by
  unfold claimLine; split <;> exact onlyMemory_of rfl rfl rfl

theorem hbmWriteLine_only (s : State) (k ln off : Nat) (bs : List Byte) :
    OnlyMemory s (hbmWriteLine s k ln off bs) := onlyMemory_trans (claimLine_only s k ln) (onlyMemory_of rfl rfl rfl)

theorem rdcFlushLine_only (s : State) (x : RdcLine) : OnlyMemory s (rdcFlushLine s x) :=
  onlyMemory_trans
    (onlyMemory_of (u := { s with pool := match physKind (64 * x.addr) with
      | .pool _ => cellsWrite s.pool (poolAddr s (64 * x.addr)) (leBytes x.data.toNat 64)
      | _ => s.pool }) rfl rfl rfl)
    (mapDies_only _ (fun d => { d with rdc := d.rdc.filter fun y => y.addr != x.addr }) fun _ => rfl)

theorem freeCtr_only (s : State) (n : Nat) : OnlyMemory s { s with freeCtr := n } := onlyMemory_of rfl rfl rfl

theorem l2Drop_only (s : State) (d ln : Nat) : OnlyMemory s (l2Drop s d ln) :=
  onlyMemory_trans (modDie_only s d (fun x => { x with l2 := x.l2.filter fun y => y.line != ln }) fun _ => rfl)
    (mapDies_only _ (fun x => { x with rdcRemote := x.rdcRemote.filter (· != ln) }) fun _ => rfl)

theorem l2Room_only (s : State) (d ln : Nat) : OnlyMemory s (l2Room s d ln) := by
  unfold l2Room
  dsimp only
  split
  · exact onlyMemory_refl s
  · generalize replaced _ _ _ = o
    cases o with
    | none => exact onlyMemory_refl s
    | some v => exact l2Drop_only s d v

theorem l2Fill_only (s : State) (n : BitVec 2) (p : BitVec 4) (g : Option Nat) (ln : Nat) :
    OnlyMemory s (l2Fill s n p g ln) := by
  unfold l2Fill
  split
  · dsimp only
    split
    · exact modDie_only _ _ _ fun _ => rfl
    · exact onlyMemory_trans (l2Room_only s _ ln) (modDie_only _ _ _ fun _ => rfl)
  · exact onlyMemory_refl s

theorem l2Write_only (s : State) (die ln : Nat) : OnlyMemory s (l2Write s die ln) := by
  unfold l2Write
  split
  · rename_i d _
    have h1 : OnlyMemory s (if (getDie s d).l2.any fun x => x.line == ln then s else l2Fill s 0 0 none ln) := by
      split
      · exact onlyMemory_refl s
      · exact l2Fill_only s 0 0 none ln
    dsimp only
    generalize (if (getDie s d).l2.any fun x => x.line == ln then s else l2Fill s 0 0 none ln) = u at h1
    refine onlyMemory_trans h1 (onlyMemory_trans (modDie_only u d (fun x => { x with
      l2 := x.l2.map fun y => if y.line = ln then { y with dirty := true } else y }) fun _ => rfl) ?_)
    exact mapIdxDies_only _ (fun i x => if i = die then x else { x with rdcRemote := x.rdcRemote.filter (· != ln) })
      fun i x => by split <;> rfl
  · exact onlyMemory_refl s

theorem rdcRoom_only (s : State) (d ln : Nat) : OnlyMemory s (rdcRoom s d ln) := by
  unfold rdcRoom
  dsimp only
  split
  · exact onlyMemory_refl s
  · split
    · exact onlyMemory_refl s
    · refine onlyMemory_trans ?_ (modDie_only _ _ _ fun _ => rfl)
      split
      · exact rdcFlushLine_only s _
      · exact onlyMemory_refl s

theorem poolTake_only (s : State) (ln : Nat) : OnlyMemory s (poolTake s ln) :=
  mapDies_only s (fun x =>
    { x with rdc := x.rdc.filter fun y => y.addr != ln, rdcClean := x.rdcClean.filter (· != ln) }) fun _ => rfl

theorem poolWriteLine_only (s : State) (d ln off : Nat) (bs : List Byte) (w : Option Writer) :
    OnlyMemory s (poolWriteLine s d ln off bs w) := by
  unfold poolWriteLine
  dsimp only
  generalize ((leBytes _ 64).take off ++ bs ++ (leBytes _ 64).drop (off + bs.length)).take 64 = new
  refine onlyMemory_trans (poolTake_only s ln) ?_
  generalize poolTake s ln = u
  split
  · exact onlyMemory_trans (rdcRoom_only u d ln) (modDie_only _ d _ fun _ => rfl)
  · exact onlyMemory_of rfl rfl rfl

theorem testWatches_only (s : State) (k a n : Nat) (w : Option Writer) : OnlyMemory s (testWatches s k a n w) :=
  onlyMemory_of rfl rfl rfl
theorem cleanLines_only (s : State) (a n : Nat) : OnlyMemory s (cleanLines s a n) := onlyMemory_of rfl rfl rfl

/-- A write at a physical address changes nothing but memory, its lines' keys and poison, the caches and the watchpoints. -/
theorem physWrite_only (s : State) (d k a : Nat) (bs : List Byte) (w : Option Writer) :
    OnlyMemory s (physWrite s d k a bs w) := by
  unfold physWrite
  split
  · exact onlyMemory_trans
      (onlyMemory_trans
        (foldl_only (fun s (p : Nat × Nat × List Byte) => hbmWriteLine_only s k p.1 p.2.1 p.2.2) _ s)
        (foldl_only (fun s ln => l2Write_only s d ln) _ _))
      (testWatches_only _ _ _ _ _)
  · exact onlyMemory_trans
      (foldl_only (fun s (p : Nat × Nat × List Byte) => poolWriteLine_only s d p.1 p.2.1 p.2.2 w) _ s)
      (cleanLines_only _ _ _)
  · exact onlyMemory_trans (onlyMemory_of (u := { s with mem := cellsWrite s.mem a bs }) rfl rfl rfl) (cleanLines_only _ _ _)

end Sys2Proof.Laws
end

