-- ==== Sys2Proof/Laws/Keep.lean ====
section
/-! SUPPORT. What the shared operations can do, each said once: a trap taken, an instruction issued; and that they keep the
canonical form of both memories (R71, R95, R242, R252 to R260). -/

namespace Sys2Proof.Laws

open Machine

/-- Both memories of t are those of s. -/
def SameMemory (s t : State) : Prop := t.mem = s.mem ∧ t.pool = s.pool

theorem SameMemory.rfl' {s : State} : SameMemory s s := ⟨rfl, rfl⟩
theorem SameMemory.trans {s t u : State} (h1 : SameMemory s t) (h2 : SameMemory t u) : SameMemory s u :=
  ⟨h2.1.trans h1.1, h2.2.trans h1.2⟩
theorem SameMemory.ok {s t : State} (h : SameMemory s t) (hs : MemoryOk s) : MemoryOk t := memoryOk_of_eq hs h.1 h.2

theorem parkMember_same (s : State) (b m : Nat) (cause : BitVec 8) (row : Nat) :
    SameMemory s (parkMember s b m cause row) := by
  unfold parkMember
  split
  · exact .rfl'
  · split
    · exact .rfl'
    · dsimp only
      split <;> exact ⟨rfl, rfl⟩

theorem parkAll_same (s : State) (b : Nat) (cause : BitVec 8) (n : Nat) : SameMemory s (parkAll s b cause n) := by
  induction n with
  | zero => exact .rfl'
  | succ n ih => exact ih.trans (parkMember_same _ _ _ _ _)

theorem endCtx_same (s : State) (id : CtxId) (cause : BitVec 8) : SameMemory s (endCtx s id cause) := by
  unfold endCtx
  split
  · exact .rfl'
  · rename_i c _
    dsimp only
    cases c.task with
    | none =>
      cases c.neutral with
      | none => exact ⟨rfl, rfl⟩
      | some b => exact SameMemory.trans ⟨rfl, rfl⟩ (parkAll_same _ b cause _)
    | some t =>
      cases c.neutral with
      | none => exact ⟨rfl, rfl⟩
      | some b => exact SameMemory.trans ⟨rfl, rfl⟩ (parkAll_same _ b cause _)

theorem noteFetch_ok {s : State} (g : Agent) (base : Word) (line : Nat) (h : MemoryOk s) :
    MemoryOk (noteFetch s g base line) := by
  unfold noteFetch
  dsimp only
  split
  · exact noteAccess_ok g .fetch _ true h
  · exact ite_ok (touch_ok g .fetch _ h) h

/-- The fetches of a header check keep the canonical form. -/
theorem noteImage_ok {s : State} (g : Agent) (base : Word) (h : MemoryOk s) : MemoryOk (noteImage s g base) := by
  unfold noteImage
  dsimp only
  split
  · exact noteFetch_ok g base 0 h
  · exact foldl_ok (fun _ e hs => noteFetch_ok g base e hs) _ (noteFetch_ok g base 0 h)

/-- All that taking a trap can do: wait for the forced save; or, behind the header checks of the vectors it tried, end the
context or enter the steward's or the reeve's vector. -/
theorem takeTrap_cases (s : State) (c : Ctx) (t : TrapReq) :
    takeTrap s c t = modCtx s c.id (fun c =>
        { c with pending := c.pending ++ [{ t with depth := c.frames.length }]
                 preempt := c.preempt.map fun r => { r with used := 65536 } })
      ∨ ∃ u, (u = optisLog s 5 c.id.core
          ∨ (∃ g b, u = noteImage s g b) ∨ ∃ g b g' b', u = noteImage (noteImage s g b) g' b')
        ∧ (takeTrap s c t = endCtx u c.id t.cause ∨ ∃ reeve len ents, takeTrap s c t = enterVector u c t reeve len ents) := by
  have go : ∀ v : State, ∃ g b,
      (match checkImage v (handlerAgent s c true) (vectorImage v c true) with
        | some (len, ents) => enterVector (noteImage v (handlerAgent s c true) (vectorImage v c true)) c t true len ents
        | none => endCtx (noteImage v (handlerAgent s c true) (vectorImage v c true)) c.id t.cause)
          = endCtx (noteImage v g b) c.id t.cause
      ∨ ∃ reeve len ents,
        (match checkImage v (handlerAgent s c true) (vectorImage v c true) with
          | some (len, ents) => enterVector (noteImage v (handlerAgent s c true) (vectorImage v c true)) c t true len ents
          | none => endCtx (noteImage v (handlerAgent s c true) (vectorImage v c true)) c.id t.cause)
          = enterVector (noteImage v g b) c t reeve len ents := by
    intro v
    refine ⟨handlerAgent s c true, vectorImage v c true, ?_⟩
    split
    · exact .inr ⟨true, _, _, rfl⟩
    · exact .inl rfl
  generalize hr : takeTrap s c t = r
  unfold takeTrap at hr
  extract_lets via inReeve inPre gs gr try' at hr
  by_cases h2 : inPre = true
  · rw [if_pos h2] at hr; subst hr; exact .inl rfl
  · rw [if_neg h2] at hr
    refine .inr ?_
    by_cases h1 : inReeve = true
    · rw [if_pos h1] at hr; subst hr; exact ⟨_, .inl rfl, .inl rfl⟩
    · rw [if_neg h1] at hr
      by_cases h3 : via = true
      · rw [if_pos h3] at hr
        subst hr
        obtain ⟨g, b, h⟩ := go s
        exact ⟨_, .inr (.inl ⟨g, b, rfl⟩), h⟩
      · rw [if_neg h3] at hr
        subst hr
        split
        · exact ⟨_, .inr (.inl ⟨_, _, rfl⟩), .inr ⟨false, _, _, rfl⟩⟩
        · obtain ⟨g, b, h⟩ := go (noteImage s gs (vectorImage s c false))
          exact ⟨_, .inr (.inr ⟨_, _, g, b, rfl⟩), h⟩

theorem takeTrap_ok {s : State} (c : Ctx) (t : TrapReq) (h : MemoryOk s) : MemoryOk (takeTrap s c t) := by
  obtain e | ⟨u, hu, e⟩ := takeTrap_cases s c t
  · rw [e]; exact h
  · have h1 : MemoryOk u := by
      obtain rfl | ⟨g, b, rfl⟩ | ⟨g, b, g', b', rfl⟩ := hu
      · exact h
      · exact noteImage_ok g b h
      · exact noteImage_ok g' b' (noteImage_ok g b h)
    obtain e | ⟨r, len, ents, e⟩ := e
    · rw [e]; exact (endCtx_same u _ _).ok h1
    · rw [e]; exact h1

theorem trapBefore_ok {s : State} (id : CtxId) (q : Seqr) (t : TrapReq) (h : MemoryOk s) :
    MemoryOk (trapBefore s id q t) := by
  unfold trapBefore
  dsimp only
  split
  · exact h
  · exact takeTrap_ok _ _ h

theorem raiseTrap_ok {s : State} (id : CtxId) (t : TrapReq) (h : MemoryOk s) : MemoryOk (raiseTrap s id t) := by
  unfold raiseTrap
  split
  · exact h
  · exact ite_ok h (ite_ok h (takeTrap_ok _ _ h))

theorem raiseLater_same (s : State) (id : CtxId) (t : TrapReq) : SameMemory s (raiseLater s id t) := ⟨rfl, rfl⟩

theorem waitAcquire_same (s : State) (core : Nat) (h : Hdr) (sc : Scope) : SameMemory s (waitAcquire s core h sc) := by
  unfold waitAcquire
  split <;> first | exact .rfl' | (split <;> exact ⟨rfl, rfl⟩)

theorem finish_same (s : State) (id : CtxId) (q : Seqr) (h : Hdr) (k : OpKind) (e : Exc) (t : Option TrapReq)
    (n : Option CodePoint) (b : Bool) (sc : Scope) : SameMemory s (finish s id q h k e t n b sc) :=
  SameMemory.trans (waitAcquire_same s id.core h sc) ⟨rfl, rfl⟩

theorem holdAt_same (s : State) (id : CtxId) (q : Seqr) (h : Hdr) (w : Hold) : SameMemory s (holdAt s id q h w) :=
  ⟨rfl, rfl⟩

/-- The state in which an instruction's body leaves the machine before its issue is accounted for. -/
def actState (s : State) : Act → State
  | .done s' _ _ _ | .quiet s' _ | .posts s' _ _ | .trap s' _ _ _ | .late s' | .after s' _ _ | .hold s' _ | .set s' => s'
  | .wait | .waitRel _ => s

/-- issue always answers a next state (R81, R95): the machine as it was, or what the checks, the guards or the body of the
instruction make of it. Where both memories had their canonical form, before it and in the body's state, they keep it. -/
theorem issue_next (s : State) (h : Hdr) (form : Ctx → Form) (body : Ctx → Seqr → Act) (sc : Scope) :
    ∃ t, issue s h form body sc = .next t ∧
      (MemoryOk s → (∀ c, MemoryOk (actState s (body c s.cur.seq))) → MemoryOk t) := by
  unfold issue
  dsimp only
  cases getCtx s (ctxOf s.cur) with
  | none => exact ⟨s, rfl, fun h _ => h⟩
  | some c =>
    dsimp only
    split
    · exact ⟨s, rfl, fun h _ => h⟩
    · split
      · exact ⟨_, rfl, fun h _ => takeTrap_ok _ _ h⟩
      · split
        · exact ⟨_, rfl, fun h _ => trapBefore_ok _ _ _ h⟩
        · split
          · exact ⟨s, rfl, fun h _ => h⟩
          · split
            · exact ⟨_, rfl, fun h _ => (finish_same ..).ok h⟩
            · cases hb : body c s.cur.seq with
              | done s' k e n => exact ⟨_, rfl, fun _ h => (finish_same ..).ok (by have := h c; rwa [hb] at this)⟩
              | quiet s' e => exact ⟨_, rfl, fun _ h => (finish_same ..).ok (by have := h c; rwa [hb] at this)⟩
              | posts s' k p => exact ⟨_, rfl, fun _ h => (finish_same ..).ok (by have := h c; rwa [hb] at this)⟩
              | trap s' a b d =>
                exact ⟨_, rfl, fun _ h => trapBefore_ok _ _ _ (by have := h c; rw [hb] at this; exact this)⟩
              | late s' => exact ⟨_, rfl, fun _ h => trapBefore_ok _ _ _ (by have := h c; rw [hb] at this; exact this)⟩
              | after s' a b => exact ⟨_, rfl, fun _ h => (finish_same ..).ok (by have := h c; rwa [hb] at this)⟩
              | hold s' w => exact ⟨_, rfl, fun _ h => (holdAt_same ..).ok (by have := h c; rwa [hb] at this)⟩
              | wait => exact ⟨s, rfl, fun h _ => h⟩
              | waitRel r => exact ⟨_, rfl, fun h _ => h⟩
              | set s' => exact ⟨_, rfl, fun _ h => by have := h c; rwa [hb] at this⟩

/-- An instruction whose body keeps the canonical form keeps it. -/
theorem issue_ok {s t : State} {h : Hdr} {form : Ctx → Form} {body : Ctx → Seqr → Act} {sc : Scope} (hs : MemoryOk s)
    (hb : ∀ c q, MemoryOk (actState s (body c q))) (ht : issue s h form body sc = .next t) : MemoryOk t := by
  obtain ⟨u, h0, h1⟩ := issue_next s h form body sc
  rw [h0] at ht
  cases ht
  exact h1 hs fun c => hb c _

end Sys2Proof.Laws
end

