-- ==== Sys2Proof/Laws/PerInstr.lean ====
section
/-! SUPPORT. The family Fields, per instruction: the fields of a well-formed instruction's word decode to it. A device
operation has no word. -/

namespace Sys2Proof.Laws.Fields

/-- The fields that the encoder gives a well-formed instruction decode to that instruction. -/
def Statement (i : Instr) : Prop := ∀ r, WellFormed i → encodeRaw i = some r → decodeRaw r = .ok i

theorem add (h : Hdr) (d a b : SReg) : Statement (.add h d a b) := by
  intro r hw hr; cases hr
  refine decoded rfl (row_add h _) ?_ hw
  simp (disch := decide) [decSSS, encSSS, rsWord]

theorem addi (h : Hdr) (d a : SReg) (imm : BitVec 32) : Statement (.addi h d a imm) := by
  intro r hw hr; cases hr
  refine decoded rfl (row_addi h _) ?_ hw
  simp (disch := decide) [decSSI, encSSI, riWord]

theorem sub (h : Hdr) (d a b : SReg) : Statement (.sub h d a b) := by
  intro r hw hr; cases hr
  refine decoded rfl (row_sub h _) ?_ hw
  simp (disch := decide) [decSSS, encSSS, rsWord]

theorem mul (h : Hdr) (d a b : SReg) : Statement (.mul h d a b) := by
  intro r hw hr; cases hr
  refine decoded rfl (row_mul h _) ?_ hw
  simp (disch := decide) [decSSS, encSSS, rsWord]

theorem mulh (h : Hdr) (u : Bool) (d a b : SReg) : Statement (.mulh h u d a b) := by
  intro r hw hr; cases hr
  refine decoded rfl (row_mulh h _) ?_ hw
  simp (disch := decide) [decSSSU, uBit, encSSS, rsWord]

theorem div (h : Hdr) (u : Bool) (d a b : SReg) : Statement (.div h u d a b) := by
  intro r hw hr; cases hr
  refine decoded rfl (row_div h _) ?_ hw
  simp (disch := decide) [decSSSU, uBit, encSSS, rsWord]

theorem rem (h : Hdr) (u : Bool) (d a b : SReg) : Statement (.rem h u d a b) := by
  intro r hw hr; cases hr
  refine decoded rfl (row_rem h _) ?_ hw
  simp (disch := decide) [decSSSU, uBit, encSSS, rsWord]

theorem and (h : Hdr) (d a b : SReg) : Statement (.and h d a b) := by
  intro r hw hr; cases hr
  refine decoded rfl (row_and h _) ?_ hw
  simp (disch := decide) [decSSS, encSSS, rsWord]

theorem andImm (h : Hdr) (d a : SReg) (imm : BitVec 32) : Statement (.andImm h d a imm) := by
  intro r hw hr; cases hr
  refine decoded rfl (row_andImm h _) ?_ hw
  simp (disch := decide) [decSSI, encSSI, riWord]

theorem or (h : Hdr) (d a b : SReg) : Statement (.or h d a b) := by
  intro r hw hr; cases hr
  refine decoded rfl (row_or h _) ?_ hw
  simp (disch := decide) [decSSS, encSSS, rsWord]

theorem orImm (h : Hdr) (d a : SReg) (imm : BitVec 32) : Statement (.orImm h d a imm) := by
  intro r hw hr; cases hr
  refine decoded rfl (row_orImm h _) ?_ hw
  simp (disch := decide) [decSSI, encSSI, riWord]

theorem xor (h : Hdr) (d a b : SReg) : Statement (.xor h d a b) := by
  intro r hw hr; cases hr
  refine decoded rfl (row_xor h _) ?_ hw
  simp (disch := decide) [decSSS, encSSS, rsWord]

theorem xorImm (h : Hdr) (d a : SReg) (imm : BitVec 32) : Statement (.xorImm h d a imm) := by
  intro r hw hr; cases hr
  refine decoded rfl (row_xorImm h _) ?_ hw
  simp (disch := decide) [decSSI, encSSI, riWord]

theorem andn (h : Hdr) (d a b : SReg) : Statement (.andn h d a b) := by
  intro r hw hr; cases hr
  refine decoded rfl (row_andn h _) ?_ hw
  simp (disch := decide) [decSSS, encSSS, rsWord]

theorem shl (h : Hdr) (d a b : SReg) : Statement (.shl h d a b) := by
  intro r hw hr; cases hr
  refine decoded rfl (row_shl h _) ?_ hw
  simp (disch := decide) [decSSS, encSSS, rsWord]

theorem shlImm (h : Hdr) (d a : SReg) (sh : BitVec 6) : Statement (.shlImm h d a sh) := by
  intro r hw hr; cases hr
  refine decoded rfl (row_shlImm h _) ?_ hw
  simp (disch := decide) [decShift, encShift, riWord]

theorem shr (h : Hdr) (d a b : SReg) : Statement (.shr h d a b) := by
  intro r hw hr; cases hr
  refine decoded rfl (row_shr h _) ?_ hw
  simp (disch := decide) [decSSS, encSSS, rsWord]

theorem shrImm (h : Hdr) (d a : SReg) (sh : BitVec 6) : Statement (.shrImm h d a sh) := by
  intro r hw hr; cases hr
  refine decoded rfl (row_shrImm h _) ?_ hw
  simp (disch := decide) [decShift, encShift, riWord]

theorem sar (h : Hdr) (d a b : SReg) : Statement (.sar h d a b) := by
  intro r hw hr; cases hr
  refine decoded rfl (row_sar h _) ?_ hw
  simp (disch := decide) [decSSS, encSSS, rsWord]

theorem sarImm (h : Hdr) (d a : SReg) (sh : BitVec 6) : Statement (.sarImm h d a sh) := by
  intro r hw hr; cases hr
  refine decoded rfl (row_sarImm h _) ?_ hw
  simp (disch := decide) [decShift, encShift, riWord]

theorem min (h : Hdr) (u : Bool) (d a b : SReg) : Statement (.min h u d a b) := by
  intro r hw hr; cases hr
  refine decoded rfl (row_min h _) ?_ hw
  simp (disch := decide) [decSSSU, uBit, encSSS, rsWord]

theorem max (h : Hdr) (u : Bool) (d a b : SReg) : Statement (.max h u d a b) := by
  intro r hw hr; cases hr
  refine decoded rfl (row_max h _) ?_ hw
  simp (disch := decide) [decSSSU, uBit, encSSS, rsWord]

theorem clz (h : Hdr) (d a : SReg) : Statement (.clz h d a) := by
  intro r hw hr; cases hr
  refine decoded rfl (row_clz h _) ?_ hw
  simp (disch := decide) [decSS, encSS, rsWord]

theorem popc (h : Hdr) (d a : SReg) : Statement (.popc h d a) := by
  intro r hw hr; cases hr
  refine decoded rfl (row_popc h _) ?_ hw
  simp (disch := decide) [decSS, encSS, rsWord]

theorem brev (h : Hdr) (d a : SReg) : Statement (.brev h d a) := by
  intro r hw hr; cases hr
  refine decoded rfl (row_brev h _) ?_ hw
  simp (disch := decide) [decSS, encSS, rsWord]

theorem bfx (h : Hdr) (sx : Bool) (d a : SReg) (pos wm1 : BitVec 6) : Statement (.bfx h sx d a pos wm1) := by
  intro r hw hr; cases hr
  refine decoded rfl (row_bfx h _) ?_ hw
  simp (disch := decide) [decBfx, rsWord]

theorem bfi (h : Hdr) (d a b : SReg) (pos wm1 : BitVec 6) : Statement (.bfi h d a b pos wm1) := by
  intro r hw hr; cases hr
  refine decoded rfl (row_bfi h _) ?_ hw
  simp (disch := decide) [decBfi, rsWord]

theorem sel (h : Hdr) (d a b : SReg) (g : GReg) : Statement (.sel h d a b g) := by
  intro r hw hr; cases hr
  refine decoded rfl (row_sel h _) ?_ hw
  simp (disch := decide) [decSel, rsWord]

theorem mov (h : Hdr) (d a : SReg) : Statement (.mov h d a) := by
  intro r hw hr; cases hr
  refine decoded rfl (row_mov h _) ?_ hw
  simp (disch := decide) [decSS, encSS, rsWord]

theorem movi (h : Hdr) (mode : MoviMode) (d a : SReg) (imm : BitVec 32) : Statement (.movi h mode d a imm) := by
  intro r hw hr; cases hr
  refine decoded rfl (row_movi h _) ?_ hw
  simp (disch := decide) [decMovi, riWord]

theorem ldk (h : Hdr) (form : LdkForm) (d i : SReg) (w : BitVec 3) (off : BitVec 17) : Statement (.ldk h form d i w
    off) := by
  intro r hw hr; cases hr
  refine decoded rfl (row_ldk h _) ?_ hw
  simp (disch := decide) [decLdk, rkWord]

theorem cmp (h : Hdr) (c : Cond) (g : GReg) (a b : SReg) : Statement (.cmp h c g a b) := by
  intro r hw hr; cases hr
  refine decoded rfl (row_cmp h _) ?_ hw
  simp (disch := decide) [decCmp, rsWord]

theorem cmpImm (h : Hdr) (c : Cond) (g : GReg) (a : SReg) (imm : BitVec 32) : Statement (.cmpImm h c g a imm) := by
  intro r hw hr; cases hr
  refine decoded rfl (row_cmpImm h _) ?_ hw
  simp (disch := decide) [decCmpImm, riWord]

theorem gand (h : Hdr) (na nb nd : Bool) (g ga gb : GReg) : Statement (.gand h na nb nd g ga gb) := by
  intro r hw hr; cases hr
  refine decoded rfl (row_gand h _) ?_ hw
  simp (disch := decide) [decGuard, encGuard, rsWord]

theorem gor (h : Hdr) (na nb nd : Bool) (g ga gb : GReg) : Statement (.gor h na nb nd g ga gb) := by
  intro r hw hr; cases hr
  refine decoded rfl (row_gor h _) ?_ hw
  simp (disch := decide) [decGuard, encGuard, rsWord]

theorem wfld (h : Hdr) (d : SReg) (j : BitVec 3) : Statement (.wfld h d j) := by
  intro r hw hr; cases hr
  refine decoded rfl (row_wfld h _) ?_ hw
  simp (disch := decide) [decWfld, riWord]

theorem bra (h : Hdr) (off : BitVec 26) (slot : BitVec 3) : Statement (.bra h off slot) := by
  intro r hw hr; cases hr
  refine decoded rfl (row_bra h _) ?_ hw
  simp (disch := decide) [decBra, encLink, rbWord]

theorem brx (h : Hdr) (a : SReg) : Statement (.brx h a) := by
  intro r hw hr; cases hr
  refine decoded rfl (row_brx h _) ?_ hw
  simp (disch := decide) [decS, encS, rsWord]

theorem call (h : Hdr) (l : SReg) (off : BitVec 26) (slot : BitVec 3) : Statement (.call h l off slot) := by
  intro r hw hr; cases hr
  refine decoded rfl (row_call h _) ?_ hw
  simp (disch := decide) [decLink, encLink, rbWord]

theorem ret (h : Hdr) (a : SReg) : Statement (.ret h a) := by
  intro r hw hr; cases hr
  refine decoded rfl (row_ret h _) ?_ hw
  simp (disch := decide) [decS, encS, rsWord]

theorem loop (h : Hdr) (c : SReg) (off : BitVec 26) (slot : BitVec 3) : Statement (.loop h c off slot) := by
  intro r hw hr; cases hr
  refine decoded rfl (row_loop h _) ?_ hw
  simp (disch := decide) [decLink, encLink, rbWord]

theorem bkt (h : Hdr) (d a : SReg) (w : BitVec 3) (off : BitVec 17) : Statement (.bkt h d a w off) := by
  intro r hw hr; cases hr
  refine decoded rfl (row_bkt h _) ?_ hw
  simp (disch := decide) [decBkt, rkWord]

theorem endTask (h : Hdr) : Statement (.endTask h) := by
  intro r hw hr; cases hr
  refine decoded rfl (row_endTask h _) ?_ hw
  simp (disch := decide) [dec0, enc0, rsWord]

theorem yield (h : Hdr) : Statement (.yield h) := by
  intro r hw hr; cases hr
  refine decoded rfl (row_yield h _) ?_ hw
  simp (disch := decide) [dec0, enc0, rsWord]

theorem trap (h : Hdr) (imm : BitVec 32) : Statement (.trap h imm) := by
  intro r hw hr; cases hr
  refine decoded rfl (row_trap h _) ?_ hw
  simp (disch := decide) [decTrap, riWord]

theorem tret (h : Hdr) : Statement (.tret h) := by
  intro r hw hr; cases hr
  refine decoded rfl (row_tret h _) ?_ hw
  simp (disch := decide) [dec0, enc0, rsWord]

theorem nop (h : Hdr) : Statement (.nop h) := by
  intro r hw hr; cases hr
  refine decoded rfl (row_nop h _) ?_ hw
  simp (disch := decide) [dec0, enc0, rsWord]

theorem tkpost (h : Hdr) (sc : Scope) (q : TokQ) : Statement (.tkpost h sc q) := by
  intro r hw hr; cases hr
  refine decoded rfl (row_tkpost h _) ?_ hw
  simp (disch := decide) [decTok, encTok, scopeMod, rsWord]

theorem tkwait (h : Hdr) (sc : Scope) (q : TokQ) : Statement (.tkwait h sc q) := by
  intro r hw hr; cases hr
  refine decoded rfl (row_tkwait h _) ?_ hw
  simp (disch := decide) [decTok, encTok, scopeMod, rsWord]

theorem tkqry (h : Hdr) (d : SReg) (q : TokQ) : Statement (.tkqry h d q) := by
  intro r hw hr; cases hr
  refine decoded rfl (row_tkqry h _) ?_ hw
  simp (disch := decide) [decTkqry, rsWord]

theorem bar (h : Hdr) (sc : Scope) : Statement (.bar h sc) := by
  intro r hw hr; cases hr
  refine decoded rfl (row_bar h _) ?_ hw
  simp (disch := decide) [decBar, encTok, scopeMod, rsWord]

theorem cbar (h : Hdr) (sc : Scope) : Statement (.cbar h sc) := by
  intro r hw hr; cases hr
  refine decoded rfl (row_cbar h _) ?_ hw
  simp (disch := decide) [decBar, encTok, scopeMod, rsWord]

theorem fence (h : Hdr) (o : FenceOrd) (sc : Scope) : Statement (.fence h o sc) := by
  intro r hw hr; cases hr
  refine decoded rfl (row_fence h _) ?_ hw
  simp (disch := decide) [decFence, rsWord]

theorem ld (h : Hdr) (size : Size) (sx : Bool) (m : MemArg) (d : SReg) : Statement (.ld h size sx m d) := by
  intro r hw hr; cases hr
  refine decoded rfl (row_ld h _) ?_ hw
  simp (disch := decide) [decLd, memArg, encMem, rmWord]

theorem st (h : Hdr) (size : Size) (m : MemArg) (a : SReg) : Statement (.st h size m a) := by
  intro r hw hr; cases hr
  refine decoded rfl (row_st h _) ?_ hw
  simp (disch := decide) [decSt, memArg, encMem, rmWord]

theorem atom (h : Hdr) (op : AtomOp) (w8 : Bool) (m : MemArg) (d : SReg) : Statement (.atom h op w8 m d) := by
  intro r hw hr; cases hr
  refine decoded rfl (row_atom h _) ?_ hw
  simp (disch := decide) [decAtom, memArg, encMem, rmWord]

theorem red (h : Hdr) (op : AtomOp) (w8 : Bool) (m : MemArg) (a : SReg) : Statement (.red h op w8 m a) := by
  intro r hw hr; cases hr
  refine decoded rfl (row_red h _) ?_ hw
  simp (disch := decide) [decAtom, memArg, encMem, rmWord]

theorem pref (h : Hdr) (k : PrefKind) (m : LineArg) : Statement (.pref h k m) := by
  intro r hw hr; cases hr
  refine decoded rfl (row_pref h _) ?_ hw
  simp (disch := decide) [decPref, lineArg, encLine, rmWord]

theorem cmnt (h : Hdr) (k : CmntKind) (m : LineArg) : Statement (.cmnt h k m) := by
  intro r hw hr; cases hr
  refine decoded rfl (row_cmnt h _) ?_ hw
  simp (disch := decide) [decCmnt, lineArg, encLine, rmWord]

theorem vld (h : Hdr) (f : Fmt) (m : MemArg) (v : VReg) : Statement (.vld h f m v) := by
  intro r hw hr; cases hr
  refine decoded rfl (row_vld h _) ?_ hw
  simp (disch := decide) [decVmem, memArg, encMem, rmWord]

theorem vldScratchpad (h : Hdr) (f : Fmt) (v : VReg) (p : Pair) (r : SReg) : Statement (.vldScratchpad h f v p r) :=
    by
  intro r hw hr; cases hr
  refine decoded rfl (row_vldScratchpad h _) ?_ hw
  simp (disch := decide) [decVldSp, rsWord]

theorem vldAcc (h : Hdr) (trec : BitVec 3) (v : VReg) (p : Pair) (r : SReg) : Statement (.vldAcc h trec v p r) := by
  intro r hw hr; cases hr
  refine decoded rfl (row_vldAcc h _) ?_ hw
  simp (disch := decide) [decVldAcc, rsWord]

theorem vst (h : Hdr) (f : Fmt) (m : MemArg) (v : VReg) : Statement (.vst h f m v) := by
  intro r hw hr; cases hr
  refine decoded rfl (row_vst h _) ?_ hw
  simp (disch := decide) [decVmem, memArg, encMem, rmWord]

theorem vstScratchpad (h : Hdr) (f : Fmt) (p : Pair) (r : SReg) (v : VReg) : Statement (.vstScratchpad h f p r v) :=
    by
  intro r hw hr; cases hr
  refine decoded rfl (row_vstScratchpad h _) ?_ hw
  simp (disch := decide) [decVstSp, rsWord]

theorem vldx (h : Hdr) (x : GatherArg) : Statement (.vldx h x) := by
  intro r hw hr
  obtain ⟨v, b, ix, f, sc, al, sync⟩ := x
  cases sync <;> cases hr <;> refine decoded rfl (row_vldx h _) ?_ hw <;>
    simp (disch := decide) [decGather, gatherArg, encGather, rsWord]

theorem vstx (h : Hdr) (x : GatherArg) : Statement (.vstx h x) := by
  intro r hw hr
  obtain ⟨v, b, ix, f, sc, al, sync⟩ := x
  cases sync <;> cases hr <;> refine decoded rfl (row_vstx h _) ?_ hw <;>
    simp (disch := decide) [decGather, gatherArg, encGather, rsWord]

theorem vredx (h : Hdr) (op : RedxOp) (x : GatherArg) : Statement (.vredx h op x) := by
  intro r hw hr
  obtain ⟨v, b, ix, f, sc, al, sync⟩ := x
  cases sync <;> cases hr <;> refine decoded rfl (row_vredx h _) ?_ hw <;>
    simp (disch := decide) [decVredx, gatherArg, encGather, rsWord]

theorem tld (h : Hdr) (t : BlockArg) : Statement (.tld h t) := by
  intro r hw hr; cases hr
  refine decoded rfl (row_tld h _) ?_ hw
  simp (disch := decide) [decBlock, encBlock, rsWord]

theorem tldRows (h : Hdr) (t : RowArg) : Statement (.tldRows h t) := by
  intro r hw hr; cases hr
  refine decoded rfl (row_tldRows h _) ?_ hw
  simp (disch := decide) [decRows, encRows, rsWord]

theorem tldAdp (h : Hdr) (t : RowArg) : Statement (.tldAdp h t) := by
  intro r hw hr; cases hr
  refine decoded rfl (row_tldAdp h _) ?_ hw
  simp (disch := decide) [decRows, encRows, rsWord]

theorem tst (h : Hdr) (t : BlockArg) : Statement (.tst h t) := by
  intro r hw hr; cases hr
  refine decoded rfl (row_tst h _) ?_ hw
  simp (disch := decide) [decBlock, encBlock, rsWord]

theorem tscat (h : Hdr) (t : RowArg) : Statement (.tscat h t) := by
  intro r hw hr; cases hr
  refine decoded rfl (row_tscat h _) ?_ hw
  simp (disch := decide) [decRows, encRows, rsWord]

theorem scopy (h : Hdr) (k : BitVec 5) (d a b l c : SReg) : Statement (.scopy h k d a b l c) := by
  intro r hw hr; cases hr
  refine decoded rfl (row_scopy h _) ?_ hw
  simp (disch := decide) [decScopy, rsWord]

theorem rrot (h : Hdr) (dst src : Pair) (l : SReg) : Statement (.rrot h dst src l) := by
  intro r hw hr; cases hr
  refine decoded rfl (row_rrot h _) ?_ hw
  simp (disch := decide) [decRrot, rsWord]

theorem wld (h : Hdr) (w : WldArg) (a : SReg) : Statement (.wld h w a) := by
  intro r hw hr; cases hr
  refine decoded rfl (row_wld h _) ?_ hw
  simp (disch := decide) [decWld, rsWord]

theorem mma (h : Hdr) (m : MmaArg) : Statement (.mma h m) := by
  intro r hw hr; cases hr
  refine decoded rfl (row_mma h _) ?_ hw
  simp (disch := decide) [decMma, encMma, rsWord]

theorem mmas (h : Hdr) (m : MmaArg) : Statement (.mmas h m) := by
  intro r hw hr; cases hr
  refine decoded rfl (row_mmas h _) ?_ hw
  simp (disch := decide) [decMma, encMma, rsWord]

theorem mmag (h : Hdr) (m : MmagArg) : Statement (.mmag h m) := by
  intro r hw hr; cases hr
  refine decoded rfl (row_mmag h _) ?_ hw
  simp (disch := decide) [decMmag, rsWord]

theorem mzero (h : Hdr) (w32 : Bool) (trec : BitVec 3) (acc : Pair) (p : SReg) : Statement (.mzero h w32 trec acc p)
    := by
  intro r hw hr; cases hr
  refine decoded rfl (row_mzero h _) ?_ hw
  simp (disch := decide) [decMzero, rsWord]

theorem mstat (h : Hdr) (trec : BitVec 3) (d : SReg) : Statement (.mstat h trec d) := by
  intro r hw hr; cases hr
  refine decoded rfl (row_mstat h _) ?_ hw
  simp (disch := decide) [decMstat, rsWord]

theorem vadd (h : Hdr) (m : VMod) (d a : VReg) (b : VSrc) : Statement (.vadd h m d a b) := by
  intro r hw hr; cases hr
  refine decoded rfl (row_vadd h _) ?_ hw
  simp (disch := decide) [decV3, vField, encV, vMods, rsWord]

theorem vsub (h : Hdr) (m : VMod) (d a : VReg) (b : VSrc) : Statement (.vsub h m d a b) := by
  intro r hw hr; cases hr
  refine decoded rfl (row_vsub h _) ?_ hw
  simp (disch := decide) [decV3, vField, encV, vMods, rsWord]

theorem vmul (h : Hdr) (m : VMod) (d a : VReg) (b : VSrc) : Statement (.vmul h m d a b) := by
  intro r hw hr; cases hr
  refine decoded rfl (row_vmul h _) ?_ hw
  simp (disch := decide) [decV3, vField, encV, vMods, rsWord]

theorem vfma (h : Hdr) (m : VMod) (d a : VReg) (b c : VSrc) : Statement (.vfma h m d a b c) := by
  intro r hw hr; cases hr
  refine decoded rfl (row_vfma h _) ?_ hw
  simp (disch := decide) [decVfma, vField, encV, vMods, rsWord]

theorem vmin (h : Hdr) (m : VMod) (d a : VReg) (b : VSrc) : Statement (.vmin h m d a b) := by
  intro r hw hr; cases hr
  refine decoded rfl (row_vmin h _) ?_ hw
  simp (disch := decide) [decV3, vField, encV, vMods, rsWord]

theorem vmax (h : Hdr) (m : VMod) (d a : VReg) (b : VSrc) : Statement (.vmax h m d a b) := by
  intro r hw hr; cases hr
  refine decoded rfl (row_vmax h _) ?_ hw
  simp (disch := decide) [decV3, vField, encV, vMods, rsWord]

theorem vabs (h : Hdr) (m : VMod) (d a : VReg) : Statement (.vabs h m d a) := by
  intro r hw hr; cases hr
  refine decoded rfl (row_vabs h _) ?_ hw
  simp (disch := decide) [decV2, vField, encV, vMods, rsWord]

theorem vneg (h : Hdr) (m : VMod) (d a : VReg) : Statement (.vneg h m d a) := by
  intro r hw hr; cases hr
  refine decoded rfl (row_vneg h _) ?_ hw
  simp (disch := decide) [decV2, vField, encV, vMods, rsWord]

theorem vand (h : Hdr) (m : VMod) (d a : VReg) (b : VSrc) : Statement (.vand h m d a b) := by
  intro r hw hr; cases hr
  refine decoded rfl (row_vand h _) ?_ hw
  simp (disch := decide) [decV3, vField, encV, vMods, rsWord]

theorem vor (h : Hdr) (m : VMod) (d a : VReg) (b : VSrc) : Statement (.vor h m d a b) := by
  intro r hw hr; cases hr
  refine decoded rfl (row_vor h _) ?_ hw
  simp (disch := decide) [decV3, vField, encV, vMods, rsWord]

theorem vxor (h : Hdr) (m : VMod) (d a : VReg) (b : VSrc) : Statement (.vxor h m d a b) := by
  intro r hw hr; cases hr
  refine decoded rfl (row_vxor h _) ?_ hw
  simp (disch := decide) [decV3, vField, encV, vMods, rsWord]

theorem vshl (h : Hdr) (m : VMod) (d a : VReg) (b : VSrc) : Statement (.vshl h m d a b) := by
  intro r hw hr; cases hr
  refine decoded rfl (row_vshl h _) ?_ hw
  simp (disch := decide) [decV3, vField, encV, vMods, rsWord]

theorem vshr (h : Hdr) (m : VMod) (d a : VReg) (b : VSrc) : Statement (.vshr h m d a b) := by
  intro r hw hr; cases hr
  refine decoded rfl (row_vshr h _) ?_ hw
  simp (disch := decide) [decV3, vField, encV, vMods, rsWord]

theorem vcmp (h : Hdr) (c : VCond) (m : VMod) (q : QReg) (a : VReg) (b : VSrc) : Statement (.vcmp h c m q a b) := by
  intro r hw hr; cases hr
  refine decoded rfl (row_vcmp h _) ?_ hw
  simp (disch := decide) [decVcmp, vField, encV, vMods, rsWord]

theorem vsel (h : Hdr) (m : VMod) (d a b : VReg) (q : QReg) : Statement (.vsel h m d a b q) := by
  intro r hw hr; cases hr
  refine decoded rfl (row_vsel h _) ?_ hw
  simp (disch := decide) [decVsel, vField, encV, vMods, rsWord]

theorem vpcnt (h : Hdr) (x : PcntArg) : Statement (.vpcnt h x) := by
  intro r hw hr
  cases x <;> cases hr <;> refine decoded rfl (row_vpcnt h _) ?_ hw <;>
    simp (disch := decide) [decVpcnt, fmtOnly, vField, encV, vMods, rsWord]

theorem vbtst (h : Hdr) (m : VMod) (q : QReg) (a : VReg) (b : VSrc) : Statement (.vbtst h m q a b) := by
  intro r hw hr; cases hr
  refine decoded rfl (row_vbtst h _) ?_ hw
  simp (disch := decide) [decVbtst, vField, encV, vMods, rsWord]

theorem vred (h : Hdr) (op : RedOp) (m : VMod) (d a : VReg) : Statement (.vred h op m d a) := by
  intro r hw hr; cases hr
  refine decoded rfl (row_vred h _) ?_ hw
  simp (disch := decide) [decRed, vField, encV, vMods, rsWord]

theorem vscan (h : Hdr) (op : RedOp) (m : VMod) (d a : VReg) : Statement (.vscan h op m d a) := by
  intro r hw hr; cases hr
  refine decoded rfl (row_vscan h _) ?_ hw
  simp (disch := decide) [decRed, vField, encV, vMods, rsWord]

theorem vcvt (h : Hdr) (df : Fmt) (m : VMod) (d a : VReg) : Statement (.vcvt h df m d a) := by
  intro r hw hr; cases hr
  refine decoded rfl (row_vcvt h _) ?_ hw
  simp (disch := decide) [decVcvt, vField, encV, vMods, rsWord]

theorem vpack (h : Hdr) (od : Bool) (m : VMod) (d a b : VReg) : Statement (.vpack h od m d a b) := by
  intro r hw hr; cases hr
  refine decoded rfl (row_vpack h _) ?_ hw
  simp (disch := decide) [decPack, vField, encV, vMods, rsWord]

theorem vunpk (h : Hdr) (hi : Bool) (m : VMod) (d a b : VReg) : Statement (.vunpk h hi m d a b) := by
  intro r hw hr; cases hr
  refine decoded rfl (row_vunpk h _) ?_ hw
  simp (disch := decide) [decPack, vField, encV, vMods, rsWord]

theorem vsfn (h : Hdr) (fn : Sfn) (m : VMod) (d a : VReg) : Statement (.vsfn h fn m d a) := by
  intro r hw hr; cases hr
  refine decoded rfl (row_vsfn h _) ?_ hw
  simp (disch := decide) [decVsfn, vField, encV, vMods, rsWord]

theorem vperm (h : Hdr) (m : VMod) (d a x : VReg) : Statement (.vperm h m d a x) := by
  intro r hw hr; cases hr
  refine decoded rfl (row_vperm h _) ?_ hw
  simp (disch := decide) [decVperm, vField, encV, vMods, rsWord]

theorem vbcast (h : Hdr) (m : VMod) (x : BcastArg) : Statement (.vbcast h m x) := by
  intro r hw hr
  cases x <;> cases hr <;> refine decoded rfl (row_vbcast h _) ?_ hw <;>
    simp (disch := decide) [decVbcast, vField, encV, vMods, rsWord]

theorem vidx (h : Hdr) (m : VMod) (d : VReg) (a b : SReg) : Statement (.vidx h m d a b) := by
  intro r hw hr; cases hr
  refine decoded rfl (row_vidx h _) ?_ hw
  simp (disch := decide) [decVidx, vField, encV, vMods, rsWord]

theorem vmovs (h : Hdr) (x : MovsArg) : Statement (.vmovs h x) := by
  intro r hw hr
  cases x <;> cases hr <;> refine decoded rfl (row_vmovs h _) ?_ hw <;>
    simp (disch := decide) [decVmovs, fmtOnly, vField, encV, vMods, rsWord]

theorem vcprs (h : Hdr) (m : VMod) (d a : VReg) : Statement (.vcprs h m d a) := by
  intro r hw hr; cases hr
  refine decoded rfl (row_vcprs h _) ?_ hw
  simp (disch := decide) [decV2, vField, encV, vMods, rsWord]

theorem vxpnd (h : Hdr) (m : VMod) (d a : VReg) : Statement (.vxpnd h m d a) := by
  intro r hw hr; cases hr
  refine decoded rfl (row_vxpnd h _) ?_ hw
  simp (disch := decide) [decV2, vField, encV, vMods, rsWord]

theorem qand (h : Hdr) (na nb nd : Bool) (d a b : QReg) : Statement (.qand h na nb nd d a b) := by
  intro r hw hr; cases hr
  refine decoded rfl (row_qand h _) ?_ hw
  simp (disch := decide) [decQ3, encQ, rsWord]

theorem qor (h : Hdr) (na nb nd : Bool) (d a b : QReg) : Statement (.qor h na nb nd d a b) := by
  intro r hw hr; cases hr
  refine decoded rfl (row_qor h _) ?_ hw
  simp (disch := decide) [decQ3, encQ, rsWord]

theorem qnot (h : Hdr) (d a : QReg) : Statement (.qnot h d a) := by
  intro r hw hr; cases hr
  refine decoded rfl (row_qnot h _) ?_ hw
  simp (disch := decide) [decQnot, encQ, rsWord]

theorem tsub (h : Hdr) (d a c : SReg) : Statement (.tsub h d a c) := by
  intro r hw hr; cases hr
  refine decoded rfl (row_tsub h _) ?_ hw
  simp (disch := decide) [decSSS, encSSS, rsWord]

theorem tcan (h : Hdr) (all : Bool) (d hd i : SReg) : Statement (.tcan h all d hd i) := by
  intro r hw hr; cases hr
  refine decoded rfl (row_tcan h _) ?_ hw
  simp (disch := decide) [decTcan, uBit, encSSS, rsWord]

theorem dqpush (h : Hdr) (d a : SReg) : Statement (.dqpush h d a) := by
  intro r hw hr; cases hr
  refine decoded rfl (row_dqpush h _) ?_ hw
  simp (disch := decide) [decSS, encSS, rsWord]

theorem dqpop (h : Hdr) (d e : SReg) : Statement (.dqpop h d e) := by
  intro r hw hr; cases hr
  refine decoded rfl (row_dqpop h _) ?_ hw
  simp (disch := decide) [decSS, encSS, rsWord]

theorem dqstl (h : Hdr) (d e : SReg) (v : Option SReg) : Statement (.dqstl h d e v) := by
  intro r hw hr
  cases v <;> cases hr <;> refine decoded rfl (row_dqstl h _) ?_ hw <;>
    simp (disch := decide) [decDqstl, rsWord, encSSS]

theorem watch (h : Hdr) (d a : SReg) : Statement (.watch h d a) := by
  intro r hw hr; cases hr
  refine decoded rfl (row_watch h _) ?_ hw
  simp (disch := decide) [decSS, encSS, rsWord]

theorem unwatch (h : Hdr) (d a : SReg) : Statement (.unwatch h d a) := by
  intro r hw hr; cases hr
  refine decoded rfl (row_unwatch h _) ?_ hw
  simp (disch := decide) [decSS, encSS, rsWord]

theorem resq (h : Hdr) (sum : Bool) (d a b : SReg) : Statement (.resq h sum d a b) := by
  intro r hw hr; cases hr
  refine decoded rfl (row_resq h _) ?_ hw
  simp (disch := decide) [decResq, uBit, encSSS, rsWord]

theorem carve (h : Hdr) (d a : SReg) : Statement (.carve h d a) := by
  intro r hw hr; cases hr
  refine decoded rfl (row_carve h _) ?_ hw
  simp (disch := decide) [decSS, encSS, rsWord]

theorem sysrd (h : Hdr) (d : SReg) (r : SysReg) : Statement (.sysrd h d r) := by
  intro r hw hr; cases hr
  refine decoded rfl (row_sysrd h _) ?_ hw
  simp (disch := decide) [decSysrd, riWord]

theorem syswr (h : Hdr) (r : SysReg) (a : SReg) : Statement (.syswr h r a) := by
  intro r hw hr; cases hr
  refine decoded rfl (row_syswr h _) ?_ hw
  simp (disch := decide) [decSyswr, riWord]

theorem tlbinv (h : Hdr) (s2 all : Bool) (a b c : SReg) : Statement (.tlbinv h s2 all a b c) := by
  intro r hw hr; cases hr
  refine decoded rfl (row_tlbinv h _) ?_ hw
  simp (disch := decide) [decTlbinv, encSSS, rsWord]

theorem psdone (h : Hdr) (a : SReg) (imm : BitVec 32) : Statement (.psdone h a imm) := by
  intro r hw hr; cases hr
  refine decoded rfl (row_psdone h _) ?_ hw
  simp (disch := decide) [decPsdone, riWord]

theorem rdcnt (h : Hdr) (d : SReg) (n : BitVec 32) : Statement (.rdcnt h d n) := by
  intro r hw hr; cases hr
  refine decoded rfl (row_rdcnt h _) ?_ hw
  simp (disch := decide) [decRdcnt, riWord]

theorem rdtime (h : Hdr) (d : SReg) : Statement (.rdtime h d) := by
  intro r hw hr; cases hr
  refine decoded rfl (row_rdtime h _) ?_ hw
  simp (disch := decide) [decS, encS, rsWord]

theorem notify (h : Hdr) (d a : SReg) : Statement (.notify h d a) := by
  intro r hw hr; cases hr
  refine decoded rfl (row_notify h _) ?_ hw
  simp (disch := decide) [decSS, encSS, rsWord]

theorem tokenPost (q : SeqId) : Statement (.tokenPost q) := by
  intro r _ hr; cases hr

theorem instructionComplete (q : SeqId) (k : Nat) : Statement (.instructionComplete q k) := by
  intro r _ hr; cases hr

theorem transferComplete (q : SeqId) (k : Nat) : Statement (.transferComplete q k) := by
  intro r _ hr; cases hr

theorem wldFillComplete (c : CtxId) (ws : Bool) : Statement (.wldFillComplete c ws) := by
  intro r _ hr; cases hr

theorem matrixComplete (c : CtxId) : Statement (.matrixComplete c) := by
  intro r _ hr; cases hr

theorem rrotComplete (c : CtxId) : Statement (.rrotComplete c) := by
  intro r _ hr; cases hr

theorem watchdogTrap (c : CtxId) : Statement (.watchdogTrap c) := by
  intro r _ hr; cases hr

theorem tsubQueueEntry (c : CtxId) : Statement (.tsubQueueEntry c) := by
  intro r _ hr; cases hr

theorem dependencesMet (p : BitVec 4) (seq : BitVec 48) : Statement (.dependencesMet p seq) := by
  intro r _ hr; cases hr

theorem taskRoute (p : BitVec 4) (seq : BitVec 48) (ix : Nat) : Statement (.taskRoute p seq ix) := by
  intro r _ hr; cases hr

theorem weirTestCycle (die : BitVec 2) : Statement (.weirTestCycle die) := by
  intro r _ hr; cases hr

theorem buntingStart (die : BitVec 2) : Statement (.buntingStart die) := by
  intro r _ hr; cases hr

theorem taskDispatch (p : BitVec 4) (seq : BitVec 48) (ix : Nat) : Statement (.taskDispatch p seq ix) := by
  intro r _ hr; cases hr

theorem gangDispatch (p : BitVec 4) (seq : BitVec 48) (gang : Nat) : Statement (.gangDispatch p seq gang) := by
  intro r _ hr; cases hr

theorem contextRetire (c : CtxId) : Statement (.contextRetire c) := by
  intro r _ hr; cases hr

theorem launchCommit (p : BitVec 4) (seq : BitVec 48) : Statement (.launchCommit p seq) := by
  intro r _ hr; cases hr

theorem heldFireSubmit (k : Nat) : Statement (.heldFireSubmit k) := by
  intro r _ hr; cases hr

theorem faultQueueJoin (k : Nat) : Statement (.faultQueueJoin k) := by
  intro r _ hr; cases hr

theorem sideLogReplay (core : Nat) (k : Nat) : Statement (.sideLogReplay core k) := by
  intro r _ hr; cases hr

theorem fltresRetry (c : CtxId) (s2 : Bool) (token : BitVec 8) : Statement (.fltresRetry c s2 token) := by
  intro r _ hr; cases hr

theorem fltresAbandon (c : CtxId) (s2 : Bool) (token : BitVec 8) : Statement (.fltresAbandon c s2 token) := by
  intro r _ hr; cases hr

theorem fltqRead (q : SeqId) (d : SReg) : Statement (.fltqRead q d) := by
  intro r _ hr; cases hr

theorem fltq2Read (q : SeqId) (d : SReg) : Statement (.fltq2Read q d) := by
  intro r _ hr; cases hr

theorem sublogRead (q : SeqId) (d : SReg) : Statement (.sublogRead q d) := by
  intro r _ hr; cases hr

theorem parklogRead (q : SeqId) (d : SReg) : Statement (.parklogRead q d) := by
  intro r _ hr; cases hr

theorem audlogRead (q : SeqId) (d : SReg) : Statement (.audlogRead q d) := by
  intro r _ hr; cases hr

theorem fablogRead (q : SeqId) (d : SReg) : Statement (.fablogRead q d) := by
  intro r _ hr; cases hr

theorem sweep (die : BitVec 2) : Statement (.sweep die) := by
  intro r _ hr; cases hr

theorem scrubPage (die : BitVec 2) : Statement (.scrubPage die) := by
  intro r _ hr; cases hr

theorem pgmap (p : BitVec 4) (v : Word) : Statement (.pgmap p v) := by
  intro r _ hr; cases hr

theorem pgmapPageTaken (p : BitVec 4) : Statement (.pgmapPageTaken p) := by
  intro r _ hr; cases hr

theorem pgunmap (p : BitVec 4) (v : Word) : Statement (.pgunmap p v) := by
  intro r _ hr; cases hr

theorem pgfree (v : Word) : Statement (.pgfree v) := by
  intro r _ hr; cases hr

theorem cvadmit (c : CtxId) (v : Word) : Statement (.cvadmit c v) := by
  intro r _ hr; cases hr

theorem codeVaultAdmissionEnd : Statement (.codeVaultAdmissionEnd) := by
  intro r _ hr; cases hr

theorem cvwd1 (v : Word) : Statement (.cvwd1 v) := by
  intro r _ hr; cases hr

theorem vload (v : Word) : Statement (.vload v) := by
  intro r _ hr; cases hr

theorem shardTimeout (n : Nat) : Statement (.shardTimeout n) := by
  intro r _ hr; cases hr

theorem burgeeSend : Statement (.burgeeSend) := by
  intro r _ hr; cases hr

theorem burgeedst (v : Word) : Statement (.burgeedst v) := by
  intro r _ hr; cases hr

theorem weircfgHeight (die : BitVec 2) (v : BitVec 9) : Statement (.weircfgHeight die v) := by
  intro r _ hr; cases hr

theorem vaultcfgSize (die : BitVec 2) (v : BitVec 8) : Statement (.vaultcfgSize die v) := by
  intro r _ hr; cases hr

theorem rnpool (p : BitVec 4) (v : Word) : Statement (.rnpool p v) := by
  intro r _ hr; cases hr

theorem preqSaveContext (c : CtxId) : Statement (.preqSaveContext c) := by
  intro r _ hr; cases hr

theorem preqSavePolder (p : BitVec 4) : Statement (.preqSavePolder p) := by
  intro r _ hr; cases hr

theorem preqPartitionSwap (p q : BitVec 4) : Statement (.preqPartitionSwap p q) := by
  intro r _ hr; cases hr

theorem preqRestorePolder (p : BitVec 4) : Statement (.preqRestorePolder p) := by
  intro r _ hr; cases hr

theorem forcedSave (c : CtxId) : Statement (.forcedSave c) := by
  intro r _ hr; cases hr

theorem contextRestore (c : CtxId) : Statement (.contextRestore c) := by
  intro r _ hr; cases hr

theorem swapExchange : Statement (.swapExchange) := by
  intro r _ hr; cases hr

theorem uncorrectableError (site : ErrSite) : Statement (.uncorrectableError site) := by
  intro r _ hr; cases hr

theorem dieLinkFailure (a b : Nat) : Statement (.dieLinkFailure a b) := by
  intro r _ hr; cases hr

theorem auditReplay (k core : Nat) (wrong : Word) : Statement (.auditReplay k core wrong) := by
  intro r _ hr; cases hr

theorem suspectClr (core : Nat) : Statement (.suspectClr core) := by
  intro r _ hr; cases hr

theorem suspectQuar (core : Nat) (on : Bool) : Statement (.suspectQuar core on) := by
  intro r _ hr; cases hr

theorem leveeClosing (n : BitVec 14) : Statement (.leveeClosing n) := by
  intro r _ hr; cases hr

theorem leveeCloseComplete (n : BitVec 14) : Statement (.leveeCloseComplete n) := by
  intro r _ hr; cases hr

theorem leveeOpen (n : BitVec 14) : Statement (.leveeOpen n) := by
  intro r _ hr; cases hr

theorem regionDetach (n : BitVec 14) : Statement (.regionDetach n) := by
  intro r _ hr; cases hr

theorem poolLinkDown (port : BitVec 2) : Statement (.poolLinkDown port) := by
  intro r _ hr; cases hr

theorem poolCompletionTimeout (port : BitVec 2) : Statement (.poolCompletionTimeout port) := by
  intro r _ hr; cases hr

theorem poolIdeLoss (port : BitVec 2) : Statement (.poolIdeLoss port) := by
  intro r _ hr; cases hr

theorem viralIndication (port : BitVec 2) : Statement (.viralIndication port) := by
  intro r _ hr; cases hr

theorem backInvalidationSnoop (k : Snoop) (addr : Nat) :
    Statement (.backInvalidationSnoop k addr) := by
  intro r _ hr; cases hr

theorem readRequest (port : Nat) (p : Packet) : Statement (.readRequest port p) := by
  intro r _ hr; cases hr

theorem writeRequest (port : Nat) (p : Packet) : Statement (.writeRequest port p) := by
  intro r _ hr; cases hr

theorem atomicRequest (port : Nat) (p : Packet) : Statement (.atomicRequest port p) := by
  intro r _ hr; cases hr

theorem readResponse (port : Nat) (p : Packet) : Statement (.readResponse port p) := by
  intro r _ hr; cases hr

theorem writeAcknowledgement (port : Nat) (p : Packet) : Statement (.writeAcknowledgement port p) := by
  intro r _ hr; cases hr

theorem errorResponse (port : Nat) (p : Packet) : Statement (.errorResponse port p) := by
  intro r _ hr; cases hr

theorem shard (port : Nat) (p : Packet) : Statement (.shard port p) := by
  intro r _ hr; cases hr

theorem shardRequest (port : Nat) (p : Packet) : Statement (.shardRequest port p) := by
  intro r _ hr; cases hr

theorem burgee (port : Nat) (p : Packet) : Statement (.burgee port p) := by
  intro r _ hr; cases hr

theorem fabricRequestTimeout (rtag : Word) : Statement (.fabricRequestTimeout rtag) := by
  intro r _ hr; cases hr

theorem fabricAckTimeout (port : Nat) : Statement (.fabricAckTimeout port) := by
  intro r _ hr; cases hr

theorem fabricLinkDown (port : Nat) : Statement (.fabricLinkDown port) := by
  intro r _ hr; cases hr

theorem commonsMeteringPeriod : Statement (.commonsMeteringPeriod) := by
  intro r _ hr; cases hr

theorem qosWindow : Statement (.qosWindow) := by
  intro r _ hr; cases hr

theorem atomicCredit : Statement (.atomicCredit) := by
  intro r _ hr; cases hr

theorem pdctlConfigure (p : BitVec 4) : Statement (.pdctlConfigure p) := by
  intro r _ hr; cases hr

theorem pdctlActivate (p : BitVec 4) (v : Word) : Statement (.pdctlActivate p v) := by
  intro r _ hr; cases hr

theorem pdctlDestroy (p : BitVec 4) : Statement (.pdctlDestroy p) := by
  intro r _ hr; cases hr

theorem polderDestroyComplete (p : BitVec 4) : Statement (.polderDestroyComplete p) := by
  intro r _ hr; cases hr

theorem commons (k : BitVec 2) (v : Word) : Statement (.commons k v) := by
  intro r _ hr; cases hr

theorem keyctlGenerate (k : BitVec 5) : Statement (.keyctlGenerate k) := by
  intro r _ hr; cases hr

theorem keyctlErase (k : BitVec 5) : Statement (.keyctlErase k) := by
  intro r _ hr; cases hr

theorem sealld (c : CtxId) (v : Word) : Statement (.sealld c v) := by
  intro r _ hr; cases hr

theorem mkey (v : Word) : Statement (.mkey v) := by
  intro r _ hr; cases hr

theorem bootrec (v : Word) : Statement (.bootrec v) := by
  intro r _ hr; cases hr

theorem hostBar2Access (fn : BitVec 4) (off : BarPlace) (size : Nat) (data : Option (List Byte)) :
    Statement (.hostBar2Access fn off size data) := by
  intro r _ hr; cases hr

theorem msixUnmask (fn : BitVec 4) (vec : Nat) : Statement (.msixUnmask fn vec) := by
  intro r _ hr; cases hr

theorem configurationRequest : Statement (.configurationRequest) := by
  intro r _ hr; cases hr

theorem getTdispVersion (fn : BitVec 4) : Statement (.getTdispVersion fn) := by
  intro r _ hr; cases hr

theorem getTdispCapabilities (fn : BitVec 4) : Statement (.getTdispCapabilities fn) := by
  intro r _ hr; cases hr

theorem lockInterfaceRequest (fn : BitVec 4) : Statement (.lockInterfaceRequest fn) := by
  intro r _ hr; cases hr

theorem getDeviceInterfaceReport (fn : BitVec 4) : Statement (.getDeviceInterfaceReport fn) := by
  intro r _ hr; cases hr

theorem getDeviceInterfaceState (fn : BitVec 4) : Statement (.getDeviceInterfaceState fn) := by
  intro r _ hr; cases hr

theorem startInterfaceRequest (fn : BitVec 4) : Statement (.startInterfaceRequest fn) := by
  intro r _ hr; cases hr

theorem stopInterfaceRequest (fn : BitVec 4) : Statement (.stopInterfaceRequest fn) := by
  intro r _ hr; cases hr

theorem negotiateAlgorithms (offered : List Bool) : Statement (.negotiateAlgorithms offered) := by
  intro r _ hr; cases hr

theorem getMeasurements (slot : Nat) (index : Nat) (signed : Bool) : Statement (.getMeasurements slot index signed)
    := by
  intro r _ hr; cases hr

theorem ideKm (stream : Nat) : Statement (.ideKm stream) := by
  intro r _ hr; cases hr

theorem ideIntegrityFailure (stream : Nat) : Statement (.ideIntegrityFailure stream) := by
  intro r _ hr; cases hr

theorem moduleReset : Statement (.moduleReset) := by
  intro r _ hr; cases hr

theorem powerLoss : Statement (.powerLoss) := by
  intro r _ hr; cases hr

theorem thermalWarning (die : Nat) : Statement (.thermalWarning die) := by
  intro r _ hr; cases hr

theorem thermalTrip (die : Nat) : Statement (.thermalTrip die) := by
  intro r _ hr; cases hr

theorem firmwareUpdate (version : Nat) (image : List Byte) (signature : List Byte) : Statement (.firmwareUpdate
    version image signature) := by
  intro r _ hr; cases hr

theorem poolLinkActive (port : BitVec 2) (narrow slow : Bool) : Statement (.poolLinkActive port narrow slow) := by
  intro r _ hr; cases hr

theorem sweepComplete (die : BitVec 2) : Statement (.sweepComplete die) := by
  intro r _ hr; cases hr

theorem spdmSecuredSession (slot : Nat) : Statement (.spdmSecuredSession slot) := by
  intro r _ hr; cases hr

theorem otherPacketType (port : Nat) (p : Packet) : Statement (.otherPacketType port p) := by
  intro r _ hr; cases hr

end Sys2Proof.Laws.Fields
end

