-- ==== Sys2Proof/Tests/Slice0.lean ====
section
/-! SUPPORT. Tests of the decoder and of check 1, and for each statement of Certificates/Slice0/Obligations.lean states and
operands that meet its hypotheses. Each expected word and number comes from the spec: the rule stands in the docstring. -/

namespace Sys2Proof.Tests

open Machine

-- One proof after another: many at once would each hold a thread's stack.
set_option Elab.async false

/-- Issues as a check that computes. -/
def issuesB (s : State) (c : Ctx) (i : Instr) (h : Hdr) (seqs : List Seqr) : Bool :=
  decide (getCtx s (ctxOf s.cur) = some c) && c.canIssue s.cur.seq && decide (c.lateTrap s.cur.seq = none) && checkOne i
    && seqs.contains s.cur.seq && waitsAt h.wq.toNat s.cur.seq && postsFrom h.pq.toNat s.cur.seq && c.waitOk s.cur.seq h
    && !c.busyReg s.cur.seq (scalarRegs i) && c.guardsHold s.cur.seq h

theorem issues_iff {s : State} {c : Ctx} {i : Instr} {h : Hdr} {seqs : List Seqr} :
    issuesB s c i h seqs = true ↔ Issues s c i h seqs := by
  constructor
  · intro H
    simp only [issuesB, Bool.and_eq_true, decide_eq_true_eq, Bool.not_eq_true'] at H
    obtain ⟨⟨⟨⟨⟨⟨⟨⟨⟨h1, h2⟩, h3⟩, h4⟩, h5⟩, h6⟩, h7⟩, h8⟩, h9⟩, h10⟩ := H
    exact ⟨h1, h2, h3, h4, h5, h6, h7, h8, h9, h10⟩
  · rintro ⟨h1, h2, h3, h4, h5, h6, h7, h8, h9, h10⟩
    simp only [issuesB, Bool.and_eq_true, decide_eq_true_eq, Bool.not_eq_true']
    exact ⟨⟨⟨⟨⟨⟨⟨⟨⟨h1, h2⟩, h3⟩, h4⟩, h5⟩, h6⟩, h7⟩, h8⟩, h9⟩, h10⟩

/-- An unguarded header without wait and post. -/
def plain : Hdr := { gai := false, ga := 0, gbi := false, gb := 0, wq := 0, pq := 0, hint := 0, yld := false }

/-- The boot context with some scalar registers of one sequencer set. -/
def ctxWith (q : Seqr) (rs : List (SReg × Word)) : Ctx := rs.foldl (fun c r => c.wS q r.1 r.2) (bootCtx q)

/-- The machine after start-up with one context, whose sequencer q has the turn. -/
def machine (c : Ctx) (q : Seqr) : State :=
  { State.reset with startup := 5, ctxs := [c], cur := { core := c.id.core, slot := c.id.slot, seq := q } }


/-! The decoder: words written out field by field from R94, R99 and the class of the opcode -/

/-- R94, the spec's own example: ADDI s7, s33, −16 with both guards, WQ 3 and PQ 11. -/
theorem test_decode_addi :
    decodeTableWord 96 0x004753B00721FFFFFFF00000 = some (.addi { plain with ga := 3, gbi := true, gb := 5, wq := 3, pq := 11 } 7 33 0xFFFFFFF0) := by decide +kernel

/-- R353: LD of 8 bytes at s5 with acquire at device scope. -/
theorem test_decode_ld :
    decodeTableWord 96 0x4000000006050000000011C0 = some (.ld plain .d false { base := 5, idx := 0, off := 0, al := 0, sc := .dev, ord := .acq } 6) := by decide +kernel

/-- R340: CALL s5 over one line, slot 0. -/
theorem test_decode_call : decodeTableWord 96 0x208000000500000040000000 = some (.call plain 5 1 0) := by decide +kernel

/-- R343: CBAR at cluster scope. -/
theorem test_decode_cbar : decodeTableWord 96 0x250000000000000000400000 = some (.cbar plain .cluster) := by decide +kernel

/-- R391: TLD posting to queue 2. -/
theorem test_decode_tld :
    decodeTableWord 96 0x60000020C107040500000000 = some (.tld { plain with pq := 2 }
          { sp := 1, b := 7, p := 4, g := 5, sc := .ctx, win := false, pad := false, ch := .flat }) := by decide +kernel

/-- R375: SCOPY under key slot 6. -/
theorem test_decode_scopy : decodeTableWord 96 0x610000001415161718000006 = some (.scopy plain 6 20 21 22 23 24) := by decide +kernel

/-- R358: MMA of an E4M3 register group and a W4G48 tile. -/
theorem test_decode_mma :
    decodeTableWord 96 0x80000150D440000000500800 = some (.mma { plain with wq := 1, pq := 5 }
          { acc := 20, a := .group 0, trec := 2, ws := true, af := .e4m3, wf := .w4g48, form := .dense, kx := 1, re := 0
            ce := 0 }) := by decide +kernel

/-- R402: VADD.bf16.rne. -/
theorem test_decode_vadd :
    decodeTableWord 96 0xA00000004142430000110000 = some (.vadd plain { fmt := .bf16, rm := .rne, sat := false, pz := false, lane := none } 1 2 (.v 3)) := by
  decide +kernel

/-- R99, R370: opcode 0x30C, predicates 1 and 2. -/
theorem test_decode_qnot : decodeTableWord 96 0xC30000008182000000000000 = some (.qnot plain 1 2) := by decide +kernel

/-- R398: opcode 0x380, scalars 5, 6 and 7. -/
theorem test_decode_tsub : decodeTableWord 96 0xE00000000506070000000000 = some (.tsub plain 5 6 7) := by decide +kernel

/-- Why a word is refused. -/
def refusal (w : InstrWord) : Option DecodeErr := match decode w with | .error e => some e | .ok _ => none

/-- R94: bit 64 must be 0. R314: opcode 0x000. R99: a pair of number 0 (R391). R325: ADD leaves its modifier bits 0. -/
theorem test_decode_refuses :
    refusal 0x004753B10721FFFFFFF00000#96 = some .reservedBit ∧ refusal 0#96 = some .unassigned
      ∧ (refusal 0x60000020C007040500000000#96).isSome ∧ (refusal 0x008000000506070000000002#96).isSome := by
  decide +kernel

/-- One ill-formed term for each check of Check.lean. -/
theorem test_ill_formed :
    let m (o : MOrd) : MemArg := { base := 1, idx := 0, off := 0, al := 0, sc := .ctx, ord := o }
    let v (f : Fmt) (r : Round) (sat pz : Bool) (l : Option QReg) : VMod := { fmt := f, rm := r, sat := sat, pz := pz, lane := l }
    let g (f : Fmt) (ix : VReg) : GatherArg := { v := 1, base := 1, ix := ix, fmt := f, sc := .ctx, al := 0, sync := false }
    let w : MmaArg := { acc := 2, a := .group 0, trec := 0, ws := false, af := .e4m3, wf := .w4g48, form := .dense, kx := 0, re := 0, ce := 0 }
    let x : MmagArg := { acc := 2, a := .group 0, adp := 3, trec := 0, up := false, af := .bf16, nm1 := 0, as := 0, re := 0, ce := 0 }
    ∀ i ∈ [ -- R70, R95: a queue code of 13
            Instr.add { plain with wq := 13 } 1 1 1, .nop { plain with pq := 15 }
            -- R334: a field that leaves the word
          , .bfx plain false 1 1 32 32, .bfi plain 1 1 1 63 1
            -- R364: MOVI reads a register only in its mode .hi
          , .movi plain .zx 1 1 0
            -- R357: LOOP of s0
          , .loop plain 0 0 0
            -- R397, R389: TRET without wait and post; TKPOST without post, TKWAIT without wait, and a queue of 1 to 12
          , .tret { plain with wq := 1 }, .tkpost { plain with pq := 1 } .ctx 1, .tkwait { plain with wq := 1 } .ctx 1
          , .tkqry plain 1 0, .tkqry plain 1 13
            -- R353, R410: orderings; an 8-byte load has no sign
          , .ld plain .d false (m .rel) 1, .ld plain .d true (m .plain) 1, .st plain .d (m .acq) 1
          , .vld plain .raw (m .ar) 1, .vst plain .raw (m .acq) 1
            -- R327, R328: operations, sizes and the pair of .cas
          , .atom plain .fadd true (m .plain) 2, .atom plain .cas false (m .plain) 3, .red plain .swap false (m .plain) 2
          , .red plain .cas false (m .plain) 2, .red plain .add false (m .acq) 2
            -- R346: CMNT.l1all names no address
          , .cmnt plain .l1all { base := 1, idx := 0, off := 0 }
            -- R99: a pair of number 0
          , .vldScratchpad plain .raw 1 0 1, .rrot plain 1 0 1, .mzero plain false 0 0 1
            -- R413, R415: element formats, index groups, operations
          , .vldx plain (g .i4 0), .vldx plain (g .bf16 1), .vredx plain .fadd (g .i32 0), .vredx plain .add (g .fp32 0)
            -- R141, R320, R358, R362: register groups, forms, chunks, blocks of columns
          , .mma plain { w with a := .group 2 }, .mma plain { w with a := .group 24 }, .mma plain { w with form := .s4 }
          , .mmas plain w, .mma plain { w with kx := 7 }, .mmag plain { x with ce := 1 }
            -- R384, R386, R401 to R403: formats and modifiers of the vector template
          , .vadd plain (v .raw .dyn false false none) 1 2 (.v 3), .vadd plain (v .fp32 .dyn true false none) 1 2 (.v 3)
          , .vadd plain (v .i8 .rne false false none) 1 2 (.v 3), .vmin plain (v .i8 .dyn true false none) 1 2 (.v 3)
          , .vand plain (v .fp32 .dyn false false none) 1 2 (.v 3), .vand plain (v .raw .dyn false false none) 1 2 (.s 3)
          , .vshl plain (v .raw .dyn false false none) 1 2 (.v 3), .vcmp plain .un (v .i8 .dyn false false none) 1 2 (.v 3)
          , .vpcnt plain (.pred .raw 1 1)
            -- R404 to R409, R416, R417
          , .vred plain .and (v .fp32 .dyn false false none) 1 2, .vred plain .add (v .i8 .dyn false true none) 1 2
          , .vscan plain .or (v .i8 .dyn false false none) 1 2, .vcvt plain .fp32 (v .fp32 .dyn false false none) 0 0
          , .vcvt plain .fp32 (v .bf16 .dyn false false none) 1 2, .vsfn plain .rcp (v .i8 .dyn false false none) 1 2
          , .vperm plain (v .i8 .dyn false false none) 1 2 3, .vidx plain (v .fp32 .dyn false false none) 1 2 3
          , .vmovs plain (.as .raw false none 1 2), .vcprs plain (v .i8 .dyn false false none) 1 2
            -- R388, R372, R390: operands that a form leaves 0
          , .tcan plain true 1 1 1, .resq plain true 1 1 1, .tlbinv plain false true 1 1 0 ],
      ¬ WellFormed i := by decide +kernel


/-! Every opcode of R313: its word, written out from R94, R96, R99 and the entry of the instruction, and what it decodes to -/

/-- R313, R325 to R418: the scalar integer row, with operands, immediates and modifiers in every field. -/
theorem test_decode_scalar_1 :
    ∀ x ∈ ([ (0x0080000001023F0000000000, .add plain 1 2 63)
          , (0x00C0000001023F0000000000, .sub plain 1 2 63)
          , (0x0100000001023F0000000000, .mul plain 1 2 63)
          , (0x0200000001023F0000000000, .and plain 1 2 63)
          , (0x0280000001023F0000000000, .or plain 1 2 63)
          , (0x0300000001023F0000000000, .xor plain 1 2 63)
          , (0x0380000001023F0000000000, .andn plain 1 2 63)
          , (0x03C0000001023F0000000000, .shl plain 1 2 63)
          , (0x0440000001023F0000000000, .shr plain 1 2 63)
          , (0x04C0000001023F0000000000, .sar plain 1 2 63)
          , (0x0140000001023F0000000001, .mulh plain true 1 2 63)
          , (0x0180000001023F0000000000, .div plain false 1 2 63)
          , (0x01C0000001023F0000000001, .rem plain true 1 2 63)
          , (0x0540000001023F0000000001, .min plain true 1 2 63)
          , (0x0580000001023F0000000000, .max plain false 1 2 63)
          , (0x004000000304800000010000, .addi plain 3 4 0x80000001)
          , (0x024000000304800000010000, .andImm plain 3 4 0x80000001)
          , (0x02C000000304800000010000, .orImm plain 3 4 0x80000001)
          , (0x034000000304800000010000, .xorImm plain 3 4 0x80000001)
          , (0x040000000304000000210000, .shlImm plain 3 4 33) ] : List (Nat × Instr)),
      decodeTableWord 96 x.1 = some x.2 := by decide +kernel

/-- R313, R325 to R418: the scalar integer row, with operands, immediates and modifiers in every field. -/
theorem test_decode_scalar_2 :
    ∀ x ∈ ([ (0x048000000304000000210000, .shrImm plain 3 4 33)
          , (0x050000000304000000210000, .sarImm plain 3 4 33)
          , (0x05C000000506000000000000, .clz plain 5 6)
          , (0x060000000506000000000000, .popc plain 5 6)
          , (0x064000000506000000000000, .brev plain 5 6)
          , (0x074000000506000000000000, .mov plain 5 6)
          , (0x068000000402000000107001, .bfx plain true 4 2 4 7)
          , (0x06C000000502030000F03000, .bfi plain 5 2 3 60 3)
          , (0x070000000102039F00000000, .sel plain 1 2 3 15)
          , (0x078000000404001234560002, .movi plain .hi 4 4 0x123456)
          , (0x07C00000070800BFFFF00002, .ldk plain .d 7 8 5 0x1FFFF)
          , (0x080000009301020000700000, .cmp plain .leu 3 1 2)
          , (0x084000009301FFFFFFFF9000, .cmpImm plain .geu 3 1 0xFFFFFFFF)
          , (0x088000009192930000A00000, .gand plain true false true 1 2 3)
          , (0x08C000009192930000400000, .gor plain false true false 1 2 3)
          , (0x090000000600000000050000, .wfld plain 6 5) ] : List (Nat × Instr)),
      decodeTableWord 96 x.1 = some x.2 := by decide +kernel

/-- Rows 001 and 010 of R313. -/
theorem test_decode_control_and_memory_1 :
    ∀ x ∈ ([ (0x200000000080000068000000, .bra plain 0x2000001 5)
          , (0x208000000500000040000000, .call plain 5 1 0)
          , (0x210000000100000010000000, .loop plain 1 0 2)
          , (0x204000000900000000000000, .brx plain 9)
          , (0x20C000000900000000000000, .ret plain 9)
          , (0x214000000102006001100000, .bkt plain 1 2 3 17)
          , (0x218000000000000000000000, .endTask plain)
          , (0x21F2000A0000000000000000, .yield { plain with gai := true, ga := 9, hint := 2, yld := true })
          , (0x220000000000000000FF0000, .trap plain 255)
          , (0x224000000000000000000000, .tret plain)
          , (0x228000000000000000000000, .nop plain)
          , (0x24000000A200000000C00000, .tkpost plain .sys 2)
          , (0x24400000AC00000000200000, .tkwait plain .core 12)
          , (0x2480000007A1000000000000, .tkqry plain 7 1)
          , (0x24C000000000000000600000, .bar plain .die)
          , (0x250000000000000000400000, .cbar plain .cluster)
          , (0x254000000000000000B80000, .fence plain .sc .pool)
          , (0x40000000010203FFFFF8F1A0, .ld plain .w true { base := 2, idx := 3, off := 0xFFFFF8, al := 7, sc := .dev, ord := .acq } 1)
          , (0x40400000010203FFFFF8DA40, .st plain .h { base := 2, idx := 3, off := 0xFFFFF8, al := 6, sc := .sys, ord := .rel } 1)
          , (0x408000003E0203FFFFF813C9, .atom plain .cas true { base := 2, idx := 3, off := 0xFFFFF8, al := 0, sc := .dev, ord := .ar } 62) ] : List (Nat × Instr)),
      decodeTableWord 96 x.1 = some x.2 := by decide +kernel

/-- Rows 001 and 010 of R313. -/
theorem test_decode_control_and_memory_2 :
    ∀ x ∈ ([ (0x40C00000010203FFFFF8068A, .red plain .fadd false { base := 2, idx := 3, off := 0xFFFFF8, al := 0, sc := .core, ord := .rel } 1)
          , (0x41000000000203FFFFF80001, .pref plain .l2 { base := 2, idx := 3, off := 0xFFFFF8 })
          , (0x41400000000203FFFFF80002, .cmnt plain .wbinv { base := 2, idx := 3, off := 0xFFFFF8 })
          , (0x420000005F0203FFFFF82970, .vld plain .i4 { base := 2, idx := 3, off := 0xFFFFF8, al := 1, sc := .cluster, ord := .acq } 31)
          , (0x430000005F0203FFFFF83668, .vst plain .i6 { base := 2, idx := 3, off := 0xFFFFF8, al := 1, sc := .pool, ord := .rel } 31)
          , (0x4240000044C1060000100000, .vldScratchpad plain .bf16 4 1 6)
          , (0x4280000044DF060000A00000, .vldAcc plain 5 4 31 6)
          , (0x43400000D006440000780000, .vstScratchpad plain .pimg 16 6 4)
          , (0x4400000041024300000E6800, .vldx plain { v := 1, base := 2, ix := 3, fmt := .fp32, sc := .sys, al := 3, sync := true })
          , (0x444000004102430000411000, .vstx plain { v := 1, base := 2, ix := 3, fmt := .i64, sc := .core, al := 0, sync := true })
          , (0x44800000410243000058E500, .vredx plain .xor { v := 1, base := 2, ix := 3, fmt := .z32, sc := .ctx, al := 7, sync := false }) ] : List (Nat × Instr)),
      decodeTableWord 96 x.1 = some x.2 := by decide +kernel

/-- Rows 011, 100 and 111 of R313. -/
theorem test_decode_transfer_matrix_system_1 :
    ∀ x ∈ ([ (0x60000000C204050600630000, .tld plain { sp := 2, b := 4, p := 5, g := 6, sc := .die, win := true, pad := false, ch := .c96 })
          , (0x60800000DE04050600848000, .tst plain { sp := 30, b := 4, p := 5, g := 6, sc := .dev, win := false, pad := true, ch := .c48 })
          , (0x60400000C204050600008000, .tldRows plain { sp := 2, b := 4, n := 5, g := 6, ch := .c48 })
          , (0x60C00000C204050600010000, .tscat plain { sp := 2, b := 4, n := 5, g := 6, ch := .c96 })
          , (0x61C00000C204050600000000, .tldAdp plain { sp := 2, b := 4, n := 5, g := 6, ch := .flat })
          , (0x61000000010203040500001F, .scopy plain 31 1 2 3 4 5)
          , (0x61400000C1C2030000000000, .rrot plain 1 2 3)
          , (0x618000000900000000538000, .wld plain { sc := .cluster, ws := true, wf := .bf16, form := .s4 } 9)
          , (0x80000000D444000000550FF0, .mma plain { acc := 20, a := .group 4, trec := 2, ws := true, af := .e5m2, wf := .w3g48, form := .dense, kx := 1, re := 7, ce := 15 })
          , (0x80400000D4C3000000EBF800, .mmas plain { acc := 20, a := .scratch 3, trec := 7, ws := false, af := .bf16, wf := .bf16, form := .s3, kx := 7, re := 0, ce := 0 })
          , (0x80800000D4C3C400003BFFD9, .mmag plain { acc := 20, a := .scratch 3, adp := 4, trec := 1, up := true, af := .bf16, nm1 := 31, as := 63, re := 5, ce := 9 })
          , (0x80C00000D403000000D00000, .mzero plain true 6 20 3)
          , (0x810000000300000000A00000, .mstat plain 5 3)
          , (0xE00000000506070000000000, .tsub plain 5 6 7)
          , (0xE04000000506070000000000, .tcan plain false 5 6 7)
          , (0xE08000000506000000000000, .dqpush plain 5 6)
          , (0xE0C000000506000000000000, .dqpop plain 5 6)
          , (0xE10000000506F00000000000, .dqstl plain 5 6 none)
          , (0xE14000000506000000000000, .watch plain 5 6)
          , (0xE18000000506000000000000, .unwatch plain 5 6) ] : List (Nat × Instr)),
      decodeTableWord 96 x.1 = some x.2 := by decide +kernel

/-- Rows 011, 100 and 111 of R313. -/
theorem test_decode_transfer_matrix_system_2 :
    ∀ x ∈ ([ (0xE1C000000500070000000001, .resq plain true 5 0 7)
          , (0xE20000000506000000000000, .carve plain 5 6)
          , (0xE2400000050000000000031E, .sysrd plain 5 .froute)
          , (0xE28000000006000000000119, .syswr plain .pdcore0 6)
          , (0xE2C000000506070000000002, .tlbinv plain true false 5 6 7)
          , (0xE300000000060000002B0000, .psdone plain 6 43)
          , (0xE34000000500000001050000, .rdcnt plain 5 0x105)
          , (0xE38000000500000000000000, .rdtime plain 5)
          , (0xE3C000000506000000000000, .notify plain 5 6) ] : List (Nat × Instr)),
      decodeTableWord 96 x.1 = some x.2 := by decide +kernel

/-- Rows 101 and 110 of R313. -/
theorem test_decode_vector_1 :
    ∀ x ∈ ([ (0xA00000004142430000110000, .vadd plain { fmt := .bf16, rm := .rne, sat := false, pz := false, lane := none } 1 2 (.v 3))
          , (0xA0400000414203008728C000, .vsub plain { fmt := .i8, rm := .dyn, sat := true, pz := true, lane := some 7 } 1 2 (.s 3))
          , (0xA08000004142430000600000, .vmul plain { fmt := .z64, rm := .dyn, sat := false, pz := false, lane := none } 1 2 (.v 3))
          , (0xA0C0000044454647820A0000, .vfma plain { fmt := .fp32, rm := .rtz, sat := false, pz := false, lane := some 2 } 4 5 (.v 6) (.v 7))
          , (0xA10000004142430000080000, .vmin plain { fmt := .fp32, rm := .dyn, sat := false, pz := false, lane := none } 1 2 (.v 3))
          , (0xA14000004142030000480000, .vmax plain { fmt := .z8, rm := .dyn, sat := false, pz := false, lane := none } 1 2 (.s 3))
          , (0xA18000004142000000388000, .vabs plain { fmt := .i32, rm := .dyn, sat := true, pz := false, lane := none } 1 2)
          , (0xA1C000004142000000080000, .vneg plain { fmt := .fp32, rm := .dyn, sat := false, pz := false, lane := none } 1 2)
          , (0xA20000004142430000000000, .vand plain { fmt := .raw, rm := .dyn, sat := false, pz := false, lane := none } 1 2 (.v 3))
          , (0xA24000004142030000300000, .vor plain { fmt := .i16, rm := .dyn, sat := false, pz := false, lane := none } 1 2 (.s 3))
          , (0xA28000004142430000404000, .vxor plain { fmt := .i64, rm := .dyn, sat := false, pz := true, lane := none } 1 2 (.v 3))
          , (0xA2C000004142030000500000, .vshl plain { fmt := .z16, rm := .dyn, sat := false, pz := false, lane := none } 1 2 (.s 3))
          , (0xA30000004142430000580000, .vshr plain { fmt := .z32, rm := .dyn, sat := false, pz := false, lane := none } 1 2 (.v 3))
          , (0xA34000008542430000080600, .vcmp plain .un { fmt := .fp32, rm := .dyn, sat := false, pz := false, lane := none } 5 2 (.v 3))
          , (0xA38000004142438486000000, .vsel plain { fmt := .raw, rm := .dyn, sat := false, pz := false, lane := some 6 } 1 2 3 4)
          , (0xA3C000004142000000280000, .vpcnt plain (.elems { fmt := .i8, rm := .dyn, sat := false, pz := false, lane := none } 1 2))
          , (0xA3C000002182000000700100, .vpcnt plain (.pred .i4 33 2))
          , (0xA40000008142030000280000, .vbtst plain { fmt := .i8, rm := .dyn, sat := false, pz := false, lane := none } 1 2 (.s 3))
          , (0xA44000004142000000140000, .vred plain .add { fmt := .bf16, rm := .rdn, sat := false, pz := false, lane := none } 1 2)
          , (0xA48000004142000000280200, .vscan plain .max { fmt := .i8, rm := .dyn, sat := false, pz := false, lane := none } 1 2) ] : List (Nat × Instr)),
      decodeTableWord 96 x.1 = some x.2 := by decide +kernel

/-- Rows 101 and 110 of R313. -/
theorem test_decode_vector_2 :
    ∀ x ∈ ([ (0xC000000048420000000B8010, .vcvt plain .bf16 { fmt := .fp32, rm := .rup, sat := true, pz := false, lane := none } 8 2)
          , (0xC04000004142430000700100, .vpack plain true { fmt := .i4, rm := .dyn, sat := false, pz := false, lane := none } 1 2 3)
          , (0xC08000004142430000680000, .vunpk plain false { fmt := .i6, rm := .dyn, sat := false, pz := false, lane := none } 1 2 3)
          , (0xC0C000004142000000090B00, .vsfn plain .silu { fmt := .fp32, rm := .rne, sat := false, pz := false, lane := none } 1 2)
          , (0xC10000004142430000100000, .vperm plain { fmt := .bf16, rm := .dyn, sat := false, pz := false, lane := none } 1 2 3)
          , (0xC14000004109000000680000, .vbcast plain { fmt := .i6, rm := .dyn, sat := false, pz := false, lane := none } (.scalar 1 9))
          , (0xC14000004142090000180000, .vbcast plain { fmt := .e4m3, rm := .dyn, sat := false, pz := false, lane := none } (.vector 1 2 9))
          , (0xC180000041090A0000608000, .vidx plain { fmt := .z64, rm := .dyn, sat := true, pz := false, lane := none } 1 9 10)
          , (0xC1C000004142000083204000, .vmovs plain (.move .e5m2 true (some 3) 1 2))
          , (0xC1C0000041090A0000680100, .vmovs plain (.ins .i6 1 9 10))
          , (0xC1C0000009410A0000380200, .vmovs plain (.ext .i32 9 1 10))
          , (0xC1C000004182000000780300, .vmovs plain (.fromq 1 2))
          , (0xC1C000008241000000780400, .vmovs plain (.toq 2 1))
          , (0xC1C000004142000000780500, .vmovs plain (.as .pimg false none 1 2))
          , (0xC20000004142000081280000, .vcprs plain { fmt := .i8, rm := .dyn, sat := false, pz := false, lane := some 1 } 1 2)
          , (0xC24000004142000081284000, .vxpnd plain { fmt := .i8, rm := .dyn, sat := false, pz := true, lane := some 1 } 1 2)
          , (0xC28000008182830000000500, .qand plain true false true 1 2 3)
          , (0xC2C000008182830000000200, .qor plain false true false 1 2 3)
          , (0xC30000008182000000000000, .qnot plain 1 2) ] : List (Nat × Instr)),
      decodeTableWord 96 x.1 = some x.2 := by decide +kernel

/-! Witnesses: for each statement, states and operands that meet its hypotheses, clause by clause. Names of the theorems are
those of the statements. -/

def isNext : Answer → Bool
  | .next _ => true
  | _ => false

theorem isNext_iff {r : Answer} : isNext r = true ↔ ∃ t, r = .next t := by
  cases r <;> simp [isNext]

def answers {ε α : Type} : Except ε α → Bool
  | .ok _ => true
  | .error _ => false

/-- A context with a field set, on its machine. -/
def onX (c : Ctx) : State := machine c .X
def onL (c : Ctx) : State := machine c .L
def onC (c : Ctx) : State := machine c .C
def onS (c : Ctx) : State := machine c .S

/-- R325: ADD s5, s6, s7. -/
def addWord : InstrWord := 0x008000000506070000000000#96

/-- The state in which the word stands where the next step fetches it. -/
def placed (w : InstrWord) : State := State.reset.withFetchWord 96 w.toNat

theorem witness_MemoryStaysCanonical :
    Memory.wf (placed addWord).mem = true ∧ Memory.wf (placed addWord).pool = true
      ∧ isNext (step (placed addWord)) = true := by decide +kernel

/-- The line that holds a word in slot 0 for X, and a context that holds it. -/
def lineWith (w : InstrWord) : Line := BitVec.ofNat 512 (bootLine .X w)
def holding (w : InstrWord) : Ctx := (bootCtx .X).modSeq .X fun x => { x with line := some (lineWith w) }

/-- A neutral context on an image of the code vault whose line 1 holds a word. -/
def neutralCtx (q : Seqr) : Ctx := { bootCtx q with neutral := some 1, vault := some 7, priv := .task }
def vaultImage (w : InstrWord) : VaultImage :=
  { id := 7, hash := 0, bytes := leBytes 0 64 ++ leBytes (bootLine .X w) 64, windows := [], carve := 0, places := []
    withdrawn := false }
/-- The same, placed on die 0. -/
def placedImage (w : InstrWord) : VaultImage := { vaultImage w with places := List.replicate 4 (3, 1) }

theorem witness_StepRunsInstruction :
    let idle (s : State) : Bool := s.powered && !s.halted && s.agenda == [] && quietStep s == none && nextEvent s == none
    let ready (s : State) (c : Ctx) : Bool := decide (getCtx s (ctxOf s.cur) = some c) && c.canIssue .X && c.lateTrap .X == none
      && !(c.seq .X).skip
    let held := holding addWord
    let vs (im : VaultImage) := { onX (neutralCtx .X) with images := [im] }
    let inVault (im : VaultImage) : Bool :=
      idle (vs im) && ready (vs im) (neutralCtx .X)
        && (match codeSrc (vs im) (neutralCtx .X) with
            | .vault bs n place => lineFromBytes (bytesAt bs 64 64) == lineWith addWord && pointOk ((neutralCtx .X).seq .X).pc n
                && place.isSome == (im.places != [])
            | _ => false)
    -- a line that it holds, with an instruction and with none
    (idle (onX held) && ready (onX held) held && decodeTableWord 96 (slotWord (lineWith addWord) 0).toNat == some (.add plain 5 6 7)
        && idle (onX (holding 0)) && ready (onX (holding 0)) (holding 0) && (slotWord (lineWith 0) 0).extractLsb' 86 10 == 0 && ((decode (slotWord (lineWith addWord) 0 ||| 1#96 <<< 64)).toOption).isNone)
      -- a line of its image in memory
      && (idle (placed addWord) && ready (placed addWord) (bootCtx .X) && ((bootCtx .X).seq .X).line == none
        && pointOk ((bootCtx .X).seq .X).pc 2 && lineOk (lineWith addWord) .X 0
        && (match checkAccess (placed addWord) (agentOf (placed addWord) (bootCtx .X)) .fetch 0x10040 64 1 with
            | .ok segs => !sideTouches (placed addWord) (bootCtx .X).id [(0x10040, 64)] && segs.all (fun y => !y.fabric) && !segsPoisoned (placed addWord) segs
                && lineFromBytes (segsRead (placed addWord) segs) == lineWith addWord
            | _ => false))
      -- a line of its image in the code vault
      && (inVault (vaultImage addWord) && inVault (placedImage addWord))
      -- an operation of the agenda; an event that is due
      && ({ onX held with agenda := [.configurationRequest] }).agenda == [.configurationRequest]
      && (let s := { onX held with burgeeDst := 1 }
          quietStep s == none && nextEvent s == some .burgeeSend && isNext (exec .burgeeSend s)) = true := by
  decide +kernel

/-- R57's corners: the most negative number, −1, a shift of 63, zero. -/
def corner : Ctx := ctxWith .X [(1, 0x8000000000000000), (2, 0xFFFFFFFFFFFFFFFF), (3, 63), (4, 0)]

theorem witness_ScalarIntegerResults :
    ∀ i ∈ [ Instr.add plain 5 1 2, .addi plain 5 1 0x80000000, .sub plain 0 1 2, .mul plain 1 1 2, .mulh plain true 5 1 2
          , .mulh plain false 5 1 2, .div plain false 5 1 2, .div plain true 5 1 4, .rem plain false 5 1 2, .rem plain true 5 1 4
          , .and plain 5 1 2, .andImm plain 5 1 0xFFFFFFFF, .or plain 5 1 2, .orImm plain 5 1 1, .xor plain 5 1 2
          , .xorImm plain 5 1 1, .andn plain 5 1 2, .shl plain 5 1 3, .shlImm plain 5 1 63, .shr plain 5 1 3
          , .shrImm plain 5 1 63, .sar plain 5 1 2, .sarImm plain 5 1 0, .min plain false 5 1 2, .max plain true 5 1 2 ],
      Issues (onX corner) corner i plain allSeqs := by
  simp only [← issues_iff]
  decide +kernel

theorem witness_ScalarBitResults :
    ∀ i ∈ [ Instr.clz plain 5 4, .popc plain 5 2, .brev plain 5 1, .bfx plain false 5 1 63 0, .bfx plain true 5 1 0 63
          , .bfi plain 5 1 2 31 32, .sel plain 5 1 2 0, .mov plain 0 1, .movi plain .zx 5 0 1, .movi plain .sx 5 0 0xFFFFFFFF
          , .movi plain .hi 5 1 1, .wfld plain 5 7 ],
      Issues (onX corner) corner i plain allSeqs := by
  simp only [← issues_iff]
  decide +kernel

theorem witness_GuardResults :
    ∀ i ∈ [ Instr.cmp plain .lt 1 1 2, .cmpImm plain .eq 0 2 0xFFFFFFFF, .gand plain true false true 15 0 1
          , .gor plain false true false 15 15 0 ],
      Issues (onX corner) corner i plain allSeqs := by
  simp only [← issues_iff]
  decide +kernel

theorem witness_BranchTargets :
    ∀ i ∈ [ Instr.bra plain 0x3FFFFFF 4, .brx plain 1, .ret plain 2, .call plain 5 1 0, .loop plain 3 0x3FFFFFF 0
          , .loop plain 5 0 0 ],
      Issues (onX (ctxWith .X [(1, 0x8000000000000000), (2, 0xFFFFFFFFFFFFFFFF), (3, 63), (5, 1)]))
        (ctxWith .X [(1, 0x8000000000000000), (2, 0xFFFFFFFFFFFFFFFF), (3, 63), (5, 1)]) i plain allSeqs := by
  simp only [← issues_iff]
  decide +kernel

/-- A context with tokens in some queues. -/
def withTokens (l : List (Nat × BitVec 6)) : Ctx := l.foldl (fun c x => c.setTok x.1 x.2) (bootCtx .X)

theorem witness_WaitsAndTokens :
    (∀ i ∈ [ Instr.nop plain, .yield plain, .fence plain .acq .sys, .fence plain .rel .ctx, .tkpost plain .pool 12
           , .tkqry plain 5 3, .tkqry plain 5 10, .trap plain 0xFFFFFFFF, .tkwait plain .ctx 3 ],
        Issues (onX (bootCtx .X)) (bootCtx .X) i plain allSeqs)
      ∧ Issues (onX (withTokens [(3, 63)])) (withTokens [(3, 63)]) (.tkwait plain .ctx 3) plain allSeqs
      ∧ Issues (onX (withTokens [(9, 1)])) (withTokens [(9, 1)]) (.nop { plain with wq := 9, pq := 10 })
          { plain with wq := 9, pq := 10 } allSeqs
      ∧ postsFrom 12 .X = true ∧ waitsAt 3 .X = true ∧ (bootCtx .X).tok 3 = 0 ∧ (withTokens [(3, 63)]).tok 3 ≠ 0 := by
  simp only [← issues_iff]
  decide +kernel

/-- A member of a gang. -/
def gangCtx (q : Seqr) (pos : Nat) : Ctx := { bootCtx q with gang := some { polder := 0, seq := 1, gang := 0, pos := pos } }

/-- A frame of a steward or reeve handler that the sequencer X entered. -/
def saved : SeqSave :=
  { seq := .X, point := { line := 3, slot := 2, bad := false }, skip := false, waited := none, atEnd := false, run := .running
    hold := none, age := 0, fab := [], rtags := [] }
def frame (reeve preempt : Bool) : Frame :=
  { seq := .X, reeve := reeve, preempt := preempt, image := 0x10000, lines := 2, asid := 0, saves := [saved], trec := 9, taddr := 8 }
/-- A context in a handler, whose record names an action. -/
def inHandler (reeve preempt : Bool) (action : Nat) : Ctx :=
  let c := ctxWith .X [(1, 2)]
  { c.modSeq .X fun x => { x with banks := [{ sreg := [1, 2, 3, 4, 5, 6, 7, 8], g := 0b1010 }] } with
    frames := [frame reeve preempt], units := 2, trec := BitVec.ofNat 64 (action * 2 ^ 56) }

theorem witness_BarrierAndCarveArrivals :
    (∀ i ∈ [Instr.bar plain .ctx, .bar plain .pool, .carve plain 5 1], Issues (onX corner) corner i plain allSeqs)
      ∧ Issues (onX (gangCtx .X 0)) (gangCtx .X 0) (.cbar plain .cluster) plain [.X]
      ∧ Issues (onX corner) corner (.carve plain 5 1) plain [.X]
      ∧ Issues (onX (neutralCtx .X)) (neutralCtx .X) (.carve plain 5 1) plain [.X]
      ∧ Issues (onX (inHandler false false 0)) (inHandler false false 0) (.carve plain 5 1) plain [.X]
      ∧ (∀ sc ∈ [Scope.ctx, .cluster, .die, .pool], releaseReady (onX corner) corner .X sc = true)
      ∧ releaseReady (onX (gangCtx .X 0)) (gangCtx .X 0) .X .cluster = true ∧ (gangCtx .X 0).gang.isSome = true
      ∧ corner.neutral = none ∧ corner.inHandler .X = false ∧ (inHandler false false 0).inHandler .X = true := by
  simp only [← issues_iff]
  decide +kernel

/-- Constant window 0 over eight words at 0x20000, and window 1 over 48. -/
def winCtx : Ctx :=
  { ctxWith .X [(5, 5), (6, 9), (7, 0)] with windows := [{ base := 0x20000, words := 8 }, { base := 0x20000, words := 48 }] }

/-- R336: word 0 gives two buckets and rows, words 1 and 2 the buckets 4 and 8, word 18 the target of the second. -/
def winState : State :=
  { onX winCtx with mem := [⟨0x20000, 1⟩, ⟨0x20004, 4⟩, ⟨0x20008, 8⟩, ⟨0x20048, 1⟩, ⟨0x2004B, 4⟩] }

def passes : Checked → Bool
  | .ok _ => true
  | _ => false
def pieces : Checked → List Seg
  | .ok l => l
  | _ => []

theorem witness_ConstantWindows :
    (∀ i ∈ [Instr.ldk plain .w 1 7 0 7, .ldk plain .sx 1 7 0 0, .ldk plain .d 1 7 0 6], Issues winState winCtx i plain allSeqs)
      ∧ (∀ x ∈ [(7, 1), (0, 1), (6, 2)], answers (readWindow winState winCtx .X 0 x.1 x.2) = true)
      ∧ winCtx.neutral = none ∧ (∀ x ∈ [(8, 1), (8, 2), (2 ^ 17, 1)], 2 ^ 17 ≤ x.1 ∨ 8 < x.1 + x.2)
      ∧ (∀ x ∈ [(0x2001C, 4), (0x20018, 8)],
          let r := checkAccess winState (windowAgent winState winCtx) .read x.1 x.2 x.2
          passes r = true ∧ (pieces r).all (fun y => !y.fabric) = true ∧ segsPoisoned winState (pieces r) = false) := by
  simp only [← issues_iff]
  decide +kernel

theorem witness_BucketBranch :
    let read (k : Nat) : Option Nat := (readWindow winState winCtx .X 1 k 1).toOption.map Prod.snd
    let after : State := ((readWindow winState winCtx .X 1 0 1).toOption.map Prod.fst).getD winState
    let badState := { winState with mem := [⟨0x20000, 0x20⟩] }
    (readWords after winCtx .X 1 1 2).toOption.map Prod.snd = some [4, 8]
      ∧ (readWindow badState winCtx .X 1 0 1).toOption.map Prod.snd = some 0x20
      ∧ Issues badState winCtx (.bkt plain 2 5 1 0) plain allSeqs
      ∧ read 0 = some 1 ∧ read 1 = some 4 ∧ read 2 = some 8 ∧ read 18 = some 0x4000001
      ∧ (∀ r ∈ [(5 : SReg), 6, 7], Issues winState winCtx (.bkt plain 2 r 1 0) plain allSeqs)
      ∧ winCtx.rS .X 5 = 5 ∧ winCtx.rS .X 6 = 9 ∧ winCtx.rS .X 7 = 0 := by
  simp only [← issues_iff]
  decide +kernel

theorem witness_EndsOfWork :
    Issues (onX (bootCtx .X)) (bootCtx .X) (.endTask plain) plain [.X] ∧ (bootCtx .X).inHandler .X = false
      ∧ (bootCtx .X).pending = []
      ∧ (let late : Ctx := { bootCtx .X with pending := [{ mkTrap .L 0x12 0 0 with imprec := true }] }
         let c := late.modSeq .L fun x => { x with run := .bar 1 }
         Issues (onX c) c (.endTask plain) plain [.X] ∧ ∀ t ∈ c.pending, t.imprec = true ∧ (c.seq t.seq).run = .bar 1)
      ∧ (∀ i ∈ [Instr.psdone plain 1 0, .psdone plain 1 1], Issues (onX (inHandler false true 0)) (inHandler false true 0) i plain allSeqs)
      ∧ (inHandler false true 0).inHandler .X = true ∧ (inHandler false true 0).frame = some (frame false true)
      ∧ (inHandler false true 0).rS .X 1 = 2 ∧ (inHandler false true 0).units = 2 := by
  simp only [← issues_iff]
  decide +kernel

/-- A reeve handler around a steward handler. -/
def nestedCtx : Ctx :=
  let c := inHandler false false 0
  { c.modSeq .X fun x => { x with banks := { sreg := [8, 7, 6, 5, 4, 3, 2, 1], g := 0b0101 } :: x.banks } with
    frames := frame true false :: c.frames, priv := .task }

theorem witness_HandlerReturn :
    (∀ c ∈ [inHandler false false 0, inHandler false false 1, inHandler false false 2, nestedCtx],
        Issues (onX c) c (.tret plain) plain allSeqs ∧ (c.seq .X).banks.head?.isSome = true
          ∧ (c.frames.head?.map fun f => f.saves) = some [saved])
      ∧ trecAction (inHandler false false 0).trec = 0 ∧ trecAction (inHandler false false 1).trec = 1
      ∧ trecAction (inHandler false false 2).trec = 2 ∧ (inHandler false false 0).frames.tail = []
      ∧ nestedCtx.frames.tail ≠ [] := by
  simp only [← issues_iff]
  decide +kernel

/-- R89, R90: at 0x10000 an image of five lines whose entry lines are 1 to 4; both vectors name it. -/
def vectored (c : Ctx) : State :=
  { onX c with
    rtvec := 0x10000, polders := (onX c).polders.modify 0 fun p => { p with tvec := 1 }
    mem := [⟨0x10000, 0x31⟩, ⟨0x10001, 0x59⟩, ⟨0x10002, 0x48⟩, ⟨0x10003, 0x4B⟩, ⟨0x10004, 1⟩, ⟨0x10008, 5⟩, ⟨0x1000C, 1⟩
          , ⟨0x10010, 2⟩, ⟨0x10014, 3⟩, ⟨0x10018, 4⟩, ⟨0x10083, 0x40⟩, ⟨0x100C3, 0x80⟩, ⟨0x10103, 0xC0⟩] }

/-- A trap of cause 5 at X. -/
def someTrap : TrapReq := mkTrap .X 0x05 3 0xABC

theorem witness_TrapsTaken :
    (∀ c ∈ [corner, inHandler false false 0, inHandler true false 0], getCtx (vectored c) c.id = some c)
      ∧ corner.frames = [] ∧ corner.neutral = none ∧ someTrap.viaReeve = false
      ∧ checkImage (vectored corner) (handlerAgent (vectored corner) corner false)
          ((getPolder (vectored corner) corner.polder).tvec.setWidth 64 <<< 16) = some (5, [1, 2, 3, 4])
      ∧ (∀ b, (inHandler b false 0).frames.head? = some (frame b false))
      ∧ (∀ b, let c := { inHandler b true 0 with preempt := some { used := 9, shadow := false } }
          getCtx (vectored c) c.id = some c ∧ c.frames.head? = some (frame b true) ∧ c.preempt.isSome = true)
      ∧ checkImage (vectored (inHandler false false 0))
          (handlerAgent (vectored (inHandler false false 0)) (inHandler false false 0) true) 0x10000 = some (5, [1, 2, 3, 4]) := by
  decide +kernel

/-- A context at task level. -/
def taskCtx (q : Seqr) : Ctx := { bootCtx q with priv := .task }

def someMem : MemArg := { base := 1, idx := 0, off := 0, al := 0, sc := .ctx, ord := .plain }
def someGather (v : VReg) : GatherArg := { v := v, base := 1, ix := 4, fmt := .fp32, sc := .ctx, al := 0, sync := false }
def someBlock (pad win : Bool) : BlockArg :=
  { sp := 1, b := 4, p := 5, g := 6, sc := .ctx, win := win, pad := pad, ch := .flat }
def someRows : RowArg := { sp := 1, b := 4, n := 5, g := 6, ch := .flat }

theorem witness_IssueTraps :
    (∀ q ∈ allSeqs, getCtx (machine (bootCtx q) q) (ctxOf (machine (bootCtx q) q).cur) = some (bootCtx q)
        ∧ (bootCtx q).canIssue q = true ∧ (bootCtx q).lateTrap q = none ∧ (bootCtx q).neutral = none)
      ∧ ¬ WellFormed (.add { plain with wq := 13 } 1 1 1) ∧ WellFormed (.ld plain .d false someMem 1)
      ∧ waitsAt 10 .X = false ∧ postsFrom 3 .X = false
      ∧ (∀ x ∈ [ (Seqr.X, Instr.ld plain .d false someMem 1), (.X, .st plain .b someMem 1), (.X, .atom plain .add true someMem 1)
               , (.X, .red plain .add true someMem 1), (.X, .cmnt plain .wb { base := 1, idx := 0, off := 0 })
               , (.L, .vld plain .raw someMem 1), (.L, .vst plain .raw someMem 1), (.L, .vldx plain (someGather 1))
               , (.L, .vstx plain (someGather 1)), (.L, .vredx plain .fadd (someGather 1)), (.S, .tst plain (someBlock false false))
               , (.L, .scopy plain 0 1 2 3 4 5), (.X, .tsub plain 1 2 3), (.X, .tcan plain false 1 2 3), (.X, .notify plain 1 2)
               , (.X, .cbar plain .ctx), (.L, .rrot plain 1 2 3) ],
          Issues (machine (neutralCtx x.1) x.1) (neutralCtx x.1) x.2 plain [x.1])
      ∧ (∀ x ∈ [(Seqr.L, Instr.tldRows plain someRows), (.L, .tldAdp plain someRows), (.S, .tscat plain someRows), (.X, .cbar plain .ctx)
               , (.L, .rrot plain 1 2 3), (.X, .watch plain 1 2), (.X, .unwatch plain 1 2), (.X, .tlbinv plain false false 1 2 3)
               , (.X, .tret plain), (.C, .psdone plain 0 0), (.X, .sysrd plain 1 .rtvec), (.X, .syswr plain .trec 1) ],
          Issues (machine (taskCtx x.1) x.1) (taskCtx x.1) x.2 plain [x.1])
      ∧ (taskCtx .X).effPriv = .task ∧ (taskCtx .X).gang = none ∧ (taskCtx .X).inHandler .X = false
      ∧ sysAllowed (onX (taskCtx .X)) (taskCtx .X) .rtvec = false ∧ sysAllowed (onX (taskCtx .X)) (taskCtx .X) .trec = false
      ∧ Issues (onX (inHandler false false 0)) (inHandler false false 0) (.endTask plain) plain [.X] := by
  simp only [← issues_iff]
  decide +kernel

/-- A guard that does not hold, and a wait on a token that holds no count: check 4 traps all the same (R95). -/
theorem witness_IssueTraps_guarded :
    let h : Hdr := { plain with ga := 2, wq := 3 }
    let c := neutralCtx .X
    let i := Instr.st h .b someMem 1
    getCtx (machine c .X) (ctxOf (machine c .X).cur) = some c ∧ c.canIssue .X = true ∧ c.lateTrap .X = none ∧ checkOne i = true
      ∧ waitsAt 3 .X = true ∧ postsFrom 0 .X = true ∧ c.guardsHold .X h = false ∧ c.waitOk .X h = false ∧ c.neutral.isSome = true := by
  decide +kernel

/-! Memory -/

def readableB (s : State) (c : Ctx) (q : Seqr) (m : ReadMode) (acc : Acc) (ps : List (Nat × Nat)) : Bool :=
  match checkGranules s (hintAgent s c m.hint) acc (ps.flatMap fun p => granules (p.2 / 4096 + 2) p.1 p.2) with
  | .ok segs => !sideTouches s c.id ps && (!m.sys || !sysOwed s c q) && !redsMeet c q segs && (segs.filter fun x => x.fabric && !fabHas (c.seq q).fab x.pa x.len).isEmpty
      && !segsPoisoned s (segs.filter fun x => !x.fabric)
  | _ => false

theorem readable_iff {s : State} {c : Ctx} {q : Seqr} {m : ReadMode} {acc : Acc} {ps : List (Nat × Nat)} :
    readableB s c q m acc ps = true ↔ ∃ segs, Readable s c q m acc ps segs := by
  constructor
  · intro H
    unfold readableB at H
    split at H
    · next segs h =>
      simp only [Bool.and_eq_true, Bool.not_eq_true', Bool.or_eq_true, List.isEmpty_iff] at H
      obtain ⟨⟨⟨⟨h1, h2⟩, h3⟩, h4⟩, h5⟩ := H
      exact ⟨segs, h1, fun hm => h2.resolve_left (by simp [hm]), h3, h, h4, h5⟩
    · cases H
  · rintro ⟨segs, h1, h2, h3, h4, h5, h6⟩
    cases hm : m.sys <;> simp_all [readableB]

def writableB (s : State) (c : Ctx) (q : Seqr) (h : Hdr) (sc : Scope) (rel : Bool) (ps : List (Nat × Nat)) : Bool :=
  match checkGranules s (writeAgent s c q h.hint) .write (ps.flatMap fun p => granules (p.2 / 4096 + 2) p.1 p.2) with
  | .ok segs => (!rel || releaseReady s c q sc) && (sc != .sys || !sysOwed s c q) && !sideTouches s c.id ps && !redsMeet c q segs
      && segs.all fun x => !x.fabric && decide (x.len = 0 ∨ x.pa % 4096 + x.len ≤ 4096)
  | _ => false

theorem writable_iff {s : State} {c : Ctx} {q : Seqr} {h : Hdr} {sc : Scope} {rel : Bool} {ps : List (Nat × Nat)} :
    writableB s c q h sc rel ps = true ↔ ∃ segs, Writable s c q h sc rel ps segs := by
  constructor
  · intro H
    unfold writableB at H
    split at H
    · next segs hs =>
      simp only [Bool.and_eq_true, Bool.not_eq_true', Bool.or_eq_true, bne_iff_ne, List.all_eq_true, decide_eq_true_eq] at H
      obtain ⟨⟨⟨⟨h1, h6⟩, h2⟩, h7⟩, h3⟩ := H
      refine ⟨segs, fun hr => ?_, fun hy => h6.resolve_left fun n => n hy, h2, h7, hs, fun x hx => (h3 x hx).1
        , fun x hx a h4 h5 => ?_⟩
      · cases h1 with
        | inl h1 => rw [hr] at h1; cases h1
        | inr h1 => exact h1
      · have := (h3 x hx).2
        omega
    · cases H
  · rintro ⟨segs, h1, h6, h2, h7, h3, h4, h5⟩
    simp only [writableB, h3, h2, h7, Bool.not_false, Bool.and_true, Bool.and_eq_true, Bool.or_eq_true, bne_iff_ne,
      List.all_eq_true, Bool.not_eq_true', decide_eq_true_eq]
    refine ⟨⟨?_, (Decidable.em (sc = .sys)).elim (fun e => .inr (h6 e)) .inl⟩, fun x hx => ⟨h4 x hx, ?_⟩⟩
    · cases rel with
      | false => exact .inl rfl
      | true => exact .inr (h1 rfl)
    · by_cases hl : x.len = 0
      · exact .inl hl
      · have := h5 x hx (x.pa + x.len - 1) (by omega) (by omega)
        exact .inr (by omega)

/-- A context whose s1 names the last 8 bytes of a granule, s3 the top of the addresses, s4 an address off every
alignment, s5 and s6 the most negative number and −1. -/
def memRegs : List (SReg × Word) :=
  [(1, 0x20FF8), (2, 1), (3, 0xFFFFFFFFFFFFFFF8), (4, 0x20FF9), (5, 0x8000000000000000), (6, 0xFFFFFFFFFFFFFFFF), (7, 0x20000)]
def memCtx (q : Seqr) : Ctx := ctxWith q memRegs
def memAt (base : SReg) (off : BitVec 24) : MemArg := { someMem with base := base, off := off }
def memState (q : Seqr) : State := { machine (memCtx q) q with mem := [⟨0x20FFF, 0x80⟩] }

theorem witness_LoadsAndAddressTraps :
    (∀ x ∈ [(Seqr.X, Size.b, true, memAt 1 7), (.L, .h, false, memAt 1 6), (.S, .w, true, memAt 1 4), (.X, .d, false, memAt 1 0)],
        let c := memCtx x.1
        let m := x.2.2.2
        let n := sizeBytes x.2.1
        let a := (c.rS x.1 m.base + (c.rS x.1 m.idx <<< Nat.log2 n) + m.off.signExtend 64).toNat
        spanOk a n = true ∧ a % n = 0 ∧ Issues (memState x.1) c (.ld plain x.2.1 x.2.2.1 m 0) plain [.X, .L, .S]
          ∧ c.neutral = none ∧ ∃ segs, Readable (memState x.1) c x.1 (readMode plain m.sc) .read [(a, n)] segs)
      ∧ (∀ i ∈ [Instr.ld plain .w true (memAt 3 6) 8, .st plain .w (memAt 3 6) 8],
          Issues (memState .X) (memCtx .X) i plain [.X, .L, .S]
            ∧ spanOk (margAddr (memAt 3 6) (memCtx .X) .X 4).toNat 4 = false)
      ∧ (∀ i ∈ [Instr.ld plain .d false (memAt 4 0) 8, .st plain .d (memAt 4 0) 8],
          Issues (memState .X) (memCtx .X) i plain [.X, .L, .S]
            ∧ spanOk (margAddr (memAt 4 0) (memCtx .X) .X 8).toNat 8 = true
            ∧ (margAddr (memAt 4 0) (memCtx .X) .X 8).toNat % 8 ≠ 0) := by
  simp only [← issues_iff, ← readable_iff]
  decide +kernel

/-- One piece whose table leaves stand at 0x30000 and 0x30008. -/
def somePiece : Seg :=
  { va := 0x20FF8, pa := 0x20FF8, len := 8, key := 0, leaf1 := some ⟨0x30000, 0, 0⟩, leaf2 := some ⟨0x30008, 0, 0⟩
    ren := none, ok := true, tlb := none, walks := [] }

/-- A record of zeros with a count of tasks, and its launch in the queue of polder 0. -/
def aRecord (n : Nat) : LaunchRec := { parseRecord [] with count := n }
def aLaunch (ts : List TaskState) : Launch :=
  { newLaunch State.reset (submitterOf State.reset (bootCtx .X)) (aRecord ts.length) 0 0 with seq := 1, tasks := ts }
def queued (s : State) (l : List Launch) : State :=
  { s with polders := s.polders.modify 0 fun p => { p with queue := l, nextSeq := 2 } }
def aRename : Rename := { granule := 0x21, buf := 0x40000, written := 0, fill := .filled }

def withRenames : State := queued (memState .X) [{ aLaunch [.queued] with renames := [aRename] }]

theorem witness_PiecesAndHeat :
    let leaves := somePiece.leaf1.toList ++ somePiece.leaf2.toList
    let g := { agentOf withRenames (memCtx .X) with launch := some (0, 1) }
    (∀ a ∈ [0x2FFFF, 0x30010, 0x20FF8], physKind a = .hbm 0 ∧ (∀ p ∈ leaves, p.pa % 8 = 0 ∧ physKind p.pa = .hbm 0)
        ∧ (∀ p ∈ leaves, (a < p.pa ∨ p.pa + 8 ≤ a) ∧ inVault State.reset p.pa = false)
        ∧ (∀ p ∈ leaves, lineOf p.pa = lineOf a → p.key = 0))
      ∧ (∀ va ∈ [0x20FF8, 0], answers (transOne withRenames (agentOf withRenames (memCtx .X)) .read va 8) = true
        ∧ renameOf withRenames (agentOf withRenames (memCtx .X)) va = none
        ∧ tlbFind withRenames (agentOf withRenames (memCtx .X)) false va = none)
      ∧ answers (transOne withRenames g .read 0x21008 8) = true ∧ (renameOf withRenames g 0x21008).isSome = true := by
  decide +kernel

/-- Three indices, 0, 1 and −1, the others 2^31 (R413), in v4; v1 is FP32 data. -/
def indices : VecReg := { data := ofElems 32 ([0, 1, 0xFFFFFFFF] ++ List.replicate 125 0x80000000), tag := .i32, pen := 0 }
def vecCtx (q : Seqr) : Ctx :=
  ((ctxWith q [(1, 0x20004), (7, 0x20000), (8, 0x80), (9, 0x20E00)]).wV 4 indices).wV 1
    { data := BitVec.ofNat 4096 0x3F800000, tag := .fp32, pen := 0 }
def vecState (q : Seqr) : State := machine (vecCtx q) q
def idxBytes : List (Nat × Nat) := [(0x20004, 4), (0x20008, 4), (0x20000, 4)]

theorem witness_Stores :
    (∀ x ∈ [(Size.b, memAt 1 7), (.h, memAt 1 6), (.w, memAt 1 4), (.d, { memAt 1 0 with ord := .rel, sc := .sys })],
        let n := sizeBytes x.1
        let w := margAddr x.2 (memCtx .X) .X n
        spanOk w.toNat n = true ∧ w.toNat % n = 0 ∧ Issues (memState .X) (memCtx .X) (.st plain x.1 x.2 6) plain [.X, .L, .S]
          ∧ ∃ segs, Writable (memState .X) (memCtx .X) .X plain x.2.sc (ordRel x.2.ord) [(w.toNat, n)] segs)
      ∧ (∀ x ∈ [(Fmt.raw, (1 : VReg), memAt 9 0), (.fp32, 1, memAt 7 0), (.i6, 0, memAt 7 0), (.pimg, 0, memAt 7 0)],
          let w := margAddr x.2.2 (vecCtx .L) .L 512
          spanOk w.toNat (vmemBytes x.1) = true ∧ w.toNat % 16 = 0
            ∧ (x.1 = .raw ∨ ((vecCtx .L).rV x.2.1).tag = x.1 ∨ x.2.1 = 0)
            ∧ Issues (vecState .L) (vecCtx .L) (.vst plain x.1 x.2.2 x.2.1) plain [.L, .S]
            ∧ ∃ segs, Writable (vecState .L) (vecCtx .L) .L plain .ctx false [(w.toNat, vmemBytes x.1)] segs)
      ∧ gatherTrap (vecCtx .L) .L (someGather 1) true = none
      ∧ (gatherElems (vecCtx .L) .L (someGather 1)).map (fun e => (e.2.toNat, 4)) = idxBytes
      ∧ Issues (vecState .L) (vecCtx .L) (.vstx plain (someGather 1)) plain [.L, .S]
      ∧ (∃ segs, Writable (vecState .L) (vecCtx .L) .L plain .ctx false idxBytes segs)
      ∧ (vecCtx .L).neutral = none ∧ (memCtx .X).neutral = none := by
  simp only [← issues_iff, ← writable_iff]
  decide +kernel

/-- Every piece of the addresses can be reduced: the host takes the operation, nothing is poisoned, the first finds its
credits. -/
def reducible (s : State) (c : Ctx) (q : Seqr) (op : AtomOp) (ps : List (Nat × Nat)) : Bool :=
  match checkGranules s (writeAgent s c q) .write (ps.flatMap fun p => granules (p.2 / 4096 + 2) p.1 p.2) with
  | .ok segs => (segs.all fun x => !poisoned s x.pa x.len) && (hostRedBad s op segs).isNone
      && segs.head?.all fun x => (takeCredits s (writeAgent s c q).polder x.pa).isSome
  | _ => false

theorem witness_Reductions :
    (∀ x ∈ [(AtomOp.add, false, memAt 1 4), (.umax, true, memAt 1 0), (.fadd, false, { memAt 1 0 with ord := .rel })],
        let f := atomFmt x.1 x.2.1
        let n := fmtWidth f / 8
        let w := margAddr x.2.2 (memCtx .S) .S n
        spanOk w.toNat n = true ∧ w.toNat % n = 0 ∧ Issues (memState .S) (memCtx .S) (.red plain x.1 x.2.1 x.2.2 5) plain [.X, .L, .S]
          ∧ (∃ segs, Writable (memState .S) (memCtx .S) .S plain .ctx (ordRel x.2.2.ord) [(w.toNat, n)] segs)
          ∧ reducible (memState .S) (memCtx .S) .S x.1 [(w.toNat, n)] = true)
      ∧ gatherTrap (vecCtx .S) .S (someGather 1) true = none
      ∧ (gatherElems (vecCtx .S) .S (someGather 1)).map (fun e => (e.2.toNat, 4)) = idxBytes
      ∧ Issues (vecState .S) (vecCtx .S) (.vredx plain .fadd (someGather 1)) plain [.L, .S]
      ∧ (∃ segs, Writable (vecState .S) (vecCtx .S) .S plain .ctx false idxBytes segs)
      ∧ reducible (vecState .S) (vecCtx .S) .S .fadd idxBytes = true := by
  simp only [← issues_iff, ← writable_iff]
  decide +kernel

theorem witness_Atomics :
    ∀ y ∈ [(AtomOp.cas, true, (2 : SReg), memAt 1 0), (.add, false, 5, memAt 1 4), (.swap, true, 6, { memAt 9 0 with ord := .ar })],
      let c := (memCtx .X).wS .X 9 (BitVec.ofNat 64 Config.hostBase)
      let s := machine c .X
      let n := fmtWidth (atomFmt y.1 y.2.1) / 8
      let w := margAddr y.2.2.2 c .X n
      Issues s c (.atom plain y.1 y.2.1 y.2.2.2 y.2.2.1) plain [.X, .L, .S] ∧ spanOk w.toNat n = true ∧ w.toNat % n = 0
        ∧ (ordRel y.2.2.2.ord = true → releaseReady s c .X .ctx = true)
        ∧ sideTouches s c.id [(w.toNat, n)] = false ∧ (y.2.2.2.sc = .sys → sysOwed s c .X = false)
        ∧ c.neutral = none ∧ (pieces (checkPages s (writeAgent s c .X 0) .atomic w.toNat n)).length = 1
        ∧ ∀ x ∈ (pieces (checkPages s (writeAgent s c .X 0) .atomic w.toNat n)).head?.toList,
            checkPages s (writeAgent s c .X 0) .atomic w.toNat n = .ok [x] ∧ redsMeet c .X [x] = false ∧ x.pa % 4096 + x.len ≤ 4096
              ∧ (physKind x.pa = .host ∧ hostAtomOk y.1 true = true ∨ physKind x.pa = .hbm 0) ∧ poisoned s x.pa n = false
              ∧ (takeCredits s (effPolder s c) x.pa).isSome = true := by
  simp only [← issues_iff]
  decide +kernel

def lineAt (base : SReg) : LineArg := { base := base, idx := 0, off := 0 }

/-- Region 0 of the pool is open, and its first line is in s1. -/
def poolCtx (q : Seqr) : Ctx := ctxWith q [(1, BitVec.ofNat 64 Config.poolBase), (3, 0x8000000000000000), (7, 0x20000)]
def poolRegion : Region := { Region.reset with valid := true, levee := .opened }
def poolState (q : Seqr) : State := { machine (poolCtx q) q with regions := [(0, poolRegion)], ports := [3, 0, 0, 0] }

theorem witness_LineHints :
    Issues (onX (neutralCtx .X)) (neutralCtx .X) (.pref plain .l1 (lineAt 1)) plain [.X, .L, .S]
      ∧ (neutralCtx .X).neutral.isSome = true ∧ (poolCtx .X).neutral = none
      ∧ (∀ b ∈ [(1 : SReg), 3, 7],
          (∀ i ∈ [Instr.pref plain .l2 (lineAt b), .cmnt plain .l1inv (lineAt b), .cmnt plain .wb (lineAt b), .cmnt plain .wbinv (lineAt b)],
            Issues (poolState .X) (poolCtx .X) i plain [.X, .L, .S])
          ∧ (passes (checkAccess (poolState .X) (agentOf (poolState .X) (poolCtx .X)) .read
              (memAddr (poolCtx .X) .X b 0 0 1).toNat 1 1) = (b != 3)))
      ∧ Issues (poolState .X) (poolCtx .X) (.cmnt plain .l1all (lineAt 0)) plain [.X, .L, .S]
      ∧ (let at_ (b : SReg) := pieces (checkAccess (poolState .X) (agentOf (poolState .X) (poolCtx .X)) .read
            (memAddr (poolCtx .X) .X b 0 0 1).toNat 1 1)
         (at_ 1).map (fun x => physKind x.pa) = [.pool 0] ∧ (at_ 7).map (fun x => physKind x.pa) = [.hbm 0]) := by
  simp only [← issues_iff]
  decide +kernel

theorem witness_VectorLoads :
    (∀ x ∈ [(Fmt.raw, memAt 9 0), (.fp32, memAt 7 0), (.i6, memAt 7 0xFFFFF0), (.pimg, memAt 7 0)],
        let a := (margAddr x.2 (vecCtx .S) .S 512).toNat
        spanOk a (vmemBytes x.1) = true ∧ a % 16 = 0 ∧ Issues (vecState .S) (vecCtx .S) (.vld plain x.1 x.2 31) plain [.L, .S]
          ∧ ∃ segs, Readable (vecState .S) (vecCtx .S) .S (readMode plain x.2.sc) .read [(a, vmemBytes x.1)] segs)
      ∧ gatherTrap (vecCtx .L) .L (someGather 4) false = none
      ∧ Issues (vecState .L) (vecCtx .L) (.vldx plain (someGather 4)) plain [.L, .S]
      ∧ (gatherElems (vecCtx .L) .L (someGather 4)).map (fun e => (e.2.toNat, 4)) = idxBytes
      ∧ (∃ segs, Readable (vecState .L) (vecCtx .L) .L (readMode plain .ctx) .read idxBytes segs) ∧ (vecCtx .L).neutral = none := by
  simp only [← issues_iff, ← readable_iff]
  decide +kernel

/-! Scratchpad, transfers, matrix unit -/

/-- A context with one unit of scratchpad. Pair 1 is s2 and s3: rows of 512 bytes; pair 2, s4 and s5: rows of 2,096. -/
def spRegs : List (SReg × Word) :=
  [(1, 127), (3, 512), (5, 2096), (6, 31), (7, 0x20000), (8, 64), (9, 0x100000001), (10, 0x0100FFC0), (11, 32)
  , (12, 0x1FFFFFC0), (13, 0x20008), (14, 0x1000000000000), (15, 48), (16, 7), (17, 8), (18, 16384), (19, 255), (20, 1)
  , (21, 0x30000000000F), (22, 0x400000)]
def spCtx (q : Seqr) : Ctx :=
  ((({ ctxWith q spRegs with units := 1 }).setTile 3 { TileRec.reset with opened := true, wide := true, vacant := 1 }).setTile 4
      { TileRec.reset with opened := true }).wV 1 { data := BitVec.ofNat 4096 0x3F800000, tag := .fp32, pen := 0 }
/-- Its peer at position 1 of the cluster. -/
def peer : Ctx := { spCtx .X with id := { core := 1, slot := 0 } }
def spState (q : Seqr) : State := { machine (spCtx q) q with ctxs := [spCtx q, peer] }

theorem witness_ScratchpadMoves :
    (∀ x ∈ [(Seqr.L, Fmt.raw), (.C, .i6), (.S, .pimg)],
        let c := spCtx x.1
        spRowTrap c (c.rawDesc x.1 1) (c.rS x.1 1) (vspBytes x.2) = none ∧ matrixBusy c x.1 = false
          ∧ c.spBad (spOffs (c.rawDesc x.1 1).desc (c.rS x.1 1).toNat 0 (vspBytes x.2)) = false
          ∧ Issues (spState x.1) c (.vldScratchpad plain x.2 2 1 1) plain [.L, .C, .S])
      ∧ (∀ f ∈ [Fmt.raw, .fp32], (f = .raw ∨ ((spCtx .C).rV 1).tag = f)
          ∧ memberParked (spState .C) (spCtx .C) ((spCtx .C).rV 1).pen = false
          ∧ Issues (spState .C) (spCtx .C) (.vstScratchpad plain f 1 1 1) plain [.L, .C, .S])
      ∧ (∀ x ∈ [((0 : SReg), (3 : BitVec 3)), (6, 3), (6, 4)],
          let c := spCtx .C
          let t := c.tile x.2
          let row := (c.rS .C x.1).toNat
          t.opened = true ∧ row ≤ 31 ∧ accTrap c (c.rawDesc .C 2) t.width t.width [row] = none ∧ matrixBusy c .C = false
            ∧ memberParked (spState .C) c (if t.vacant.getLsbD row then 0 else t.pens.getD row 0) = false
            ∧ c.spBad (spOffs (c.rawDesc .C 2).desc row 0 (4 * t.width)) = false
            ∧ Issues (spState .C) c (.vldAcc plain x.2 5 2 x.1) plain [.L, .C, .S]) := by
  simp only [← issues_iff]
  decide +kernel

/-- A transfer of zeros, that keeps a place in the engine. -/
def someXfer (n : Nat) : Transfer :=
  { id := n, seq := .L, point := { line := 1, slot := 0, bad := false }, scope := .ctx
    agent := { asid := 0, polder := 0, task := false, launch := none, die := 0, core := some 0, who := none }
    kind := .block true 0x20000 0 1 16 0 { base := 0, tpitch := 0, rpitch := 16, rot := 0 } .flat, progress := 0, fault := none, closing := [], since := 0
    fab := [], rtags := [] }

def block (b p : SReg) (win : Bool) : BlockArg :=
  { sp := 1, b := b, p := p, g := 9, sc := .ctx, win := win, pad := false, ch := .flat }

/-- The members of a bunting, two, and the neutral context of it, with a vault of 512 MiB on die 0. -/
def someMember (n : Nat) : Member :=
  { task := { polder := 0, seq := 1, index := n }, asid := 0, deadline := 0, rowOff := n, rows := 1, inRow0 := 0x20000, inStride := 16
    outRow0 := 0x30000, outStride := 16, adapter := 1, adpBase := 0x40000, aslot := n, enables := 0, parked := none
    firstRow := n, written := 0 }
def someKey : MatchKey := { hash := 0, model := 0, tensor := 0, version := 0, shape := 0 }
def someBunting : Bunting :=
  { id := 1, die := 0, slot := 0, released := 0, key := someKey, members := [someMember 0, someMember 1], image := 7
    running := some { core := 0, slot := 0 }, sample := none, gathered := [], scattered := [] }
def neutralSp (q : Seqr) : Ctx := { spCtx q with neutral := some 1, vault := some 7, priv := .task }
def neutralState (q : Seqr) : State :=
  { machine (neutralSp q) q with
    dies := (List.replicate 4 DieState.reset).modify 0 fun d => { d with vaultSize := 1 }, buntings := [someBunting] }

theorem witness_BlockTransfers :
    (∀ x ∈ [(Seqr.L, true), (.S, false)],
        let s := spState x.1
        let c := spCtx x.1
        let t := block 7 8 false
        let w := block 10 11 true
        c.neutral = none ∧ BlockForm s c x.1 x.2 t ∧ BlockForm s c x.1 x.2 w
          ∧ (∀ r ∈ liveRows c x.1 t, spanOk (blockRow c x.1 t r).toNat (blockBytes (c.rS x.1 9)) = true)
          ∧ (dryWalk s (agentOf s c) (xacc x.2) 0 (blockPieces (c.rS x.1 7) 64 2 32 0)).isNone = true
          ∧ (∃ r ∈ liveRows c x.1 (block 10 22 true), 2 ^ 22 < (c.rS x.1 10).toNat % 2 ^ 22 + r * ((c.rS x.1 22).toNat % 2 ^ 32) + 32)
          ∧ blockReservedOk (c.rS x.1 22) (c.rS x.1 9) = true ∧ (c.rS x.1 22).toNat % 16 = 0
          ∧ answers (winCheck s c (c.rS x.1 10) ((liveRows c x.1 w).map fun r => (blockRow c x.1 w r, 32))) = true
          ∧ (c.rS x.1 13).toNat % 16 ≠ 0 ∧ engineRoom s c = true)
      ∧ (∀ t ∈ [block 7 8 false, block 10 11 true, block 10 22 true, block 13 8 false],
          Issues (spState .L) (spCtx .L) (.tld plain t) plain [.L] ∧ Issues (spState .S) (spCtx .S) (.tst plain t) plain [.S])
      ∧ (let c := neutralSp .L
         let s := neutralState .L
         let t := block 12 11 false
         Issues s c (.tld plain t) plain [.L] ∧ BlockForm s c .L true t
           ∧ c.neutral.isSome = true ∧ (liveRows c .L t).map (fun r => vaultPhys s (blockRow c .L t r) 32) = [some 0x163FFFFFC0, some 0x163FFFFFE0]
           ∧ ∀ a ∈ [0x163FFFFFC0, 0x163FFFFFE0], linkUp s (dieOf c.id.core) (farDie a) = true)
      ∧ (let c := { spCtx .L with xfers := (List.range 8).map someXfer }
         Issues (machine c .L) c (.tld plain (block 7 8 false)) plain [.L] ∧ engineRoom (machine c .L) c = false) := by
  simp only [← issues_iff, BlockForm]
  decide +kernel

def rowsArg (b n g : SReg) : RowArg := { sp := 1, b := b, n := n, g := g, ch := .flat }

theorem witness_RowTransfers :
    (∀ k ∈ [(0 : Nat), 19],
        let x : SReg × SReg := (BitVec.ofNat 6 k, 20)
        let s := neutralState .L
        let c := neutralSp .L
        c.neutral = some 1 ∧ engineRoom s c = true ∧ (c.rS .L 21).extractLsb' 12 20 = 0
          ∧ ((c.rS .L 21).extractLsb' 32 32).toNat % 16 = 0 ∧ c.rS .L x.2 ≠ 0 ∧ (c.rS .L x.1).toNat + (c.rS .L x.2).toNat ≤ 256
          ∧ descTrap c (c.rawDesc .L 1) (xferSpans .flat (c.rawDesc .L 1).desc (c.rS .L x.2).toNat (blockBytes (c.rS .L 21))) = none
          ∧ Issues s c (.tldRows plain (rowsArg x.1 x.2 21)) plain [.L]
          ∧ Issues (neutralState .S) (neutralSp .S) (.tscat plain (rowsArg x.1 x.2 21)) plain [.S])
      ∧ (let s := neutralState .L
         let c := (neutralSp .L).wS .L 22 0x1000000020
         let s := { s with ctxs := [c] }
         let b0 := c.rS .L 20
         let n := c.rS .L 22
         let g := c.rS .L 9
         let raw := c.rawDesc .L 1
         bunting s 1 = some someBunting ∧ memberOf s 1 b0.toNat = some (someMember 0) ∧ b0 ≠ 0
           ∧ b0.toNat ≤ someBunting.members.length ∧ n.toNat % 2 ^ 32 % 16 = 0 ∧ (n.extractLsb' 32 32).toNat % 16 = 0
           ∧ g.extractLsb' 44 20 = 0 ∧ g.extractLsb' 12 20 = 0 ∧ raw.desc.aligned = true ∧ raw.reservedOk = true
           ∧ (∀ z ∈ xferSpans .flat { raw.desc with base := raw.desc.base } (blockRows g) (blockBytes g), c.spanIn raw.desc z.1 z.2.1 z.2.2 = true)
           ∧ Issues s c (.tldAdp plain (rowsArg 20 22 9)) plain [.L]) := by
  simp only [← issues_iff]
  decide +kernel

/-- R237, R238: stage 2 of polder 0 maps the first 512 MiB and the first 512 MiB of the host window to themselves: the root
at 0x80000, its tables at 0x90000 and 0xA0000. -/
def stage2On (s : State) : State :=
  { s with
    mem := [⟨0x80000, 0x02⟩, ⟨0x80002, 0x09⟩, ⟨0x80200, 0x02⟩, ⟨0x80202, 0x0A⟩, ⟨0x90000, 0x1D⟩, ⟨0xA0000, 0x1D⟩, ⟨0xA0006, 1⟩]
    polders := s.polders.modify 0 fun p => { p with s2en := true, s2root := 8 } }
/-- Key slot 0 holds a sealing key, whose last counter is 7. -/
def sealed (q : Seqr) : State :=
  { stage2On (spState q) with keys := (spState q).keys.set 0 { gen := 1, sealKey := some (0, 0), lastctr := 7 } }

theorem witness_SealedCopies :
    let s := sealed .L
    let c := spCtx .L
    (∀ s ∈ [sealed .L, stage2On (spState .L)], ∀ x ∈ [((0 : BitVec 5), (15 : SReg)), (0, 18), (1, 15)],
          (∀ i ∈ [Instr.scopy plain x.1 22 7 14 x.2 16, .scopy plain x.1 22 7 14 x.2 17], Issues s c i plain [.L]) ∧ c.neutral = none ∧ engineRoom s c = true
            ∧ (getPolder s (agentOf s c).polder).tdi ≠ 3
            ∧ answers (scopySpans s (agentOf s c) (c.rS .L 7) (c.rS .L 14) (c.rS .L x.2).toNat) = true
            ∧ spanOk (c.rS .L 7).toNat (c.rS .L x.2).toNat = true ∧ spanOk (c.rS .L 14).toNat ((c.rS .L x.2).toNat + 16) = true
            ∧ (c.rS .L x.2).toNat % 16 = 0 ∧ (c.rS .L x.2).toNat ≠ 0 ∧ (c.rS .L x.2).toNat ≤ 2 ^ 24)
      ∧ Issues s c (.scopy plain 0 22 7 7 15 16) plain [.L] ∧ spanOk (c.rS .L 7).toNat ((c.rS .L 15).toNat + 16) = true
      ∧ (match scopySpans s (agentOf s c) (c.rS .L 7) (c.rS .L 7) (c.rS .L 15).toNat with
          | .error (.trap cause _) => cause == 0x0B
          | _ => false) = true
      ∧ (getPolder s 0).keys.getLsbD 0 = true ∧ (getPolder s 0).keys.getLsbD 1 = false ∧ (getKey s 0).sealKey.isSome = true
      ∧ (getKey (stage2On (spState .L)) 0).sealKey = none ∧ (c.rS .L 16).toNat ≤ (getKey s 0).lastctr.toNat
      ∧ (getKey s 0).lastctr.toNat < (c.rS .L 17).toNat := by
  simp only [← issues_iff]
  and_intros <;> decide +kernel

def someWld (form : MForm) : WldArg := { sc := .ctx, ws := true, wf := .w4g48, form := form }
def gangSp (q : Seqr) (pos : Nat) : Ctx :=
  { spCtx q with gang := some { polder := 0, seq := 1, gang := 0, pos := pos }, id := { core := pos, slot := 0 } }

theorem witness_WeightLoadsAndRotation :
    (∀ x ∈ [(MForm.dense, true), (.s6, false)],
        let w : WldCmd := { addr := 0x20000, ws := true, wf := .w4g48, form := x.1 }
        Issues (spState .L) (spCtx .L) (.wld plain (someWld x.1) 7) plain [.L]
          ∧ ((spCtx .L).rS .L 7).toNat % 16 = 0 ∧ spanOk 0x20000 (tileBytes .w4g48 x.1) = true
          ∧ ∀ r ∈ (wldRead (spState .L) (spCtx .L) (agentOf (spState .L) (spCtx .L)) [] w).toOption,
              (r.2.2.all fun y => !y.fabric) = true ∧ metaOk r.1 .w4g48 x.1 = x.2)
      ∧ (let c := (spCtx .L).wS .L 23 0x8000000000000000
         Issues (machine c .L) c (.wld plain (someWld .dense) 23) plain [.L]
           ∧ spanOk (c.rS .L 23).toNat (tileBytes .w4g48 .dense) = false)
      ∧ Issues (spState .L) (spCtx .L) (.wld plain (someWld .dense) 13) plain [.L] ∧ ((spCtx .L).rS .L 13).toNat % 16 ≠ 0
      ∧ (let c := gangSp .L 0
         Issues (machine c .L) c (.rrot plain 1 2 18) plain [.L] ∧ c.gang.isSome = true ∧ c.neutral = none
           ∧ (c.rawDesc .L 1).desc.base % 16 = 0 ∧ (c.rawDesc .L 2).desc.base % 16 = 0 ∧ (c.rS .L 18).toNat % 16 = 0
           ∧ (c.rS .L 18).toNat ≠ 0 ∧ (c.rS .L 18).toNat ≤ 16384 ∧ (c.rawDesc .L 1).reservedOk = true
           ∧ (c.rawDesc .L 2).reservedOk = true ∧ (c.rawDesc .L 1).desc.base + (c.rS .L 18).toNat ≤ c.spBytes
           ∧ (c.rawDesc .L 2).desc.base + (c.rS .L 18).toNat ≤ c.spBytes ∧ releaseReady (machine c .L) c .L .cluster = true) := by
  simp only [← issues_iff]
  decide +kernel

/-- Staging slot 1 holds a dense tile of W4G48; v0 to v11 are E4M3. -/
def matCtx (form : MForm) : Ctx :=
  (List.range 12).foldl (fun c k => c.wV (BitVec.ofNat 5 k) { data := 0, tag := .e4m3, pen := 0 })
    { spCtx .C with slots := [.empty, { StageSlot.empty with data := some { wf := .w4g48, form := form, tile := [] } }] }
def matState (form : MForm) : State := machine (matCtx form) .C
def someMma (form : MForm) (trec : BitVec 3) (a : AOp) : MmaArg :=
  { acc := 2, a := a, trec := trec, ws := true, af := .e4m3, wf := .w4g48, form := form, kx := 0, re := 0, ce := 0 }
def someMmag (trec : BitVec 3) (up : Bool) (nm1 : BitVec 5) : MmagArg :=
  { acc := 2, a := .scratch 2, adp := 1, trec := trec, up := up, af := .e4m3, nm1 := nm1, as := 1, re := 0, ce := 0 }

theorem witness_MatrixInstructions :
    let matState := matState .dense
    let matCtx := matCtx .dense
    unitBusy matState matCtx.id.core = false
      ∧ (∀ x ∈ [((0 : BitVec 3), AOp.group 0), (3, .group 0), (3, .scratch 2), (4, .group 0)],
          Issues matState matCtx (.mma plain (someMma .dense x.1 x.2)) plain [.C]
            ∧ Issues (Tests.matState .s6) (Tests.matCtx .s6) (.mmas plain (someMma .s6 x.1 x.2)) plain [.C]
            ∧ aTagsOk matCtx .e4m3 x.2 = true ∧ (∀ form ∈ [MForm.dense, .s6], aSizeOk .e4m3 (formK form) x.2 = true
              ∧ aTrap matCtx .C .e4m3 (formK form) x.2 = none) ∧ aPenOk matCtx (matCtx.tile x.1) x.2 = true)
      ∧ (matCtx.slots[1]?).map (fun y => (y.filling, y.data.any fun d => d.wf == .w4g48 && d.form == .dense)) = some (false, true)
      ∧ (matCtx.tile 0).opened = false ∧ (matCtx.tile 3).opened = true ∧ (matCtx.tile 3).wide = true
      ∧ (matCtx.tile 4).opened = true ∧ (matCtx.tile 4).wide = false
      ∧ accTrap matCtx (matCtx.rawDesc .C 2) 96 96 (List.range 32) = none
      ∧ (∀ g ∈ [someMmag 3 true 31, someMmag 4 false 0],
          let k := if g.up then g.nm1.toNat + 1 else 96
          let cmd : MatCmd :=
            { kind := .mmag (matCtx.rawDesc .C g.adp).desc g.up g.af (g.nm1.toNat + 1) g.as.toNat, trec := g.trec
              acc := (matCtx.rawDesc .C g.acc).desc, a := captureA matCtx .C g.a, padRows := 0, padCols := 0, re := 0, ce := 0 }
          Issues matState matCtx (.mmag plain g) plain [.C] ∧ aTagsOk matCtx g.af g.a = true
            ∧ (matCtx.tile g.trec).opened = true ∧ (matCtx.tile g.trec).wide = g.up ∧ aSizeOk g.af k g.a = true
            ∧ accTrap matCtx (matCtx.rawDesc .C g.acc) (if g.up then 96 else 32) (if g.up then 96 else g.nm1.toNat + 1) (List.range 32) = none
            ∧ aTrap matCtx .C g.af k g.a = none
            ∧ descTrap matCtx (matCtx.rawDesc .C g.adp)
                (adpSpans matState matCtx (matCtx.rawDesc .C g.adp).desc cmd g.up (g.nm1.toNat + 1) g.as.toNat) = none
            ∧ aPenOk matCtx (matCtx.tile g.trec) g.a = true)
      ∧ (∀ w32 ∈ [true, false], Issues matState matCtx (.mzero plain w32 0 2 16) plain [.C]
          ∧ Issues matState matCtx (.mzero plain w32 0 2 17) plain [.C]
          ∧ accTrap matCtx (matCtx.rawDesc .C 2) (if w32 then 32 else 96) (if w32 then 32 else 96) (List.range 32) = none)
      ∧ (matCtx.rS .C 16).toNat = 7 ∧ (matCtx.rS .C 17).toNat = 8
      ∧ (∀ i ∈ [Instr.mstat plain 0 1, .mstat plain 3 1], Issues matState matCtx i plain [.C])
      ∧ matCtx.matrix = [] ∧ (matCtx.tile 3).win.length < 512 := by
  simp only [← issues_iff]
  decide +kernel

/-! Vectors -/

/-- Registers v1 to v3 of a format with pennants p, q, p; in a bunting whose members 1 to 3 have all enables, a parked row and
none. The elements of v1 and v2 overflow FP32 under VADD. -/
def vC (f : Fmt) (p q : BitVec 12) (n : Bool) : Ctx :=
  let r (x : BitVec 12) : VecReg := { data := BitVec.ofNat 4096 0x7F7FFFFF, tag := f, pen := x }
  let c := ((((ctxWith .C [(1, 0x7F), (2, 1), (3, 130)]).wV 1 (r p)).wV 2 (r q)).wV 3 (r p)).wQ 1 (~~~ 0)
  if n then { c with neutral := some 1, vault := some 7, priv := .task } else c
def vS (f : Fmt) (p q : BitVec 12) (n : Bool) : State :=
  { machine (vC f p q n) .C with
    buntings := [{ someBunting with members :=
      [{ someMember 0 with enables := 31 }, { someMember 1 with parked := some 5 }, someMember 2] }] }

/-- The hypotheses of GivesVector and GivesOther at one state. -/
def vecMeets (g : Fmt) (srcs : Ctx → List VecReg) (i : Instr) (f : Fmt) (p q : BitVec 12) (n : Bool) (r : Pennants)
    (en : Option (Nat × BitVec 5)) : Bool :=
  issuesB (vS f p q n) (vC f p q n) i plain [.C] && (tagged g (srcs (vC f p q n)) || g == .raw)
    && pennants (vS f p q n) (vC f p q n) (srcs (vC f p q n)) == r
    && (match r with | .carries x => memberEnables (vS f p q n) (vC f p q n) x == en | _ => true)

/-- Every case of GivesVector for an instruction of a format: no bunting, a member's own enables, all and none, a parked
member, and with two sources a mix. -/
def vecCases (f : Fmt) (srcs : Ctx → List VecReg) (two : Bool) (i : Instr) : Bool :=
  vecMeets f srcs i f 0 0 false (.carries 0) none && vecMeets f srcs i f 1 1 true (.carries 1) (some (1, 31))
    && vecMeets f srcs i f 3 3 true (.carries 3) (some (1, 0)) && vecMeets f srcs i f 2 2 true (.parked 2) none
    && (!two || vecMeets f srcs i f 1 3 true .mix none)

/-- The tag is wrong, and the instruction issues. -/
def wrongTag (f : Fmt) (i : Instr) : Bool := issuesB (vS .raw 0 0 false) (vC .raw 0 0 false) i plain [.C] && f != .raw

def one (c : Ctx) : List VecReg := [c.rV 1]
def both (c : Ctx) : List VecReg := [c.rV 1, c.rV 2]
def three (c : Ctx) : List VecReg := [c.rV 1, c.rV 2, c.rV 3]
def vm (f : Fmt) : VMod := { fmt := f, rm := .dyn, sat := false, pz := false, lane := none }
def lanes (f : Fmt) (pz : Bool) : VMod := { vm f with pz := pz, lane := some 1 }

theorem witness_VectorArithmetic :
    (∀ f ∈ [Fmt.fp32, .i8],
        (∀ i ∈ [Instr.vadd plain (vm f) 5 1 (.v 2), .vsub plain (lanes f true) 1 1 (.v 2), .vmul plain (vm f) 5 1 (.v 2)
              , .vmin plain (vm f) 5 1 (.v 2), .vmax plain (lanes f false) 5 1 (.v 2)],
            vecCases f both true i = true ∧ wrongTag f i = true)
          ∧ (let i := Instr.vfma plain (vm f) 5 1 (.v 2) (.v 3); vecCases f three true i = true ∧ wrongTag f i = true)
          ∧ (∀ i ∈ [Instr.vadd plain (vm f) 5 1 (.s 1), .vabs plain (vm f) 5 1, .vneg plain (vm f) 31 1],
            vecCases f one false i = true ∧ wrongTag f i = true))
      ∧ tagged .fp32 (both (vC .raw 0 0 false)) = false ∧ tagged .i8 (one (vC .raw 0 0 false)) = false := by
  decide +kernel

theorem witness_VectorBits :
    (∀ f ∈ [Fmt.i16, .raw], ∀ i ∈ [Instr.vand plain (vm f) 5 1 (.v 2), .vor plain (vm f) 5 1 (.v 2), .vxor plain (lanes f true) 5 1 (.v 2)
          , .vsel plain (vm f) 5 1 2 1], vecCases f both true i = true)
      ∧ (∀ i ∈ [Instr.vshl plain (vm .z32) 5 1 (.v 2), .vshr plain (vm .z32) 5 1 (.v 2)], vecCases .z32 both true i = true
          ∧ wrongTag .z32 i = true)
      ∧ vecCases .i8 one false (.vpcnt plain (.elems (vm .i8) 5 1)) = true
      ∧ issuesB (vS .raw 0 0 false) (vC .raw 0 0 false) (.vpcnt plain (.pred .i64 5 1)) plain [.C] = true := by
  decide +kernel

theorem witness_ComparesAndPredicates :
    (∀ i ∈ [Instr.vcmp plain .un (vm .fp32) 7 1 (.v 2), .vcmp plain .lt (lanes .fp32 true) 1 1 (.v 2)],
        vecCases .fp32 both true i = true ∧ wrongTag .fp32 i = true)
      ∧ vecCases .i64 both true (.vbtst plain (lanes .i64 false) 1 1 (.v 2)) = true
      ∧ (∀ i ∈ [Instr.qand plain true false true 1 1 2, .qor plain false true false 1 1 1, .qnot plain 0 1],
          issuesB (vS .raw 0 0 false) (vC .raw 0 0 false) i plain [.C] = true) := by
  decide +kernel

theorem witness_VectorReductions :
    (∀ i ∈ [Instr.vred plain .add (vm .fp32) 5 1, .vscan plain .max (lanes .fp32 true) 5 1, .vsfn plain .rcp (vm .fp32) 5 1
          , .vcvt plain .i32 (vm .fp32) 5 1], vecCases .fp32 one false i = true ∧ wrongTag .fp32 i = true)
      ∧ vecCases .i8 one false (.vred plain .xor (vm .i8) 1 1) = true
      ∧ vecCases .fp32 (fun c => c.rGroup 2 2) true (.vcvt plain .bf16 (vm .fp32) 5 2) = true
      ∧ vecCases .bf16 one false (.vcvt plain .fp32 (vm .bf16) 30 1) = true := by
  decide +kernel

theorem witness_VectorPermutesAndMoves :
    (∀ i ∈ [Instr.vpack plain true (vm .i16) 5 1 2, .vunpk plain false (vm .i16) 5 1 2], vecCases .i16 both true i = true
        ∧ wrongTag .i16 i = true)
      ∧ vecCases .z16 both true (.vperm plain (vm .z16) 5 1 2) = true
      ∧ (∀ i ∈ [Instr.vbcast plain (vm .i16) (.vector 5 1 3), .vcprs plain (lanes .i16 false) 5 1, .vxpnd plain (lanes .i16 true) 5 1
            , .vmovs plain (.move .i16 false none 5 1), .vmovs plain (.as .i16 true (some 1) 5 1), .vmovs plain (.ins .i16 1 1 3)
            , .vmovs plain (.ext .i16 5 1 3)], vecCases .i16 one false i = true)
      ∧ (∀ i ∈ [Instr.vbcast plain (vm .i16) (.scalar 5 1), .vidx plain (vm .i16) 5 1 2, .vmovs plain (.fromq 5 1)],
          vecMeets .i16 (fun _ => []) i .i16 0 0 false (.carries 0) none = true)
      ∧ vecCases .pimg one false (.vmovs plain (.toq 1 1)) = true := by
  decide +kernel

/-! Tasks, deques, watchpoints, queries, system registers -/

/-- Records of zeros at 0x20000 (one task, which R103 accepts), at 0x20100 with byte 27 set, at 0x20200 with three tasks for
identifiers of one bit, and at 0x20300 with a carve-out of 44 units. -/
def subCtx : Ctx := ctxWith .X [(1, 0x20000), (2, 0x20100), (3, 0x20200), (4, 0x20300), (5, 0x20080), (6, 8)]
def subState : State := { machine subCtx .X with mem := [⟨0x2011B, 1⟩, ⟨0x20218, 2⟩, ⟨0x2031D, 44⟩] }
def readsB (r : Except Act (State × List Byte)) (p : State → List Byte → Bool) : Bool :=
  match r with
  | .ok x => p x.1 x.2
  | .error _ => false

theorem witness_SubmissionAndChecks :
    let s := subState
    let c := subCtx
    let y := submitterOf s c
    let rd (r : SReg) : Except Act (State × List Byte) := readMem s c .X (c.rS .X r).toNat 256 1
    (∀ i ∈ [Instr.tsub plain 7 1 6, .tsub plain 0 1 0, .tsub plain 7 2 6, .tsub plain 7 3 6, .tsub plain 7 4 6, .tsub plain 7 5 6],
        Issues s c i plain [.X])
      ∧ c.neutral = none ∧ (c.rS .X 6).toNat % 8 = 0 ∧ releaseReady s c .X .sys = true ∧ s.polders.length = 16
      ∧ (∀ r ∈ [(0x20000 : Nat), 0x20100, 0x20200, 0x20300], r % 256 = 0) ∧ (c.rS .X 5).toNat % 256 ≠ 0
      ∧ readsB (rd 1) (fun s1 bs => recordHead s1 y (c.rS .X 1) bs == none && !(parseRecord bs).coal
          && recordTail s1 (parseRecord bs) [] == none
          && (newLaunch s1 y (parseRecord bs) (fpcrEnables c.fpcr) 8).polder == 0) = true
      ∧ queueFull s 0 = false ∧ arrivalsWait s 0 = false
      ∧ readsB (rd 2) (fun _ bs => !recordWellFormed bs) = true
      ∧ readsB (rd 3) (fun s1 bs => recordWellFormed bs && !recordCheck2 s1 y (parseRecord bs)) = true
      ∧ readsB (rd 4) (fun s1 bs => recordWellFormed bs && recordCheck2 s1 y (parseRecord bs)
          && !recordCheck3 s1 y (parseRecord bs)) = true := by
  simp only [← issues_iff]
  decide +kernel

/-- A launch of four tasks in polder 0, whose second runs in slot 1. -/
def fourTasks : Launch := aLaunch [.queued, .running, .done, .rejected]
def canCtx : Ctx := ctxWith .X [(1, 1), (2, 0x10000000000001), (3, 0x1000000000001), (4, 2), (5, 3), (6, 4)]
def runner : Ctx := { bootCtx .X with id := { core := 0, slot := 1 }, task := some { polder := 0, seq := 1, index := 1 } }
def canState : State := { queued (machine canCtx .X) [fourTasks] with ctxs := [canCtx, runner] }

theorem witness_Cancellation :
    (∀ i ∈ [Instr.tcan plain false 7 1 0, .tcan plain true 7 2 0, .tcan plain false 7 3 0, .tcan plain false 7 4 0, .tcan plain false 7 1 1
          , .tcan plain false 7 1 4, .tcan plain false 7 1 5, .tcan plain false 7 1 6], Issues canState canCtx i plain [.X])
      ∧ canCtx.neutral = none ∧ effPolder canState canCtx = 0
      ∧ (canCtx.rS .X 2).extractLsb' 52 12 ≠ 0 ∧ (canCtx.rS .X 3).extractLsb' 48 4 ≠ 0
      ∧ findLaunch canState 0 ((canCtx.rS .X 4).extractLsb' 0 48) = none
      ∧ (canCtx.rS .X 1).extractLsb' 52 12 = 0 ∧ (canCtx.rS .X 1).extractLsb' 48 4 = 0
      ∧ findLaunch canState 0 ((canCtx.rS .X 1).extractLsb' 0 48) = some fourTasks ∧ canState.polders.length = 16
      ∧ fourTasks.rcd.count = 4 ∧ fourTasks.tasks.length = 4 ∧ taskState fourTasks 0 = .queued ∧ taskState fourTasks 1 = .running
      ∧ taskState fourTasks 2 = .done ∧ taskState fourTasks 3 = .rejected
      ∧ ((canCtx.rS .X 0).toNat, (canCtx.rS .X 1).toNat, (canCtx.rS .X 4).toNat, (canCtx.rS .X 6).toNat) = (0, 1, 2, 4) := by
  simp only [← issues_iff]
  decide +kernel

/-- The deque of core 0: an owner and its entries. -/
def dequeState (c : Ctx) (owner : Option Nat) (l : List Word) : State :=
  { machine c .X with cores := State.reset.cores.modify 0 fun k => { k with owner := owner, deque := l } }

/-- The deque of core 39, the last of die 0, which a context in its slot 2 owns. -/
def stealCtx : Ctx := ctxWith .X [(1, 39), (2, 40), (3, 160), (4, 38)]
def stealState : State :=
  { machine stealCtx .X with
    cores := State.reset.cores.modify 39 fun k => { k with owner := some 2, deque := [7, 8] }
    ctxs := [stealCtx, { bootCtx .X with id := { core := 39, slot := 2 } }] }

theorem witness_DequesAndStealing :
    (∀ c ∈ [corner, { corner with dqLost := true }],
        ∀ i ∈ [Instr.dqpush plain 5 1, .dqpop plain 5 6, .dqpop plain 6 6], Issues (dequeState c (some 1) []) c i plain [.X]
          ∧ releaseReady (dequeState c (some 1) []) c .X .die = true)
      ∧ (∀ x ∈ [((none : Option Nat), ([] : List Word)), (some 0, [7, 8]), (some 0, List.replicate 63 7), (some 0, List.replicate 64 7)],
          let s := dequeState corner x.1 x.2
          (∀ i ∈ [Instr.dqpush plain 5 1, .dqpop plain 5 6], Issues s corner i plain [.X]) ∧ (getCore s 0).owner = x.1
            ∧ (getCore s 0).deque = x.2 ∧ corner.id.core < s.cores.length ∧ releaseReady s corner .X .die = true)
      ∧ (∀ i ∈ [Instr.dqstl plain 5 6 (some 1), .dqstl plain 5 5 (some 1), .dqstl plain 5 6 (some 2), .dqstl plain 5 6 (some 3)
              , .dqstl plain 5 6 (some 4)], Issues stealState stealCtx i plain [.X])
      ∧ stealCtx.neutral = none ∧ dieOf 39 = dieOf stealCtx.id.core ∧ victim stealState stealCtx.polder 39 = [7, 8]
      ∧ dieOf 40 ≠ dieOf stealCtx.id.core ∧ victim stealState stealCtx.polder 38 = [] := by
  simp only [← issues_iff]
  decide +kernel

/-- The same with a deque of core 3. -/
def nearState : State :=
  { stealState with
    cores := stealState.cores.modify 3 fun k => { k with owner := some 2, deque := [9] }
    ctxs := stealState.ctxs ++ [{ bootCtx .X with id := { core := 3, slot := 2 } }] }
def entriesOf (s : State) (k : Nat) : Nat := (victim s 0 k).length

/-- R85: of the context's own cluster only core 3 has entries; of the others of its die core 39 has the most; and no core
has any. -/
theorem witness_DequesAndStealing_any :
    clusterOf 3 = clusterOf 0 ∧ dieOf 39 = dieOf 0 ∧ clusterOf 39 ≠ clusterOf 0
      ∧ (∀ j ∈ List.range 160, clusterOf j = clusterOf 0 ∧ j ≠ 0 → entriesOf nearState j < entriesOf nearState 3 ∨ (entriesOf nearState j = entriesOf nearState 3 ∧ 3 ≤ j))
      ∧ (∀ j ∈ List.range 160, clusterOf j = clusterOf 0 ∧ j ≠ 0 → victim stealState 0 j = [])
      ∧ (∀ j ∈ List.range 160, dieOf j = dieOf 0 ∧ clusterOf j ≠ clusterOf 0 →
          entriesOf stealState j < entriesOf stealState 39 ∨ (entriesOf stealState j = entriesOf stealState 39 ∧ 39 ≤ j))
      ∧ (∀ j ∈ List.range 160, victim (machine stealCtx .X) 0 j = []) := by
  and_intros <;> decide +kernel

/-- Descriptors of watchpoints (R128): of zeros at 0x20000, which has no length, and of 8 bytes at 0x30000 at 0x20040. -/
def watchCtx : Ctx := ctxWith .X [(1, 0x20000), (2, 0x20040), (3, 0x20020), (4, 1023)]
def aWatch : Watch :=
  { polder := 0, asid := 0, regs := [(3, 255)], pieces := [], rearm := false, mask := 0, value := 0, rcd := 0, compl := 0
    heldFire := false, counted := 0, serial := 1 }
def watchState : State := { machine watchCtx .X with mem := [⟨0x20042, 3⟩, ⟨0x20048, 8⟩], watches := [aWatch] }

theorem witness_Watchpoints :
    let s := watchState
    let c := watchCtx
    (∀ i ∈ [Instr.watch plain 5 1, .watch plain 5 2, .watch plain 5 3, .unwatch plain 5 1, .unwatch plain 5 4], Issues s c i plain [.X])
      ∧ c.effPriv ≠ .task ∧ c.neutral = none ∧ (c.rS .X 3).toNat % 64 ≠ 0
      ∧ readsB (readMem s c .X 0x20000 64 64) (fun s1 b => !answers (makeWatch s1 c b)) = true
      ∧ readsB (readMem s c .X 0x20040 64 64) (fun s1 b => answers (makeWatch s1 c b)) = true
      ∧ (∀ w ∈ s.watches, wpIdOf w = (c.rS .X 1).toNat → w.polder ≠ effPolder s c)
      ∧ (s.watches.find? fun w => wpIdOf w == (c.rS .X 4).toNat && w.polder == effPolder s c) = some aWatch := by
  simp only [← issues_iff]
  decide +kernel

/-- Entry 511 of the residency table of core 39, of polder 0. -/
def queryCtx (p : Priv) : Ctx := { ctxWith .X [(1, 39), (2, 511), (3, 40), (4, 512), (5, 160)] with priv := p }
def queryState (p : Priv) (n : Nat) : State :=
  { machine (queryCtx p) .X with
    cycle := n
    cores := State.reset.cores.modify 39 fun k => { k with resid := [(511, 5)] }
    dies := State.reset.dies.modify 0 fun d => { d with summary := [(511, 5)] } }

theorem witness_QueriesAndCounters :
    (∀ i ∈ [Instr.resq plain false 6 1 2, .resq plain false 6 3 2, .resq plain false 6 1 4, .resq plain false 6 5 2, .resq plain true 6 0 2],
        Issues (queryState .task 0) (queryCtx .task) i plain [.X])
      ∧ dieOf 39 = dieOf (queryCtx .task).id.core ∧ dieOf 40 ≠ dieOf (queryCtx .task).id.core
      ∧ (∀ x ∈ [(Priv.task, 179999), (.task, 180000), (.reeve, 0)],
          ∀ i ∈ [Instr.rdtime plain 6, .rdcnt plain 6 0, .rdcnt plain 6 6, .rdcnt plain 6 7, .rdcnt plain 6 16, .rdcnt plain 6 37],
            Issues (queryState x.1 x.2) (queryCtx x.1) i plain allSeqs)
      ∧ (queryCtx .task).effPriv ≠ .reeve ∧ (queryCtx .reeve).effPriv = .reeve := by
  simp only [← issues_iff]
  decide +kernel

/-- Function 0, enabled or not, masked or not, with entry 63 unmasked or not; the TDI state of polder 0. -/
def notifyCtx : Ctx := ctxWith .X [(1, 63), (2, 64)]
def notifyState (en fm em : Bool) (tdi : BitVec 2) : State :=
  { machine notifyCtx .X with
    polders := State.reset.polders.modify 0 fun p => { p with tdi := tdi }
    fns := State.reset.fns.set 0 { enable := en, fmask := fm, table := [(63, { addr := 0xFEE00000, data := 1, mask := em, pend := false })] } }

theorem witness_Notify :
    (∀ x ∈ [(false, false, false), (true, false, false), (true, true, false), (true, false, true)],
        let s := notifyState x.1 x.2.1 x.2.2 2
        (∀ i ∈ [Instr.notify plain 5 1, .notify plain 5 2], Issues s notifyCtx i plain [.X]) ∧ notifyCtx.neutral = none
          ∧ releaseReady s notifyCtx .X .sys = true ∧ (getPolder s (effPolder s notifyCtx)).tdi ≠ 3
          ∧ (getFn s 0).enable = x.1 ∧ (getFn s 0).fmask = x.2.1 ∧ (msixEntry (getFn s 0) 63).mask = x.2.2 ∧ 0 < s.fns.length)
      ∧ Issues (notifyState true false false 3) notifyCtx (.notify plain 5 1) plain [.X]
      ∧ releaseReady (notifyState true false false 3) notifyCtx .X .sys = true
      ∧ (getPolder (notifyState true false false 3) 0).tdi = 3 := by
  simp only [← issues_iff]
  decide +kernel

theorem witness_SystemRegisters :
    (∀ c ∈ [bootCtx .X, { bootCtx .X with pdsel := 1 }],
        ∀ r ∈ [SysReg.fpcr, .trec, .taddr, .workid, .rtvec, .padrows, .padcols, .ctxas, .lhandle, .tvec, .pgcfg, .prsel],
          sysAllowed (onX c) c r = true ∧ sysTested (onX c) c r = true ∧ Issues (onX c) c (.sysrd plain 1 r) plain allSeqs
            ∧ Issues (onX c) c (.syswr plain r 1) plain allSeqs ∧ c.x.ops = []
            ∧ sysWaits (onX c) c r (c.rS .X 1) = false
            ∧ releaseReady (onX c) c .X .ctx = true ∧ releaseReady (onX c) c .X .dev = true ∧ getCtx (onX c) c.id = some c)
      ∧ polderAbsent (onX (bootCtx .X)) (regPolder (onX (bootCtx .X)) (bootCtx .X)) = false
      ∧ polderAbsent (onX { bootCtx .X with pdsel := 1 }) 1 = true
      ∧ regPolder (onX { bootCtx .X with pdsel := 1 }) { bootCtx .X with pdsel := 1 } = 1 := by
  simp only [← issues_iff]
  decide +kernel

theorem witness_TranslationInvalidate :
    (let c := ctxWith .X [(1, 511), (2, 512), (3, 15), (4, 16)]
     (∀ x ∈ [(Instr.tlbinv plain false true 1 0 0, true), (.tlbinv plain false false 2 0 0, false), (.tlbinv plain true true 3 0 0, true)
           , (.tlbinv plain true false 4 0 0, false)], Issues (onX c) c x.1 plain [.X])
       ∧ tlbOk (onX c) c false 511 = true ∧ tlbOk (onX c) c false 512 = false ∧ tlbOk (onX c) c true 15 = true
       ∧ tlbOk (onX c) c true 16 = false ∧ 2 ≤ privNat c.effPriv ∧ releaseReady (onX c) c .X .dev = true
       ∧ (onX c).polders.all (fun p => p.queue.all fun l => !l.tokenHeld) = true ∧ (onX c).watches = []
       ∧ (onX c).lateTokens = [] ∧ translatedWait (onX c) = false
       ∧ (∀ r ∈ [(3 : SReg), 1], (c.rS .X 2).toNat < min ((c.rS .X 2).toNat + (c.rS .X r).toNat) (2 ^ 64)))
      ∧ (let c := { ctxWith .X [(1, 511)] with priv := .steward }
         Issues (onX c) c (.tlbinv plain false true 1 0 0) plain [.X] ∧ tlbOk (onX c) c false 511 = false ∧ 1 ≤ privNat c.effPriv) := by
  simp only [← issues_iff]
  decide +kernel

/-! Events of sequencers, transfers, matrix unit -/

def anOp (post : BitVec 4) (kind : OpKind) (done : Bool) : Op :=
  { post := post, kind := kind, exc := { bits := 0x11, causes := 1 }, ena := 0, trap := none, ends := false, depth := 0, age := 0, scope := .ctx
    done := done }
def withOps (l : List Op) : Ctx := (withTokens [(10, 62)]).modSeq .X fun x => { x with ops := l }
def xId : SeqId := { core := 0, slot := 0, seq := .X }

theorem witness_SequencerEvents :
    (∀ x ∈ [ (withOps [anOp 10 .plain true], false), (withOps [anOp 0 .plain true, anOp 12 .plain true], false)
           , (withOps [{ anOp 10 .plain true with trap := some (mkTrap .X 0x05 1 0) }], true) ],
        getCtx (onX x.1) (ctxOf xId) = some x.1
          ∧ ((postReady (onX x.1) x.1 .X).any fun k => ((x.1.seq .X).ops[k]?).any fun o =>
              o.post.toNat ≤ 12 && !o.ends && o.trap.isSome == x.2) = true)
      ∧ (let c := withOps [anOp 10 .plain false, anOp 0 .plain false]
         getCtx (onX c) (ctxOf xId) = some c
           ∧ ∀ o ∈ (c.seq .X).ops, o.kind = .plain ∧ o.done = false ∧ o.trap = none ∧ o.ends = false)
      ∧ (let c := (withOps [anOp 10 (.bar 1 .cluster) false]).modSeq .X fun x => { x with bars := 1, run := .bar 1 }
         let c := { c with l := { c.l with run := .streamEnd }, c := { c.c with bars := 1 }, s := { c.s with bars := 2 } }
         getCtx (onX c) (ctxOf xId) = some c ∧ (c.seq .X).ops = [anOp 10 (.bar 1 .cluster) false] ∧ barReady c 1 = true ∧ (c.seq .X).run = .bar 1)
      ∧ (let c := { corner with watchdog := 2 ^ 24 }
         getCtx (onX c) (ctxOf xId) = some c ∧ Config.watchdogCycles ≤ c.watchdog ∧ c.cut = false ∧ c.halting = false
           ∧ c.life ≠ .retired) := by
  decide +kernel

/-- A context with one transfer in flight: a row of 16 bytes from the last 16 bytes of a granule, or a fill of slot 1. -/
def rowXfer : Transfer :=
  { someXfer 0 with kind := .block true 0x20FF0 0 1 16 0 { base := 65520, tpitch := 0, rpitch := 16, rot := 0 } .flat }
def fillXfer : Transfer := { someXfer 0 with kind := .wld { addr := 0x20000, ws := true, wf := .w4g48, form := .dense } }
def xferCtx (x : Transfer) : Ctx := { spCtx .L with xfers := [x], nextXfer := 1 }
def xferState (x : Transfer) : State := { machine (xferCtx x) .L with mem := [⟨0x20FFF, 7⟩] }
def lId : SeqId := { core := 0, slot := 0, seq := .L }

theorem witness_TransferCompletions :
    (∀ x ∈ [rowXfer, fillXfer], getCtx (xferState x) (ctxOf lId) = some (xferCtx x) ∧ getXfer (xferCtx x) 0 = some x
        ∧ x.seq = lId.seq ∧ xferReady (xferState x) (ctxOf lId) x = true ∧ x.progress = 0)
      ∧ (∃ p ∈ blockPieces 0x20FF0 0 1 16 0, blockPieces 0x20FF0 0 1 16 0 = [p]
          ∧ ((pieces (checkPages (letClosing (xferState rowXfer) rowXfer) rowXfer.agent .xferRead p.va p.len)).map fun y =>
              (y.fabric, poisoned (xferState rowXfer) y.pa y.len)) = [(false, false)])
      ∧ wldXfer (xferCtx fillXfer) true = some (fillXfer, { addr := 0x20000, ws := true, wf := .w4g48, form := .dense })
      ∧ slotRead (xferCtx fillXfer) true = false ∧ (xferCtx fillXfer).slots.length = 2
      ∧ (let r := wldRead (letClosing (xferState fillXfer) fillXfer) (xferCtx fillXfer) fillXfer.agent [] { addr := 0x20000, ws := true, wf := .w4g48, form := .dense }
         r.toOption.isSome = true ∧ ∀ y ∈ r.toOption, (y.2.2.all fun z => !z.fabric) = true) := by
  decide +kernel

/-- Matrix instructions at the head of a queue: MZERO of both widths, MMA on a register group, MMAG. -/
def accDesc : SpDesc := { base := 0, tpitch := 0, rpitch := 384, rot := 0 }
def aMat (kind : MatKind) (trec : BitVec 3) : MatCmd :=
  { kind := kind, trec := trec, acc := accDesc, a := .regs 0 (List.replicate 12 0), padRows := 0, padCols := 0, re := 0, ce := 0 }
def matQueue (m : MatCmd) : Ctx := { matCtx .dense with matrix := [m] }
def mats : List MatCmd :=
  [ aMat (.mzero true 0) 0, aMat (.mzero false 7) 7, aMat (.mma true .e4m3 .w4g48 .dense 1) 3
  , aMat (.mmag { accDesc with rpitch := 192 } true .e4m3 1 1) 3 ]

/-- Two members of a gang in a rotation, at positions 7 and 0. -/
def rotor (pos src dst n : Nat) : Ctx :=
  { gangSp .L pos with rrot := some (src, dst, n), rrotWait := true, scratch := [⟨src, 0xAB⟩], id := { core := pos, slot := 0 } }
def rotState : State := { machine (rotor 0 0 1024 16) .L with ctxs := [rotor 0 0 1024 16, rotor 7 2048 4096 32] }

/-- The elements of an accumulator tile of rows of 384 bytes lie apart. -/
theorem witness_MatrixAndRing_apart (x y : Nat × Nat) (hx : x.2 < 96) (hy : y.2 < 96) (h : x ≠ y) :
    ∀ o ∈ spOffs accDesc x.1 (4 * x.2) 4, o ∉ spOffs accDesc y.1 (4 * y.2) 4 := by
  obtain ⟨r, n⟩ := x
  obtain ⟨p, m⟩ := y
  have h : ¬(r = p ∧ n = m) := fun ⟨a, b⟩ => h (by rw [a, b])
  simp only [spOffs, accDesc, SpDesc.at, rotate16, rotAmount, List.mem_map, List.mem_range]
  rintro o ⟨i, hi, rfl⟩ ⟨j, hj, e⟩
  simp at hx hy e
  omega

theorem witness_MatrixAndRing :
    (∀ m ∈ mats, getCtx (machine (matQueue m) .C) { core := 0, slot := 0 } = some (matQueue m) ∧ (matQueue m).matrix = m :: []
        ∧ (matQueue m).replay = none ∧ (matQueue m).neutral = none ∧ matBad (machine (matQueue m) .C) (matQueue m) m (slotData (matQueue m) m) = []
        ∧ m.trec.toNat < (matQueue m).tiles.length)
      ∧ (let a := rotor 7 2048 4096 32
         let b := rotor 0 0 1024 16
         ∀ g ∈ a.gang, rrotReady rotState g = true ∧ gangMembers rotState g = [b, a] ∧ g.pos < 8 ∧ (rotState.ctxs.map fun y => y.id).Nodup
           ∧ (b.gang.map fun h => h.pos) = some ((g.pos + 1) % 8) ∧ a.rrot = some (2048, 4096, 32) ∧ b.rrot = some (0, 1024, 16)
           ∧ (∀ y ∈ [a, b], ∀ r ∈ y.rrot, y.spBad ((List.range r.2.2).map (r.1 + ·)) = false)
           ∧ (b.gang.map fun h => h.pos) ≠ (a.gang.map fun h => h.pos)) := by
  decide +kernel

/-! Launches, tasks, weir -/

/-- Two launches that write granule 1 of tile 0, the first not yet committed; a rename pool of one page at 0x40000. -/
def writer (seq : BitVec 48) (ts : List TaskState) : Launch :=
  { aLaunch ts with seq := seq, rcd := { aRecord ts.length with writes := [(1, 1)] } }
def withPolder (s : State) (f : Polder → Polder) : State := { s with polders := s.polders.modify 0 f }
def ready0 : State := { State.reset with startup := 5 }
def renState : State := withPolder (queued ready0 [writer 1 [.running], writer 2 [.queued]]) fun p => { p with rnBase := 4, rnSize := 1 }
/-- A launch whose one task is over, with a completion word or none. -/
def overLaunch (compl : Word) (asid : BitVec 9) : Launch := { aLaunch [.retired] with compl := compl, complAsid := asid }
/-- A submission that the TSUB of X holds, and a fire that waits; R398: TSUB s7, s1, s2. -/
def tsubWord : InstrWord := 0xE00000000701020000000000#96
def heldCtx : Ctx := (holding tsubWord).modSeq .X fun x => { x with hold := some .queue }
def aSub : HeldSub := { ctx := { core := 0, slot := 0 }, dest := 7, launch := aLaunch [.queued], since := 0 }
def aFire : HeldFire := { polder := 0, wpid := 3, serial := 1, launch := aLaunch [.queued], counted := 0, rearm := false, since := 0 }

theorem witness_LaunchEvents :
    (let l := writer 2 [.queued]
     findLaunch renState 0 2 = some l ∧ l.polder = 0 ∧ l.blocked renState = false ∧ renameNeeds renState l = [1])
      ∧ (∀ k ∈ [(0 : Nat), 1, 2],
          let x := [((0 : Word), (0 : BitVec 9), true), (0x30008, 0, true), (0x30008, 511, false)].getD k default
          let l := overLaunch x.1 x.2.1
          let s := queued ready0 [l]
          findLaunch s 0 1 = some l ∧ commitReady s l = true ∧ l.renames = [] ∧ (getPolder s 0).rnNext = none
            ∧ (addToken (modLaunch s 0 1 fun l => { l with committed := true, tasks := [.done] }) l.complAsid (if l.compl = 0 then 0x30008 else l.compl) l.abnormal).isSome = x.2.2)
      ∧ (let s := queued ready0 [aLaunch [.queued]]
         (getPolder s 0).queue.flatMap (fun y => y.renames) = [] ∧ (0 : BitVec 4).toNat < s.polders.length)
      ∧ (let s := { queued (onX heldCtx) [aLaunch [.queued]] with heldSubs := [aSub] }
         findLaunch s 0 1 = some (aLaunch [.queued]) ∧ getCtx s aSub.ctx = some heldCtx
           ∧ (s.heldSubs.find? fun y => y.ctx == aSub.ctx) = some aSub ∧ (subReady s aSub).isSome = true ∧ aSub.launch.polder = 0)
      ∧ (let s := { queued ready0 [aLaunch [.queued]] with heldFires := [aFire] }
         s.heldFires[0]? = some aFire ∧ heldFireReady s aFire = true ∧ aFire.polder = 0 ∧ aFire.launch.polder = 0) := by
  decide +kernel

/-- Eligible launches of polder 0, whose core set is the first cluster: one task, one that coalesces, routed, and a gang. -/
def eligibleL (ts : List TaskState) (rcd : LaunchRec) : Launch := { aLaunch ts with eligible := some 0, rcd := rcd }
def placeState (l : Launch) : State :=
  withPolder (queued ready0 [l]) fun p => { p with cores := 0xFF, share := 1 }
def plainL : Launch := eligibleL [.done, .queued] { aRecord 2 with carve := 43, base := 0xFFFFFFFFFFFFFFFF }
def coalL : Launch := eligibleL [.queued] { aRecord 1 with coal := true }
def routedL : Launch := eligibleL [.routed 0] { aRecord 1 with gang := false }
def gangL : Launch := eligibleL (List.replicate 8 .queued) { aRecord 8 with gang := true }
def gangR : Launch := eligibleL (List.replicate 8 (.routed 0)) { aRecord 8 with gang := true }

theorem witness_TasksPlaced :
    (∀ l ∈ [plainL, coalL, routedL, gangL, gangR], findLaunch (placeState l) 0 1 = some l ∧ l.polder = 0 ∧ l.renames = [])
      ∧ ((routeCand (placeState plainL) plainL).any fun d => d.index == 1 && goesFirst (placeState plainL) (routeCands (placeState plainL)) d)
          = true
      ∧ plainL.rcd.gang = false ∧ plainL.rcd.coal = false ∧ (taskPlace (placeState plainL) plainL none).isSome = true
      ∧ ((routeCand (placeState coalL) coalL).any fun d => d.index == 0 && goesFirst (placeState coalL) (routeCands (placeState coalL)) d)
          = true
      ∧ coalL.rcd.gang = false ∧ coalL.rcd.coal = true ∧ weirRoute (placeState coalL) coalL = .reject
      ∧ (((dispatchCands (placeState routedL)).find? fun y => y.polder == 0 && y.seq == 1 && y.index == 0).any fun d =>
          goesFirst (placeState routedL) (dispatchCands (placeState routedL)) d && (taskPlace (placeState routedL) routedL d.die).isSome)
          = true
      ∧ ((routeCand (placeState gangL) gangL).any fun d => d.index / 8 == 0 && goesFirst (placeState gangL) (routeCands (placeState gangL)) d)
          = true
      ∧ gangL.rcd.gang = true ∧ (gangPlace (placeState gangL) gangL 0).isSome = true
      ∧ (((dispatchCands (placeState gangR)).find? fun y => y.polder == 0 && y.seq == 1 && y.index / 8 == 0).any fun d =>
          goesFirst (placeState gangR) (dispatchCands (placeState gangR)) d) = true
      ∧ (gangPlace (placeState gangR) gangR 0).isSome = true := by
  decide +kernel

/-- A released bunting of die 0, its image, one commons core; and a bucket of die 0 of 32 rows with a deadline of 64. -/
def waitingBunting : Bunting := { someBunting with running := none }
def wideMember : Member := { someMember 0 with rows := 32, deadline := 64 }
def weirState (cycle : Nat) (bs : List Bucket) (height : Nat) : State :=
  { withPolder (queued ready0 [aLaunch [.released, .released]]) (fun p => { p with bal := 1 }) with
    cycle := cycle, commons := 1, images := [vaultImage addWord], buntings := [waitingBunting]
    dies := State.reset.dies.modify 0 fun d => { d with buckets := bs, height := height } }
def aBucket : Bucket := { slot := 0, key := someKey, members := [wideMember] }
def retiree : Ctx :=
  let c := { bootCtx .X with life := .ending, task := some { polder := 0, seq := 1, index := 1 } }
  { c with l := { c.l with run := .streamEnd }, c := { c.c with run := .streamEnd }, s := { c.s with run := .streamEnd } }
def retState : State := { queued (onX retiree) [aLaunch [.done, .ending]] with ctxs := [retiree] }

theorem witness_WeirAndRetirement :
    (let s := weirState 0 [] 32
     firstBunting s 0 = some waitingBunting ∧ (bunPlace s waitingBunting).isSome = true
       ∧ (∀ m ∈ waitingBunting.members, 0 < (getPolder s m.task.polder).bal) ∧ 0 < s.dies.length)
      ∧ (∀ x ∈ [(0, false), (64, true), (128, true)],
          let s := weirState x.1 [aBucket] 64
          s.cycle % 64 = 0 ∧ (getDie s 0).buckets = [aBucket] ∧ decide (bucketDeadline aBucket ≤ s.cycle) = x.2)
      ∧ (∀ h ∈ [31, 257], h < 32 ∨ 256 < h)
      ∧ (∀ h ∈ [33, 256], 32 ≤ h ∧ h ≤ 256 ∧ ∀ b ∈ (getDie (weirState 0 [aBucket] 64) 0).buckets, memberRows b.members < h)
      ∧ getCtx retState retiree.id = some retiree ∧ retireReady retState retiree = true ∧ retiree.gang = none ∧ retiree.neutral = none
      ∧ retiree.task = some { polder := 0, seq := 1, index := 1 }
      ∧ findLaunch retState 0 1 = some (aLaunch [.done, .ending]) := by
  decide +kernel

/-! Faults, logs, pages, vaults, pre-emption -/

def faultInfo (s2 : Bool) : FaultInfo :=
  { stage2 := s2, polder := 0, asid := 0, page := 0x30000, va := 0x30008, kind := 1, acc := 1, level := 3 }
def faultEntry (s2 : Bool) (id : Nat) (queued : Bool) : FaultEntry :=
  { id := id, info := faultInfo s2, token := 255, waiting := true, queued := queued, waiters := [.seq { core := 0, slot := 0 } .X] }
/-- X waits on entry 9. -/
def fltCtx : Ctx := corner.modSeq .X fun x => { x with hold := some (.fault { entry := some 9, va := 0x30008, kind := 1 }) }
def fltState (l : List FaultEntry) : State := { onX fltCtx with faults := l }
/-- A store of 8 bytes at the end of a granule in the side log of core 0. -/
def sideEntry : SideEntry :=
  { id := 4, slot := 0, seq := .X, size := 1, scope := .ctx, aclass := 0, rel := false, stores := [(0x20FF8, leBytes 0x0102030405060708 8)]
    reds := [], agent := { asid := 0, polder := 0, task := false, launch := none, die := 0, core := some 0, who := none }, fault := none }
def sideState : State :=
  { onX corner with cores := State.reset.cores.modify 0 fun k => { k with side := [sideEntry, { sideEntry with id := 5 }] } }
/-- Two entries in every log. -/
def twoEntries : RegLog := { entries := [(5, 6), (7, 8)], ovf := false }
def logState : State :=
  withPolder { onX corner with audlog := twoEntries, fablog := { twoEntries with ovf := true } } fun p =>
    { p with sublog := twoEntries, parklog := twoEntries }

theorem witness_FaultsAndLogs :
    (∀ c ∈ [corner, fltCtx], getCtx (onX c) (ctxOf xId) = some c)
      ∧ (∀ l ∈ [[faultEntry true 9 true], []],
          let s := { onX corner with faults := l, roomWait := [(faultInfo false, .seq { core := 0, slot := 0 } .X)] }
          joinReady s 0 (faultInfo false) = true ∧ ∀ e ∈ s.faults, sameFault (faultInfo false) e = false)
      ∧ (let s := sideState
         (getCore s 0).side.find? (fun z => z.id == 4) = some sideEntry ∧ sideReady s 0 sideEntry = true
           ∧ sideEntry.agent.die < 5
           ∧ ((pieces (checkGranules s sideEntry.agent .write (granules 2 0x20FF8 8))).map fun y =>
                (y.ren, y.pa % 4096 + y.len, physKind y.pa)) = [(none, 4096, .hbm 0)])
      ∧ fltresEntry (fltState []) fltCtx false 255 = none
      ∧ (∀ s2 ∈ [false, true],
          let e := faultEntry s2 9 true
          let s := fltState [e]
          fltresEntry s fltCtx s2 255 = some e ∧ e.waiters = [.seq (ctxOf xId) .X] ∧ s.saved = [] ∧ fltCtx.frames = []
            ∧ (fltCtx.seq .X).hold = some (.fault { entry := some e.id, va := 0x30008, kind := 1 }) ∧ fltCtx.cut = false
            ∧ fltCtx.halting = false ∧ fltCtx.life ≠ .retired
            ∧ s.faults.find? (fun x => x.queued && x.info.stage2 == s2 && (s2 || (x.info.polder == 0 && !polderAbsent s 0))) = some e
            ∧ s.faults.find? (fun x => x.queued && x.info.stage2 == !s2 && (!s2 || (x.info.polder == 0 && !polderAbsent s 0))) = none)
      ∧ (let c := { corner with pdsel := 15 }
         getCtx (onX c) (ctxOf xId) = some c ∧ polderAbsent (onX c) (regPolder (onX c) c) = true)
      ∧ getCtx logState (ctxOf xId) = some corner ∧ polderAbsent logState (regPolder logState corner) = false
      ∧ (getPolder logState 0).sublog = twoEntries ∧ (getPolder logState 0).parklog = twoEntries ∧ logState.audlog = twoEntries
      ∧ logState.fablog = { twoEntries with ovf := true } := by
  and_intros <;> decide +kernel

/-- R237, R238: stage 2 of polder 0 has its root at 0x80000, the level 2 table at 0x90000 and the level 1 table at 0xA0000,
where page 2 is mapped and page 1 is free. -/
def pageState (quota : BitVec 32) (used : List Nat) (clean : List Nat) (pend : Option (Nat × Nat)) : State :=
  { withPolder State.reset (fun p => { p with s2en := true, s2root := 8, pgQuota := quota, pgPages := used, pgPend := pend }) with
    mem := [⟨0x80000, 2⟩, ⟨0x80002, 9⟩, ⟨0x90000, 2⟩, ⟨0x90002, 10⟩, ⟨0xA0010, 0x1D⟩, ⟨0xA0012, 0x0C⟩, ⟨0xC0000, 7⟩, ⟨0xCFFFF, 7⟩]
    dies := (State.reset.dies.modify 0 fun d => { d with clean := clean, scrub := [0xC0000] }).modify 3 fun d => { d with present := false } }
def sweepState (busy en : Bool) : State :=
  { State.reset with dies := State.reset.dies.modify 0 fun d => { d with sweepEn := en, sweepPeriod := 1, sweepBusy := busy } }

/-- An accepted SCOPY that holds the page of an address (R301). -/
def copyHolding (a : Nat) : Ctx :=
  let seg : Seg := { va := 0x20000, pa := a, len := 16, key := 0, leaf1 := none, leaf2 := none, ren := none, ok := true, tlb := none, walks := [] }
  { corner with xfers := [{ someXfer 0 with kind := .scopy 0 0x20000 0 16 8 0 (some (0, 0)) ([seg], []) none }] }
def heldCopy : Ctx := copyHolding 0x20000

theorem witness_PagesAndSweeps :
    (∀ b ∈ [true, false], sweepDue (sweepState b true) 0 = true ∧ (getDie (sweepState b true) 0).sweepBusy = b)
      ∧ (getDie (sweepState true false) 0).sweepBusy = true
      ∧ (let s := pageState 1 [] [0xD0000] none
         (getDie s 0).scrub = [0xC0000] ∧ 0xC0000 % 65536 = 0 ∧ physKind 0xC0000 = .hbm 0 ∧ inVault s 0xC0000 = false
           ∧ (getDie s 0).present = true ∧ (getDie s 3).present = false ∧ (getPolder s 0).pgPend = none
           ∧ level1 s 0 0x10000 = .entry 0xA0008 ∧ level1 s 0 0x20000 = .entry 0xA0010 ∧ level1 s 0 0x20000000 = .none
           ∧ (readPte s 0 0xA0008).type = 0 ∧ (readPte s 0 0xA0010).type = 1 ∧ (getPolder s 0).pgUsed.toNat < (getPolder s 0).pgQuota.toNat
           ∧ pageHeld s 0xC0000 = false ∧ unmapWaits s 0 0x20000 = false
           ∧ (getDie s 0).clean = [0xD0000] ∧ 0xA0008 % 8 = 0 ∧ physKind 0xA0008 = .hbm 0 ∧ inVault s 0xA0008 = false
           ∧ inVault s 0xA0010 = false)
      ∧ (getPolder (pageState 1 [0x20000] [0xD0000] none) 0).pgQuota.toNat ≤ (getPolder (pageState 1 [0x20000] [0xD0000] none) 0).pgUsed.toNat
      ∧ (let copy : Transfer := { someXfer 0 with kind := .scopy 0 0x20000 0 16 8 0 (some (0, 0)) ([], []) none }
         let s := { pageState 1 [] [0xD0000] none with ctxs := [{ corner with xfers := [copy] }] }
         translatedWait s = true ∧ unmapWaits s 0 0x20000 = true)
      ∧ pageReady (pageState 1 [] [0xD0000] (some (0x10000, 0))) 0 = some (0x10000, 0)
      ∧ heldPages (sweepState true false) = [] ∧ heldPages { sweepState true false with ctxs := [heldCopy] } ≠ []
      ∧ level1Held (pageState 1 [] [0xD0000] none) 0 0x10000 = false
      ∧ level1Held { pageState 1 [] [0xD0000] none with ctxs := [copyHolding 0xA0000] } 0 0x10000 = true
      ∧ (getDie (pageState 1 [] [] none) 0).clean = [] ∧ level1Held (pageState 1 [] [] none) 0 0x20000000 = false
      ∧ (let large := { pageState 1 [] [0xD0000] none with mem := [⟨0x80000, 2⟩, ⟨0x80002, 9⟩, ⟨0x90000, 0x1D⟩] }
         level1 large 0 0x10000 = .mapped ∧ level1Held large 0 0x10000 = false ∧ unmapWaits large 0 0x10000 = false)
      ∧ unmapWaits (pageState 1 [] [0xD0000] none) 0 0x10000 = false
      ∧ unmapWaits (pageState 1 [] [0xD0000] none) 0 0x20000000 = false := by
  decide +kernel

/-- A load of two shards of 64 bytes into a version of a tensor, one of them still to come after k failures. -/
def aVersion : Version :=
  { model := 1, tensor := 2, version := 3, state := .loading, home := 0, page := 0, pages := 1, bytes := 128, pin := false }
def aLoad (k : Nat) : Load :=
  { model := 1, tensor := 2, version := 3, source := 0x20000, origin := 9, group := 1, shards := 2, size := 64, digests := [[], []]
    got := [true, false], tries := [0, k], timeout := 100, asked := [0, 0], active := true }
def loadState (k : Nat) : State :=
  { onX corner with
    load := some (aLoad k), versions := [aVersion], cycle := 100
    dies := State.reset.dies.modify 0 fun d => { d with vaultSize := 1, vaultUse := [(0, 1)] } }

/-- R185: at 0x20000 a load's block, TIMEOUT 1, of the manifest at 0x20100: version 1, one shard of 4 KiB, key 0. -/
def vloadState (keys : List (Nat × List Byte)) : State :=
  { loadState 0 with
    load := none, versions := [], mkeys := keys, commons := 1
    mem := [⟨0x20001, 1⟩, ⟨0x20002, 2⟩, ⟨0x20014, 1⟩, ⟨0x2010E, 1⟩, ⟨0x20110, 1⟩, ⟨0x20115, 0x10⟩] }

theorem witness_VaultOperations :
    getCtx (onX corner) { core := 0, slot := 0 } = some corner ∧ (onX corner).cvBusy = none
      ∧ ({ onX corner with cvBusy := some (0x20000, { core := 0, slot := 0 }, 0) }).cvBusy = some (0x20000, { core := 0, slot := 0 }, 0)
      ∧ (0x20001 : Word).toNat % 256 ≠ 0 ∧ admissionDue (onX corner) = false
      ∧ admissionDue { onX corner with cvBusy := some (0x20000, { core := 0, slot := 0 }, 0) } = true
      ∧ admissionDue { onX corner with cvBusy := some (0x20001, { core := 0, slot := 0 }, 0) } = true
      ∧ ((State.images { onX corner with images := [vaultImage addWord] }).map VaultImage.id).Nodup
      ∧ (∀ k ∈ [2, 3], (loadState k).load = some (aLoad k) ∧ (aLoad k).active = true ∧ 1 < (aLoad k).shards ∧ (aLoad k).got[1]? = some false
          ∧ (aLoad k).asked.getD 1 0 + (aLoad k).timeout ≤ (loadState k).cycle ∧ 1 < (aLoad k).tries.length ∧ (aLoad k).tries.getD 1 0 = k)
      ∧ ({ onX corner with burgeeDst := 1 }).burgeeDst ≠ 0
      ∧ (let s := { onX corner with mem := [⟨0x20000, 7⟩] }
         let key := physRead s 0 0x20000 64
         physOk s 0x20000 64 = true ∧ natAt key 0 1 = 7 ∧ natAt key 58 6 = 0 ∧ alGet s.mkeys 7 = none
           ∧ (alGet ({ s with mkeys := [(7, [])] }).mkeys 7).isSome = true ∧ physOk s (8 * 2 ^ 40) 64 = false)
      ∧ spanHeld (onX corner) 0x20000 64 = false ∧ spanHeld (onX corner) (8 * 2 ^ 40) 64 = false
      ∧ spanHeld { onX corner with ctxs := [heldCopy] } 0x20000 64 = true
      ∧ vaultBusy (loadState 0) 0 ≠ [] ∧ vaultBusy State.reset 3 = [] := by
  and_intros <;> decide +kernel

theorem witness_VaultOperations_load :
    getCtx (vloadState []) { core := 0, slot := 0 } = some corner ∧ physOk (vloadState []) 0x20000 64 = true
      ∧ natAt (physRead (vloadState []) 0 0x20000 64) 0 8 = 0x20100 ∧ natAt (physRead (vloadState []) 0 0x20000 64) 20 4 = 1
      ∧ natAt (physRead (vloadState []) 0 0x20000 64) 24 1 = 0 ∧ natAt (physRead (vloadState []) 0 0x20000 64) 25 39 = 0
      ∧ ((parseManifest (vloadState []) 0x20100).map fun m => m.2) = some (1, 4096)
      ∧ ((parseManifest (vloadState []) 0x20100).map fun m => manifestSigned (vloadState []) m.1 1) = some false
      ∧ (homeDie (vloadState []) 1).isSome = true
      ∧ parseManifest { vloadState [] with mem := (vloadState []).mem.take 3 } 0x20100 = none
      ∧ vloadWaits (vloadState []) 0x20000 = false
      ∧ vloadWaits { vloadState [] with mem := (vloadState []).mem.take 3 } 0x20000 = false
      ∧ vloadWaits { vloadState [] with ctxs := [heldCopy] } 0x20000 = true := by
  decide +kernel

/-- With key 0 held, the manifest is signed where the key verifies its signature, which the model leaves open (log entry
7). -/
theorem witness_VaultOperations_signed (m : List Byte) (h : natAt m 56 1 = 0) :
    manifestSigned (vloadState [(0, [])]) m 1 = Config.ed448Verifies [] (m.take 57) (bytesAt m 57 114) := by
  simp [manifestSigned, h, vloadState, alGet]

/-- A saved context of polder 2, in save memory or in the shadow storage of core 1. -/
def savedCtx (shadow wanted : Bool) : Saved :=
  { ctx := { bootCtx .X with id := { core := 1, slot := 3 }, polder := 2, priv := .task, task := some { polder := 2, seq := 1, index := 0 } }
    deque := some [7], side := [], shadow := shadow, forced := false, wanted := wanted }
def aPreq (mode : BitVec 2) (left : List CtxId) : PreqState :=
  { mode := mode, polder := 0, swapIn := 2, left := left, saved := 3, forced := 1 }
def overdue : Ctx := { corner with preempt := some { used := 4096, shadow := false } }

theorem witness_PreemptionEvents :
    (let s := onX corner
     getCtx s corner.id = some corner ∧ s.preq = none ∧ getCtx s { core := 159, slot := 3 } = none ∧ corner.neutral = none
       ∧ corner.gang = none ∧ corner.life = .running ∧ polderCtxs s 0 = [corner.id] ∧ polderCtxs s 1 = []
       ∧ (coreSet s 0).any (fun k => (getCore s k).shadow.any fun y => y != 2) = false
       ∧ s.saved.any (fun v => v.ctx.polder == 2 && !v.shadow) = false)
      ∧ (∀ c ∈ [{ corner with life := .ending }, { corner with neutral := some 1 }], getCtx (onX c) corner.id = some c)
      ∧ ({ onX corner with preq := some (aPreq 0 [corner.id]) }).preq.isSome = true
      ∧ (let s := { onX corner with cores := State.reset.cores.modify 159 fun k => { k with shadow := some 1 } }
         (coreSet s 0).any (fun k => (getCore s k).shadow.any fun y => y != 2) = true)
      ∧ ({ onX corner with saved := [savedCtx false false] }).saved.any (fun v => v.ctx.polder == 2 && !v.shadow) = true
      ∧ (let s := { onX overdue with preq := some (aPreq 0 [overdue.id]) }
         getCtx s overdue.id = some overdue ∧ forcedDue s overdue = true)
      ∧ (let s := { onX corner with saved := [savedCtx false true] }
         savedAt s { core := 1, slot := 3 } = some (savedCtx false true) ∧ (savedCtx false true).ctx.gang = none
           ∧ (savedCtx false true).ctx.neutral = none ∧ (savedCtx false true).ctx.frames = []
           ∧ ∀ q ∈ allSeqs, ((savedCtx false true).ctx.seq q).atEnd = false)
      ∧ (let s := { onX corner with preq := some (aPreq 2 []), saved := [savedCtx true false] }
         exchangeDue s = some (aPreq 2 []) ∧ (coreSet s 0).contains 1 = true ∧ slotUsed s 1 3 = false
           ∧ (s.saved.filter fun v => v.shadow && v.ctx.polder == 2 && (coreSet s 0).contains v.ctx.id.core) = [savedCtx true false]
           ∧ (savedCtx true false).wanted = false ∧ exchangeDue { s with saved := [] } = some (aPreq 2 [])) := by
  decide +kernel


/-! Pool, device, fabric, polders, host, lanes -/

/-- The snoops of R204: a line of region 0 of the pool, dirty or clean in the RDC of die 0. -/
def poolLine : Nat := Config.poolBase / 64
/-- A store of X of the task of a context, and the context that ran it. -/
def aWriter : Writer := { task := { polder := 0, seq := 1, index := 0 }, seq := .X, depth := 0, age := 4, va := 0x3000, moves := false }
def lostCtx : Ctx := { poolCtx .X with task := some aWriter.task }
def rdcState (dirty : Bool) : State :=
  { poolState .X with
    dies := State.reset.dies.modify 0 fun d =>
      if dirty then { d with rdc := [{ addr := poolLine, data := 7, writers := [aWriter] }] } else { d with rdcClean := [poolLine] } }

/-- An issued reduction whose element lies in region 0 of the pool and waits for credits (R307). -/
def poolElem (c : Ctx) : Ctx :=
  let seg : Seg := { va := 0x3040, pa := Config.poolBase + 64, len := 4, key := 0, leaf1 := none, leaf2 := none, ren := none, ok := true, tlb := none, walks := [] }
  let g : Agent := { asid := 0, polder := 0, task := true, launch := none, die := 0, core := some 0, who := some { aWriter with age := 6 } }
  let o : Op := { post := 0, kind := .credit g [{ op := .add, fmt := .i32, seg := seg, v := 1 }] [] false, exc := ⟨0, 0⟩, ena := 0, trap := none
                  ends := false, depth := 0, age := 6, scope := .ctx, done := false }
  c.modSeq .X fun x => { x with ops := [o] }

theorem witness_PoolEvents :
    (∀ n ∈ [(0 : BitVec 2), 3], n.toNat < (poolState .X).ports.length) ∧ portBits (poolState .X) 0 = 3
      ∧ getRegion (poolState .X) 0 = poolRegion ∧ portUp (poolState .X) 0 = true ∧ portUp (poolState .X) 3 = false
      ∧ alGet (poolState .X).regions 0 = some poolRegion
      ∧ (∀ l ∈ [Levee.closing, .breached], getRegion { poolState .X with regions := [(16383, { poolRegion with levee := l })] } 16383
          = { poolRegion with levee := l })
      ∧ (getRegion (poolState .X) 16383).valid = false
      ∧ closeReady { rdcState true with regions := [(0, { poolRegion with levee := .closing })] } 0 = true
      ∧ (dirtyLines (rdcState true) 0).length = 1
      ∧ snoopLines (poolState .X) (poolAddr (poolState .X) Config.poolBase) = []
      ∧ (∀ d ∈ [true, false], snoopLines (rdcState d) (poolAddr (poolState .X) Config.poolBase + 63) = [poolLine])
      ∧ Memory.wf (rdcState true).pool = true
      ∧ (let s := { rdcState true with ctxs := [lostCtx] }
         lostWriters (dirtyLines (stopXfers s 0) 0) = [aWriter] ∧ getCtx s lostCtx.id = some lostCtx ∧ lostCtx.task = some aWriter.task
           ∧ lostCtx.cut = false ∧ (s.ctxs.filter fun y => y.task == some aWriter.task) = [lostCtx])
      ∧ (let c := poolElem lostCtx
         let s := { rdcState false with ctxs := [c] }
         let v : Saved := { savedCtx false false with ctx := c }
         oldestWriters (liveElems s 0 ++ savedElems s 0) = [{ aWriter with age := 6, va := 0x3040 }]
           ∧ (s.ctxs.filter fun y => y.task == some aWriter.task) = [c]
           ∧ closeReady { s with regions := [(0, { poolRegion with levee := .closing })] } 0 = false
           ∧ savedElems { rdcState true with saved := [v] } 0 ≠ [] ∧ savedElems (rdcState true) 0 = [])
      ∧ rdcFind (rdcState true) poolLine = some { addr := poolLine, data := 7, writers := [aWriter] } ∧ rdcFind (rdcState false) poolLine = none := by
  decide +kernel

/-- A sample of core 39, which cores 0 and 1 may replay. -/
def aSample (second : Option (Nat × Word)) (ended : Option (Nat × Option Word)) : AuditSample :=
  { index := 6, core := 39, die := 0, signature := 5, gathered := [], members := [], hash := 0, version := none, image := 0
    key := { hash := 0, model := 0, tensor := 0, version := 0, shape := 0 }, scattered := [], second := second, ended := ended }
def auditState (a : AuditSample) : State := { onX corner with commons := BitVec.allOnes 160, audits := [a] }

/-- A matrix instruction over an opened record whose window holds all its commands. -/
def openTile (m : MatCmd) : Ctx := (matQueue m).setTile m.trec { TileRec.reset with opened := true }

theorem witness_DeviceEvents :
    (∀ a ∈ [(0x20000 : Nat), Config.poolBase], canPoison { poolState .X with poison := [lineOf 0x40000] } a = true)
      ∧ getCtx (onX corner) (ctxOf xId) = some corner ∧ corner.canIssue .X = true
      ∧ (∀ m ∈ mats.drop 2, getCtx (onC (openTile m)) (openTile m).id = some (openTile m) ∧ (openTile m).matrix = m :: []
          ∧ (match m.kind with | .mzero _ _ => false | _ => true) = true ∧ (openTile m).replay = none
          ∧ ((openTile m).tile m.trec).retained = true)
      ∧ (corner.seq .X).waited = none
      ∧ linkUp State.reset 0 4 = true
      ∧ (∀ a ∈ [aSample none none, aSample none (some (0, some 5)), aSample none (some (0, none))
              , aSample (some (0, 7)) (some (38, some 5)), aSample (some (0, 7)) (some (38, none)), aSample (some (0, 7)) none],
          let s := auditState a
          (s.audits.find? fun y => y.index == a.index) = some a ∧ auditRunning s a.index = false ∧ 159 < s.cores.length
            ∧ ((auditPlaces s a).find? fun y => y.core == 38).isSome = true
            ∧ auditCore s a 39 = false ∧ auditCore s a 40 = false ∧ auditPlaces { s with commons := 0 } a = [])
      ∧ ((auditPlaces (auditState (aSample (some (0, 7)) none)) (aSample (some (0, 7)) none)).find? fun y => y.core == 0) = none
      ∧ ((5 : Word) ^^^ 0 = 5 ∧ (5 : Word) ^^^ 1 ≠ 5 ∧ (5 : Word) ^^^ 2 = 7 ∧ (7 : Word) ≠ 5)
      ∧ ({ onX corner with fwVersion := 2 }).fwVersion ≤ 2 ∧ 1 < ({ onX corner with fwVersion := 2 }).fwVersion
      ∧ State.reset.halted = false ∧ State.reset.powered = true ∧ ({ State.reset with powered := false }).powered = false := by
  decide +kernel

/-- R305: a packet of polder 0, whose tag is 0, from endpoint 6, which port 11 reaches, to endpoint 5, which is this device. -/
def aPacket (type : BitVec 8) (addr : Word) (size : Nat) (op : BitVec 8) (data : List Byte) : Packet :=
  { type := type, ptag := 0, flits := (data.length + 63) / 64, mc := false, dest := 5, src := 6, rtag := 9, addr := addr, size := size
    op := op, data := data }
def fabState (s : State) : State :=
  { s with
    fabid := 0x8000000000000005, froute := [(6, 0x800), (7, 0x400)]
    fpmap := (List.replicate 12 (0 : BitVec 256)).set 11 1 |>.set 10 3 }
def aReq (seq : Seqr) (isRead : Bool) : FabReq :=
  { rtag := 9, ctx := { core := 0, slot := 0 }, seq := seq, xfer := none, port := 11, addr := 0x1000, va := 0x1000, size := 4
    isRead := isRead, since := 0 }
def fabHeld : Ctx := corner.modSeq .X fun x => { x with hold := some .fabric, rtags := [9] }
def fabReqState (isRead : Bool) : State := fabState { onX fabHeld with fabReqs := [aReq .X isRead], cycle := 115200 }
def servedKind : Served → Nat
  | .done _ _ => 0
  | .bad _ => 1
  | .wait => 2

/-- R308: one shard of 64 bytes is still to come besides the one that comes here. -/
def someBytes : List Byte := List.replicate 64 7
def shardState : State :=
  fabState { loadState 0 with
    load := some { aLoad 0 with
      shards := 3, digests := [shake256 someBytes 32, [], []], got := [false, false, true], tries := [0, 0, 0], asked := [0, 0, 0] } }

theorem witness_FabricPackets :
    (let s := fabState (onX corner)
     (∀ t ∈ [(1 : BitVec 8), 2, 3, 4, 5, 6, 7, 8], forUs s 11 (aPacket t 0x20000 8 0 []) t = true
        ∧ forUs s 0 (aPacket t 0x20000 8 0 []) t = true ∧ forUs s 10 { aPacket t 0x20000 8 0 [] with ptag := 1 } t = true)
       ∧ fabIdValid s = true ∧ tagAllowed s 11 0 = true ∧ tagAllowed s 0 0 = false ∧ tagAllowed s 10 1 = true
       ∧ tagPolder s 0 = some 0 ∧ tagPolder s 1 = none ∧ routePort s 6 = some 11 ∧ s.fabDown = []
       ∧ [serveRead s 0 0x20000 8, serveRead s 0 (2 ^ 39) 8, serveWrite s 0 0x20000 [1, 2], serveWrite s 0 (2 ^ 39) [1, 2]].map
            servedKind = [0, 1, 0, 1]
       ∧ (let h := { s with ctxs := [heldCopy] }
          [serveRead h 0 0x20000 8, serveWrite h 0 0x20000 [1, 2]].map servedKind = [2, 2])
       ∧ acceptPacket s 11 (aPacket 1 0x20000 8 0 []) = s
       ∧ forUs s 11 { aPacket 1 0x20000 8 0 [] with mc := true, dest := 3 } 1 = true
       ∧ atomReq (aPacket 3 0x20000 16 0x80 []) = none
       ∧ (∀ ret ∈ [(0x80 : BitVec 8), 0],
          ∃ r, atomReq (aPacket 3 0x20000 8 ret (leBytes 1 8)) = some r
            ∧ r = { op := .add, fmt := .z64, ret := ret == 0x80, v := 1, v2 := 0 }))
      ∧ (let s := fabState (onX corner)
         let r : AtomReq := { op := .add, fmt := .z64, ret := true, v := 1, v2 := 0 }
         let poor := { s with dies := s.dies.map fun d => { d with credits := d.credits.map fun x => (x.1, x.2.1, 3) } }
         [serveAtom s 0 0x20001 r, serveAtom poor 0 0x20000 r].map servedKind = [1, 2]
           ∧ (match serveAtom s 0 0x20000 r with | .done u old => old == leBytes 0 8 && !(u.mem == s.mem) | _ => false) = true)
      ∧ (∀ rd ∈ [true, false],
          let s := fabReqState rd
          (s.fabReqs.find? fun y => y.rtag == 9) = some (aReq .X rd) ∧ forUs s 11 (aPacket 4 0 4 0 [1, 2, 3, 4]) 4 = true
            ∧ fabIdValid s = true ∧ getCtx s { core := 0, slot := 0 } = some fabHeld
            ∧ (aReq .X rd).since + 115200 ≤ s.cycle)
      ∧ (fabHeld.seq .X).rtags = [9] ∧ (fabHeld.seq .X).hold = some .fabric
      ∧ (fabState (onX corner)).load = none ∧ fabHeld.retags = []
      ∧ (let off := { fabState (onX corner) with fabid := 5 }
         fabIdValid off = false ∧ tagArrives off 11 0 = true ∧ forUs off 11 (aPacket 1 0x20000 8 0 []) 1 = true
           ∧ tagArrives off 0 0 = false ∧ portLive off 11 = true)
      ∧ (∀ c ∈ [heldCopy, corner],
          let s := { fabState (loadState 0) with ctxs := [c] }
          let p := aPacket 8 1 0 0 []
          forUs s 11 p 8 = true ∧ tagAllowed s 11 0 = true ∧ physOk s (0x20000 + 64) 64 = true ∧ (aLoad 0).source = 0x20000
            ∧ spanHeld s (0x20000 + 64) 64 = (c == heldCopy)) := by
  and_intros <;> decide +kernel

theorem witness_FabricShards :
    (∃ l, shardState.load = some l ∧ l.active = true ∧ l.source ≠ 0 ∧ 0 < l.shards ∧ l.got[0]? = some false
        ∧ shardOk l 0 someBytes = true ∧ (l.got.set 0 true).all id = false) :=
  ⟨_, rfl, rfl, by decide, by decide, rfl, by simp [shardOk, aLoad, someBytes], rfl⟩

theorem witness_FabricRelay :
    (∀ n ∈ [(0 : Nat), 1], physOk (fabState (loadState 0)) (0x20000 + n * 64) 64 = true)
      ∧ ((fabState (loadState 0)).versions.find? fun v => sameVersion v 1 2 3) = some aVersion
      ∧ fabIdValid (fabState (loadState 0)) = true
      ∧ tagArrives { fabState (onX corner) with burgeeDst := 7 } 11 0 = true
      ∧ tagArrives (fabState (onX corner)) 0 0 = false
      ∧ tagAllowed (fabState (onX corner)) 10 0 = true
      ∧ routePort (fabState (onX corner)) (7 : Word).toNat = some 10
      ∧ (∀ t ∈ [(0 : BitVec 8), 9, 0x30, 0x32, 255], t = 0 ∨ (8 < t.toNat ∧ t ≠ 0x31))
      ∧ portLive (fabState (onX corner)) 11 = true := by
  and_intros <;> decide +kernel

/-- Polder 3 in a state, with function 2, key slot 5 and core 7, and the commons of cores 40 to 47. -/
def polderState (st : BitVec 2) : State :=
  { onX corner with
    polders := State.reset.polders.set 3 { Polder.reset with state := st, vf := 2, keys := 0x20, cores := 0x80, qdepth := 4, atomc := 64 }
    commons := 0xFF0000000000, cycle := 65536 }

theorem witness_PoldersAndKeys :
    (∀ st ∈ [(0 : BitVec 2), 1, 2, 3], (polderState st).polders.length = 16 ∧ (polderState st).keys.length = 32
        ∧ (getPolder (polderState st) 3).state = st)
      ∧ (let e (s : State) (v : Word) := activateErr s 3 (pdctlFields v (getPolder s 3))
         let s := polderState 1
         e s 0x0000800000000004 = 0 ∧ e { s with commons := 0x80 } 0x0000800000000004 = 1 ∧ e s 4 = 2 ∧ e s 0x0000800000000000 = 5)
      ∧ residentCtxs (polderState 3) 3 = [] ∧ heldPages (polderState 3) = [] ∧ (polderState 2).heldSubs = []
      ∧ (getPolder (polderState 2) 3).tdi = 0 ∧ polderIdle (polderState 2) 3 = true
      ∧ (let s := { polderState 2 with ctxs := [{ corner with polder := 3, life := .ending }] }
         polderIdle s 3 = false ∧ residentCtxs s 3 ≠ [])
      ∧ heldPages { polderState 3 with ctxs := [heldCopy] } ≠ []
      ∧ (let ok (s : State) (c : BitVec 160) : Bool := (List.range 16).all fun n =>
          n == 0 || (s.polders.getD n .reset).state != 2 || (s.polders.getD n .reset).tslice
            || (s.polders.getD n .reset).cores &&& c == 0
         ok (polderState 2) (setWord (polderState 2).commons 2 1) = true ∧ ok (polderState 2) (setWord (polderState 2).commons 0 128) = false)
      ∧ keyTaken (polderState 2) 5 = true ∧ keyTaken (polderState 1) 5 = false ∧ keyTaken (polderState 2) 31 = false
      ∧ (polderState 2).cycle % 65536 = 0 ∧ (polderState 2).cycle % 4096 = 0 ∧ (polderState 2).cycle % 1024 = 0
      ∧ (getPolder (polderState 2) 3).state = 2 := by
  and_intros <;> decide +kernel

/-- R299: a sealing key of bytes 1 for slot 0 at 0x20000. -/
def sealState : State := { onX corner with mem := (List.range 36).map fun n => ⟨0x20000 + n, 1⟩ }

theorem witness_SealingKey :
    getCtx sealState (ctxOf xId) = some corner ∧ polderAbsent sealState (regPolder sealState corner) = false
      ∧ (let l := pieces (checkAccess sealState (agentOf sealState corner) .read 0x20000 64 64)
         l.length = 1 ∧ l.all (fun x => !x.fabric) = true ∧ segsPoisoned sealState l = false ∧ natAt (segsRead sealState l) 37 27 = 0
           ∧ natAt (segsRead sealState l) 36 1 = 0)
      ∧ sealldWaits sealState corner 0x20000 = false ∧ sealldWaits { sealState with ctxs := [heldCopy] } corner 0x20000 = true
      ∧ (getPolder sealState (regPolder sealState corner)).keys.getLsbD 0 = true
      ∧ polderAbsent (onX { corner with pdsel := 3 }) (regPolder (onX { corner with pdsel := 3 }) { corner with pdsel := 3 }) = true := by
  and_intros <;> decide +kernel

/-- The host after start-up with function 2 of polder 3, sessions and an IDE stream of function 2. -/
def hostState (st tdi : BitVec 2) : State :=
  { polderState st with
    polders := (polderState st).polders.modify 3 fun d => { d with tdi := tdi }
    spdm := [0], ide := State.reset.ide.set 2 true
    fns := State.reset.fns.set 2 { enable := true, fmask := false, table := [(63, { addr := 0xFEE00000, data := 1, mask := true, pend := true })] } }

/-- Stage 2 of polder 3 maps the first 512 MiB to themselves under key slot 0. -/
def mapped (s : State) : State :=
  { s with
    mem := [⟨0x80000, 0x02⟩, ⟨0x80002, 0x09⟩, ⟨0x90000, 0x1D⟩]
    polders := s.polders.modify 3 fun d => { d with s2en := true, s2root := 8, keys := 0x21 } }

theorem witness_HostRequests :
    State.reset.startup < 5 ∧ bootBusy (onX corner) = true ∧ bootBusy ready0 = false
      ∧ (∀ x ∈ [((0x20000 : Word), (0 : Nat)), (0x20001, 14), (0x20300, 0x11)],
          (match bootLaunch { ready0 with mem := [⟨0x2031D, 44⟩] } x.1 with | .ok _ => 0 | .error n => n) = x.2)
      ∧ bootWaits ready0 0x20000 = false ∧ bootWaits { ready0 with ctxs := [{ heldCopy with life := .ending }] } 0x20000 = !bootBusy { ready0 with ctxs := [{ heldCopy with life := .ending }] }
      ∧ postedWaits ready0 = false
      ∧ postedWaits { ready0 with stalled := [.hostBar2Access 2 ⟨false, 0x20000⟩ 1 (some [7])] } = true
      ∧ barOpen ready0 8 none = true ∧ barOpen ready0 1 (some [7]) = true ∧ fnPolder ready0 2 = none
      ∧ barOpen ready0 4096 none = true ∧ pfOk ready0 false 0x20000 4096 = true
      ∧ pfOk ready0 true 0x20000 1 = true ∧ segsPoisoned ready0 (pfSegs 0x20000 4096) = false
      ∧ (∀ n ∈ [(1 : Nat), 4096], (pfSegs 0x20000 n).all (fun x => !pageHeld ready0 x.pa) = true)
      ∧ (∀ wr ∈ [true, false],
          let s := mapped (hostState 2 0)
          (match gpaSegs s 3 wr 0x20000 8 with
            | .ok segs => segs.all (fun x => !pageHeld s x.pa) && !segsPoisoned s segs
            | .error _ => false) = true)
      ∧ (getPolder (hostState 2 0) 3).tdi ≠ 2 ∧ (0x20000 + 8 ≤ 2 ^ 36)
      ∧ (hostState 2 2).ide.getD 2 false = true ∧ barOpen ready0 8 (some (List.replicate 8 0)) = true
      ∧ barOpen ready0 16 (some (List.replicate 16 7)) = true ∧ 0 < ready0.fns.length ∧ (getFn ready0 0).enable = false
      ∧ 0x1010 ≤ 65528 ∧ 65528 + 8 ≤ 65536
      ∧ (let s := hostState 2 0
         (getFn s 2).enable = true ∧ (getFn s 2).fmask = false ∧ (msixEntry (getFn s 2) 63).pend = true
           ∧ (∀ m, m < 63 → (msixEntry (getFn s 2) m).pend = false) ∧ s.startup = 5 ∧ s.spdm ≠ [] ∧ fnPolder s 2 = some 3)
      ∧ (∀ st ∈ [(1 : BitVec 2), 2, 3], ∀ tdi ∈ [(0 : BitVec 2), 1, 2, 3],
          fnPolder (hostState st tdi) 2 = some 3 ∧ (getPolder (hostState st tdi) 3).state = st
            ∧ (getPolder (hostState st tdi) 3).tdi = tdi)
      ∧ (hostState 2 2).polders.length = 16 ∧ ({ hostState 2 2 with ide := State.reset.ide.set 16 true }).ide.getD 16 false = true
      ∧ (∀ n ∈ [0, 4], slotPresent ready0 n = true)
      ∧ slotPresent { ready0 with dies := State.reset.dies.modify 3 fun d => { d with present := false } } 4 = false
      ∧ 5 ∈ slotIndices 0 ∧ 68 ∈ slotIndices 4 := by
  and_intros <;> decide +kernel

/-- R32, R58: widths, a lane predicate with lanes off, and the least and greatest elements. -/
theorem witness_LanesAndIntegerElements :
    (∀ f ∈ [Fmt.i8, Fmt.z8, Fmt.i16, Fmt.z16, Fmt.i32, Fmt.z32, Fmt.i64, Fmt.z64], isInt f = true ∧ fmtWidth f ∈ [4, 8, 16, 32, 64])
      ∧ (∀ i ∈ [0, 126, 127], laneOn (some (1 <<< 1016)) 32 i = (i == 127)) ∧ laneOn none 4 1023 = true
      ∧ intVal .i8 128 = -128 ∧ intVal .i8 127 = 127 ∧ (128 : Nat) < 2 ^ fmtWidth .i8 := by
  decide +kernel

/-- R53, R360: a column whose first two elements are 2 under a scale of 3.0, a row of A of 1.0 in E4M3, and 5.0 in the
accumulator: their sum is 17.0. -/
def intTile : StageData := { wf := .w4g48, form := .dense, tile := 0x22 :: (List.replicate 4607 0 ++ [0x40, 0x40]) }
def onesA : AVal := .regs 0 (List.replicate 12 (BitVec.ofNat 4096 ((2 ^ 4096 - 1) / 255 * 0x38)))
def intCtx : Ctx := { matCtx .dense with scratch := [⟨2, 0xA0⟩, ⟨3, 0x40⟩] }
def intCmd : MatCmd := { aMat (.mma true .e4m3 .w4g48 .dense 1) 3 with a := onesA }

theorem witness_LanesAndIntegerElements_matrix :
    (decodeF fpFp32 (accElem intCtx accDesc 0 0)).finite = true ∧ (decodeF fpFp32 (accElem intCtx accDesc 0 0)).num = 5
      ∧ (wScale intTile 0 0).finite = true ∧ (wScale intTile 0 0).num = 3
      ∧ (∀ l, l < 48 → let x := actVal .e4m3 (aElem intCtx onesA 1 0 l)
          let w := wElem intTile 0 l
          x.finite = true ∧ w.finite = true ∧ x.num * w.num = (if l < 2 then 2 else 0 : Int))
      ∧ mmaElem intCtx intCmd intTile .e4m3 1 0 0 = (0x41880000, Exc.none) := by
  and_intros <;> decide +kernel

/-- R36, R45: numbers, and in FP32 operands of each kind: a NaN, both infinities, both zeros, a subnormal, 1.0 and -1.0. -/
theorem witness_LanesAndIntegerElements_rounded :
    (∀ p ∈ [fpFp32, fpBf16, fpE5m2, fpE4m3], 1 < 2 ^ p.width ∧ (decodeF p 1).finite = true)
      ∧ isFp .fp32 = true ∧ isFp .bf16 = true
      ∧ (readF fpFp32 true 0x3F800000).finite = true ∧ (readF fpFp32 true 0x3F800000).num + (readF fpFp32 true 0x3F800000).num ≠ 0
      ∧ (readF fpFp32 true 0x3F800000).num - (readF fpFp32 true 0xBF800000).num ≠ 0 := by
  and_intros <;> decide +kernel

theorem witness_VectorArithmetic_special :
    (∀ a ∈ [(0x7F800001 : Nat), 0xFFC00000, 0x7F800000, 0xFF800000, 0, 0x80000000, 1, 0x3F800000, 0xBF800000], a < 2 ^ fmtWidth .fp32)
      ∧ fpFp32.infBits < 0x7F800001 % 2 ^ fpFp32.signBit ∧ ¬ fpFp32.infBits < 0xFF800000 % 2 ^ fpFp32.signBit
      ∧ 0xFF800000 % 2 ^ fpFp32.signBit = fpFp32.infBits ∧ 1 < 2 ^ fpFp32.fb
      ∧ (let n (v : Nat) := (readF fpFp32 true v).num
         n 0x3F800000 + n 0xBF800000 = 0 ∧ n 0x3F800000 - n 0x3F800000 = 0 ∧ n 0x3F800000 * n 1 = 0
           ∧ n 0x3F800000 * n 0x3F800000 + n 0xBF800000 = 0)
      ∧ arithElem .add .fp32 ⟨.rne, false⟩ false 0x7F800000 0xFF800000 = (0x7FC00003, { Exc.none with nv := true, causes := 8 })
      ∧ arithElem .min .fp32 ⟨.rne, false⟩ false 0 0x80000000 = (0x80000000, Exc.none) := by
  and_intros <;> decide +kernel

/-- R46, R48 to R52, R417: NaNs and infinities of formats that have them, numbers, and in FP32 the squares of 3 and of 1. -/
theorem witness_VectorReductions_special :
    (∀ f ∈ [Fmt.fp32, .bf16, .e5m2, .e4m3], isFloat f = true ∧ (readF (fpOf f) false 1).finite = true ∧ (readF (fpOf f) false 1).num ≠ 0
        ∧ (readF (fpOf f) false 0).num = 0)
      ∧ fpE4m3.infBits + 6 < 0x7F ∧ 0x7F < 2 ^ fmtWidth .e4m3 ∧ fpE5m2.inf = true ∧ 0xFC % 2 ^ fpE5m2.signBit = fpE5m2.infBits
      ∧ fpE5m2.infBits < 0x7D
      ∧ (∀ f ∈ [Fmt.i8, .z8, .i16, .z16, .i32, .z32, .i64, .z64], isFloat f = false ∧ f ≠ .raw ∧ f ≠ .pimg ∧ intVal f 1 ≠ 0 ∧ intVal f 0 = 0)
      ∧ clampInt .i8 127 = 127 ∧ clampInt .i8 128 ≠ 128
      ∧ (let n (v : Nat) := (readF fpFp32 true v).num
         n 0x41100000 = 3 * 3 ∧ (0 : Rat) < 3 ∧ n 0x3F800000 = 1 ∧ n 0xBF800000 < 0 ∧ n 0x80000000 = 0)
      ∧ cvtElem .fp32 .i8 ⟨.rne, false⟩ false 0x43000000 = (127, { Exc.none with nv := true })
      ∧ sfnElem fpFp32 ⟨.rne, false⟩ .sqrt 0x41100000 = (0x40400000, Exc.none) := by
  and_intros <;> decide +kernel

end Sys2Proof.Tests
end

/-! SUPPORT. What an access, a fetch and the check of an image header leave unchanged: only memory and what serves it differ
(R191, R196 to R199, R241, R242). -/

namespace Sys2Proof.Proofs

open Machine Laws

/-- Cores changed one by one in their ports, TLB and L1 alone. -/
theorem modCore_only (s : State) (n : Nat) (f : CoreState → CoreState) (hf : ∀ k, coreRest (f k) = coreRest k) :
    OnlyMemory s (modCore s n f) := by
  refine ⟨rfl, fun m => ?_, fun _ => rfl⟩
  simp only [getCore, modCore, List.getD_eq_getElem?_getD, List.getElem?_modify]
  cases s.cores[m]? with
  | none => rfl
  | some k => by_cases h : n = m <;> simp [h, hf]

theorem onlyMemory_ite {p : Prop} [Decidable p] {s t u : State} (ht : OnlyMemory s t) (hu : OnlyMemory s u) :
    OnlyMemory s (if p then t else u) := by split <;> assumption

section fields

variable {s t : State} (h : OnlyMemory s t)
include h

theorem onlyMemory_ctxs : t.ctxs = s.ctxs := by have := congrArg State.ctxs h.rest; exact this
theorem onlyMemory_polders : t.polders = s.polders := by have := congrArg State.polders h.rest; exact this
theorem onlyMemory_buntings : t.buntings = s.buntings := by have := congrArg State.buntings h.rest; exact this

end fields

/-! TLBs and heat (R241, R242) -/

theorem heatEntry_only (s : State) (die : Nat) (x : LeafRef) (rd wr : Bool) : OnlyMemory s (heatEntry s die x rd wr) := by
  unfold heatEntry
  exact onlyMemory_ite (onlyMemory_refl s) (physWrite_only s _ _ _ _ _)

theorem heatLeaves_only (s : State) (die : Nat) (l1 l2 : Option LeafRef) (rd wr : Bool) :
    OnlyMemory s (heatLeaves s die l1 l2 rd wr) := by
  cases l1 with
  | none => cases l2 with
    | none => exact onlyMemory_refl s
    | some y => exact heatEntry_only s die y rd wr
  | some x => cases l2 with
    | none => exact heatEntry_only s die x rd wr
    | some y => exact onlyMemory_trans (heatEntry_only s die x rd wr) (heatEntry_only _ die y rd wr)

theorem tlbInstall_only (s : State) (g : Agent) (e : TlbEntry) : OnlyMemory s (tlbInstall s g e) := by
  unfold tlbInstall
  extract_lets v s1 s2
  have h1 : OnlyMemory s s1 := by
    cases hc : g.core with
    | none => simp only [s1, hc]; exact onlyMemory_refl s
    | some c => simp only [s1, hc]; exact modCore_only s c _ fun _ => rfl
  have h2 : OnlyMemory s s2 := onlyMemory_ite (onlyMemory_trans h1 (modDie_only s1 _ _ fun _ => rfl)) h1
  exact onlyMemory_ite (onlyMemory_trans h2 (freeCtr_only s2 _)) h2

theorem walksInstall_only (s : State) (die : Nat) (ws : List WalkEntry) : OnlyMemory s (walksInstall s die ws) := by
  unfold walksInstall
  exact onlyMemory_ite (onlyMemory_refl s) (modDie_only s _ _ fun _ => rfl)

theorem noteSeg_only (s : State) (g : Agent) (acc : Acc) (x : Seg) : OnlyMemory s (noteSeg s g acc x) := by
  unfold noteSeg
  refine onlyMemory_trans (walksInstall_only s g.die x.walks) ?_
  generalize walksInstall s g.die x.walks = u
  dsimp only
  cases x.tlb with
  | none => exact heatLeaves_only u _ _ _ _ _
  | some e =>
    have h : ∀ p : Bool, OnlyMemory u (if p = true then
        heatLeaves u g.die e.leaf1 e.leaf2 (heatDue u g acc x).1 (heatDue u g acc x).2 else u) :=
      fun p => onlyMemory_ite (heatLeaves_only u _ _ _ _ _) (onlyMemory_refl u)
    exact onlyMemory_ite (h _) (onlyMemory_trans (h _) (tlbInstall_only _ g _))

theorem noteSegs_only (g : Agent) (acc : Acc) (l : List Seg) :
    ∀ (s : State) (p : Option TlbEntry), OnlyMemory s (noteSegs s g acc p l) := by
  induction l with
  | nil => exact fun s _ => onlyMemory_refl s
  | cons x l ih => exact fun s p => onlyMemory_ite (ih s p) (onlyMemory_trans (noteSeg_only s g acc x) (ih _ _))

theorem touch_only (s : State) (g : Agent) (acc : Acc) (gs : List (Nat × Nat)) : OnlyMemory s (touch s g acc gs) :=
  noteSegs_only g acc _ s none

/-! Caches (R196 to R199, R205) -/

theorem l1Use_only (s : State) (core : Nat) (n : BitVec 2) (ln : Nat) : OnlyMemory s (l1Use s core n ln) := by
  unfold l1Use
  split
  · exact onlyMemory_refl s
  · exact modCore_only s core _ fun _ => rfl

theorem l1Fill_only (s : State) (core m : Nat) (n : BitVec 2) (p : BitVec 4) (g : Option Nat) (ln : Nat) :
    OnlyMemory s (l1Fill s core m n p g ln) := by
  unfold l1Fill
  exact onlyMemory_ite (l1Use_only s core n ln)
    (onlyMemory_ite (onlyMemory_refl s) (modCore_only s core _ fun _ => rfl))

theorem l1Drop_only (s : State) (core : Nat) (keep : Bool) (f : Nat → Bool) : OnlyMemory s (l1Drop s core keep f) :=
  modCore_only s core _ fun _ => rfl

theorem rdcUse_only (s : State) (d : Nat) (n : BitVec 2) (ln : Nat) : OnlyMemory s (rdcUse s d n ln) :=
  modDie_only s d _ fun _ => rfl

theorem poolOwn_only (s : State) (d ln : Nat) : OnlyMemory s (poolOwn s d ln) := by
  unfold poolOwn
  refine onlyMemory_ite (onlyMemory_refl s) ?_
  refine onlyMemory_trans ?_ (modDie_only _ d _ fun _ => rfl)
  refine onlyMemory_trans (onlyMemory_trans ?_ (poolTake_only _ ln)) (rdcRoom_only _ d ln)
  split
  · exact rdcFlushLine_only s _
  · exact onlyMemory_refl s

theorem poolShare_only (s : State) (ln : Nat) : OnlyMemory s (poolShare s ln) := by
  unfold poolShare
  split
  · exact onlyMemory_refl s
  · exact onlyMemory_trans (rdcFlushLine_only s _) (mapIdxDies_only _ _ fun _ _ => by split <;> rfl)

theorem rdcReadPool_only (s : State) (d ln : Nat) : OnlyMemory s (rdcReadPool s d ln) := by
  unfold rdcReadPool
  exact onlyMemory_ite (onlyMemory_refl s) (onlyMemory_trans (poolShare_only s ln)
    (onlyMemory_trans (rdcRoom_only _ d ln) (modDie_only _ d _ fun _ => rfl)))

theorem rdcReadRemote_only (s : State) (d ln : Nat) : OnlyMemory s (rdcReadRemote s d ln) := by
  unfold rdcReadRemote
  exact onlyMemory_ite (onlyMemory_refl s) (onlyMemory_trans (rdcRoom_only s d ln) (modDie_only _ d _ fun _ => rfl))

theorem fillLine_only (s : State) (die : Nat) (n : BitVec 2) (p : BitVec 4) (g : Option Nat) (ln : Nat) :
    OnlyMemory s (fillLine s die n p g ln) := by
  unfold fillLine
  split
  · exact onlyMemory_ite (onlyMemory_trans (l2Fill_only s n p g ln)
      (onlyMemory_trans (rdcReadRemote_only _ die ln) (rdcUse_only _ _ _ _))) (l2Fill_only s n p g ln)
  · exact onlyMemory_ite (onlyMemory_trans (rdcReadPool_only s die ln) (rdcUse_only _ _ _ _)) (onlyMemory_refl s)
  · exact onlyMemory_refl s

theorem readLine_only (s : State) (g : Agent) (acc : Acc) (gr ln : Nat) : OnlyMemory s (readLine s g acc gr ln) := by
  unfold readLine
  split
  · exact onlyMemory_trans (poolOwn_only s _ ln) (rdcUse_only _ _ _ _)
  · exact fillLine_only s _ _ _ _ _

theorem writeLine_only (s : State) (g : Agent) (gr ln : Nat) : OnlyMemory s (writeLine s g gr ln) := by
  unfold writeLine
  split
  · exact rdcUse_only s _ _ _
  · exact onlyMemory_ite (onlyMemory_trans (l2Fill_only s _ _ _ _) (rdcUse_only _ _ _ _)) (l2Fill_only s _ _ _ _)

theorem fillSeg_only (s : State) (g : Agent) (acc : Acc) (l1 : Bool) (x : Seg) : OnlyMemory s (fillSeg s g acc l1 x) := by
  unfold fillSeg
  refine foldl_only (fun t ln => ?_) _ s
  have h : OnlyMemory t (if accReads acc then readLine t g acc (pieceGranule s x) ln
      else writeLine t g (pieceGranule s x) ln) :=
    onlyMemory_ite (readLine_only t g acc _ ln) (writeLine_only t g _ ln)
  dsimp only
  generalize (if accReads acc then readLine t g acc (pieceGranule s x) ln else writeLine t g (pieceGranule s x) ln) = u at h
  refine onlyMemory_trans h ?_
  cases g.core with
  | none => exact onlyMemory_refl u
  | some c =>
    cases acc with
    | read | fetch => exact onlyMemory_ite (l1Fill_only u _ _ _ _ _ _) (onlyMemory_refl u)
    | write | atomic => exact l1Use_only u _ _ _
    | xferWrite => exact l1Drop_only u _ _ _
    | xferRead => exact onlyMemory_refl u

/-- What an access leaves besides its bytes: nothing outside memory, TLBs, caches and the requests to the host. -/
theorem noteAccess_only (s : State) (g : Agent) (acc : Acc) (segs : List Seg) (l1 : Bool) :
    OnlyMemory s (noteAccess s g acc segs l1) :=
  onlyMemory_trans
    (onlyMemory_trans (noteSegs_only g acc segs s none) (foldl_only (fun t x => fillSeg_only t g acc l1 x) segs _))
    (onlyMemory_of rfl rfl rfl)

theorem noteFetch_only (s : State) (g : Agent) (base : Word) (line : Nat) : OnlyMemory s (noteFetch s g base line) := by
  unfold noteFetch
  dsimp only
  split
  · exact noteAccess_only s g .fetch _ true
  · exact onlyMemory_ite (touch_only s g .fetch _) (onlyMemory_refl s)

/-- The fetches of a header check (R90). -/
theorem noteImage_only (s : State) (g : Agent) (base : Word) : OnlyMemory s (noteImage s g base) := by
  unfold noteImage
  refine onlyMemory_trans (noteFetch_only s g base 0) ?_
  split
  · exact onlyMemory_refl _
  · exact foldl_only (fun t e => noteFetch_only t g base e) _ _

end Sys2Proof.Proofs

/-! SUPPORT. What a trap, the end of a context and the cancelling of tasks keep, each as a part of the state that stays
equal: of polders all but queue and park log, of buntings all but who is parked, of contexts which bunting they serve. -/

namespace Sys2Proof.Proofs

open Machine Laws

/-- A part of the state that every step of a fold keeps. -/
theorem foldl_keeps {α β : Type} (f : State → β) {g : State → α → State} (hg : ∀ s x, f (g s x) = f s) (l : List α) :
    ∀ s : State, f (l.foldl g s) = f s := by
  induction l with
  | nil => exact fun _ => rfl
  | cons a l ih => exact fun s => (ih (g s a)).trans (hg s a)

/-- A part of a list that a change of one entry keeps. -/
theorem map_modify_keeps {α β : Type} {g : α → β} {f : α → α} (h : ∀ x, g (f x) = g x) (l : List α) (n : Nat) :
    (l.modify n f).map g = l.map g := by
  refine List.ext_getElem? fun i => ?_
  simp only [List.getElem?_map, List.getElem?_modify]
  cases l[i]? with
  | none => rfl
  | some x => by_cases hi : n = i <;> simp [hi, h]

/-- A part of a list that a change of every entry keeps. -/
theorem map_map_keeps {α β : Type} {g : α → β} {f : α → α} (h : ∀ x, g (f x) = g x) (l : List α) :
    (l.map f).map g = l.map g := by
  rw [List.map_map]
  exact List.map_congr_left fun x _ => h x

/-- A polder without its queue and its park log. -/
def polderRest (d : Polder) : Polder := { d with queue := [], parklog := .empty }

@[simp] theorem polderRest_state (d : Polder) : (polderRest d).state = d.state := rfl
@[simp] theorem polderRest_tdi (d : Polder) : (polderRest d).tdi = d.tdi := rfl
@[simp] theorem polderRest_stopping (d : Polder) : (polderRest d).stopping = d.stopping := rfl

/-- A bunting without who of its members is parked, why, and at which row. -/
def buntingRest (b : Bunting) : Bunting :=
  { b with members := b.members.map fun m => { m with parked := none, firstRow := 0 } }

@[simp] theorem buntingRest_id (b : Bunting) : (buntingRest b).id = b.id := rfl
@[simp] theorem buntingRest_replay (b : Bunting) : (buntingRest b).replay = b.replay := rfl
@[simp] theorem buntingRest_running (b : Bunting) : (buntingRest b).running = b.running := rfl
@[simp] theorem buntingRest_image (b : Bunting) : (buntingRest b).image = b.image := rfl
@[simp] theorem buntingRest_gathered (b : Bunting) : (buntingRest b).gathered = b.gathered := rfl
@[simp] theorem buntingRest_members_length (b : Bunting) : (buntingRest b).members.length = b.members.length := by
  simp [buntingRest]

/-- The polders, the buntings and the contexts, as far as no trap, no end of a context and no cancelling changes them. -/
structure Standing where
  polders  : List Polder
  buntings : List Bunting
  neutrals : List (CtxId × Option Nat)

def standing (s : State) : Standing :=
  { polders := s.polders.map polderRest, buntings := s.buntings.map buntingRest
    neutrals := s.ctxs.map fun c => (c.id, c.neutral) }

theorem standing_eq {s t : State} (hp : t.polders.map polderRest = s.polders.map polderRest)
    (hb : t.buntings.map buntingRest = s.buntings.map buntingRest)
    (hc : (t.ctxs.map fun c => (c.id, c.neutral)) = s.ctxs.map fun c => (c.id, c.neutral)) : standing t = standing s := by
  simp only [standing, hp, hb, hc]

/-! What the standing part says -/

theorem polderRest_of_standing {s t : State} (h : standing t = standing s) (p : BitVec 4) :
    polderRest (getPolder t p) = polderRest (getPolder s p) := by
  have hp : t.polders.map polderRest = s.polders.map polderRest := congrArg Standing.polders h
  have hget : (t.polders[p.toNat]?).map polderRest = (s.polders[p.toNat]?).map polderRest := by
    rw [← List.getElem?_map, hp, List.getElem?_map]
  simp only [getPolder, List.getD_eq_getElem?_getD]
  cases ht : t.polders[p.toNat]? <;> cases hs : s.polders[p.toNat]? <;> simp_all

theorem bunting_of_standing {s t : State} (h : standing t = standing s) {b : Bunting} (hb : b ∈ s.buntings) :
    ∃ b' ∈ t.buntings, buntingRest b' = buntingRest b := by
  have hm : t.buntings.map buntingRest = s.buntings.map buntingRest := congrArg Standing.buntings h
  have : buntingRest b ∈ t.buntings.map buntingRest := hm ▸ List.mem_map_of_mem hb
  simpa using this

/-- Contexts stand under the same identifiers and serve the same buntings. -/
theorem neutral_of_standing {s t : State} (h : standing t = standing s) (id : CtxId) :
    (getCtx t id).map (fun c => c.neutral) = (getCtx s id).map fun c => c.neutral := by
  have key : ∀ u : State, (getCtx u id).map (fun c => c.neutral) =
      ((standing u).neutrals.find? fun x => x.1 == id).map Prod.snd := by
    intro u
    simp only [getCtx, standing, List.find?_map, Option.map_map]
    rfl
  rw [key, key, h]

/-! What keeps it -/

theorem standing_of_onlyMemory {s t : State} (h : OnlyMemory s t) : standing t = standing s := by
  simp only [standing, onlyMemory_polders h, onlyMemory_buntings h, onlyMemory_ctxs h]

theorem standing_mapCtxs (s : State) {f : Ctx → Ctx} (hi : ∀ c, (f c).id = c.id) (hn : ∀ c, (f c).neutral = c.neutral) :
    standing { s with ctxs := s.ctxs.map f } = standing s :=
  standing_eq rfl rfl (map_map_keeps (fun c => by rw [hi, hn]) _)

theorem standing_modCtx (s : State) (id : CtxId) {f : Ctx → Ctx} (hi : ∀ c, (f c).id = c.id)
    (hn : ∀ c, (f c).neutral = c.neutral) : standing (modCtx s id f) = standing s :=
  standing_mapCtxs s (fun c => by split <;> simp [hi]) (fun c => by split <;> simp [hn])

theorem standing_modPolder (s : State) (p : BitVec 4) {f : Polder → Polder} (hf : ∀ d, polderRest (f d) = polderRest d) :
    standing (modPolder s p f) = standing s := standing_eq (map_modify_keeps hf _ _) rfl rfl

@[simp] theorem standing_modLaunch (s : State) (p : BitVec 4) (q : BitVec 48) (f : Launch → Launch) :
    standing (modLaunch s p q f) = standing s := standing_modPolder s p fun _ => rfl

@[simp] theorem standing_setTask (s : State) (t : TaskRef) (x : TaskState) : standing (setTask s t x) = standing s :=
  standing_modLaunch s _ _ _

@[simp] theorem standing_setAbnormal (s : State) (p : BitVec 4) (q : BitVec 48) :
    standing (setAbnormal s p q) = standing s := standing_modLaunch s _ _ _

theorem buntingRest_park (x : Bunting) (k : Nat) (cause : BitVec 8) (row : Nat) :
    buntingRest { x with members := x.members.modify k fun y => { y with parked := some cause, firstRow := row } } =
      buntingRest x := by
  simp only [buntingRest]
  rw [map_modify_keeps]
  exact fun _ => rfl

@[simp] theorem standing_parkMember (s : State) (b m : Nat) (cause : BitVec 8) (row : Nat) :
    standing (parkMember s b m cause row) = standing s := by
  unfold parkMember
  split
  · rfl
  · split
    · rfl
    · extract_lets s1 s2
      have h1 : standing s1 = standing s := by
        refine standing_eq rfl (map_map_keeps (fun x => ?_) _) (map_map_keeps (fun c => ?_) _)
        · split
          · exact buntingRest_park x _ _ _
          · rfl
        · split <;> rfl
      split
      · exact h1
      · have h2 : standing s2 = standing s1 := standing_modPolder s1 _ fun _ => rfl
        exact (standing_modLaunch s2 _ _ _).trans (h2.trans h1)

@[simp] theorem standing_parkAll (s : State) (b : Nat) (cause : BitVec 8) (n : Nat) :
    standing (parkAll s b cause n) = standing s := by
  induction n with
  | zero => rfl
  | succ n ih => exact (standing_parkMember _ _ _ _ _).trans ih

/-- The end of a context without END (R259). -/
@[simp] theorem standing_endCtx (s : State) (id : CtxId) (cause : BitVec 8) : standing (endCtx s id cause) = standing s := by
  unfold endCtx
  split
  · rfl
  · extract_lets cutSeq s1 keep s2 s3 s4
    have h3 : standing s3 = standing s := standing_modCtx s id (fun _ => rfl) fun _ => rfl
    have h4 : standing s4 = standing s := by
      simp only [s4]
      split
      · simpa using h3
      · exact h3
    split
    · exact (standing_parkAll _ _ _ _).trans h4
    · exact h4

theorem standing_enterVector (s : State) (c : Ctx) (t : TrapReq) (r : Bool) (len : Nat) (ents : List Nat) :
    standing (enterVector s c t r len ents) = standing s :=
  standing_modCtx s c.id (fun _ => by simp [Ctx.modSeq]) fun _ => by simp [Ctx.modSeq]

/-- A trap that is taken (R254, R255, R259). -/
@[simp] theorem standing_takeTrap (s : State) (c : Ctx) (t : TrapReq) : standing (takeTrap s c t) = standing s := by
  have image : ∀ u g b, standing (noteImage u g b) = standing u :=
    fun u g b => standing_of_onlyMemory (noteImage_only u g b)
  obtain e | ⟨u, hu, e⟩ := takeTrap_cases s c t
  · rw [e]; exact standing_modCtx s c.id (fun _ => rfl) fun _ => rfl
  · have h : standing u = standing s := by
      obtain rfl | ⟨g, b, rfl⟩ | ⟨g, b, g', b', rfl⟩ := hu
      · rfl
      · exact image s g b
      · rw [image, image]
    obtain e | ⟨r, len, ents, e⟩ := e
    · rw [e, standing_endCtx, h]
    · rw [e, standing_enterVector, h]

theorem giveBack_keeps (c : Ctx) (w : Option (BitVec 4)) :
    (c.giveBack w).id = c.id ∧ (c.giveBack w).neutral = c.neutral := by
  unfold Ctx.giveBack
  split
  · exact ⟨rfl, rfl⟩
  · split <;> simp

theorem restoreWait_keeps (q : Seqr) (c : Ctx) :
    (restoreWait q c).id = c.id ∧ (restoreWait q c).neutral = c.neutral := by
  simpa [restoreWait, Ctx.modSeq] using giveBack_keeps c (c.seq q).waited

theorem withdrawSaves_keeps (c : Ctx) (q : Seqr) (p : SeqSave → Bool) :
    (c.withdrawSaves q p).id = c.id ∧ (c.withdrawSaves q p).neutral = c.neutral := by
  have h : ∀ (l : List SeqSave) (c : Ctx), (l.foldl (fun c v => c.giveBack v.waited) c).id = c.id
      ∧ (l.foldl (fun c v => c.giveBack v.waited) c).neutral = c.neutral := by
    intro l
    induction l with
    | nil => exact fun _ => ⟨rfl, rfl⟩
    | cons v l ih =>
      intro c
      obtain ⟨hi, hn⟩ := ih (c.giveBack v.waited)
      obtain ⟨gi, gn⟩ := giveBack_keeps c v.waited
      exact ⟨hi.trans gi, hn.trans gn⟩
  exact h _ c

@[simp] theorem standing_trapBefore (s : State) (id : CtxId) (q : Seqr) (t : TrapReq) :
    standing (trapBefore s id q t) = standing s := by
  have h : standing (modCtx s id (restoreWait q)) = standing s :=
    standing_modCtx s id (fun c => (restoreWait_keeps q c).1) fun c => (restoreWait_keeps q c).2
  unfold trapBefore
  dsimp only
  split
  · exact h
  · rw [standing_takeTrap, h]

@[simp] theorem standing_raiseTrap (s : State) (id : CtxId) (t : TrapReq) : standing (raiseTrap s id t) = standing s := by
  unfold raiseTrap
  split
  · rfl
  · split
    · rfl
    · split
      · exact standing_modCtx s id (fun _ => rfl) fun _ => rfl
      · exact standing_takeTrap s _ t

/-! Cancelling, and the destruction of a polder (R127, R288) -/

@[simp] theorem standing_cancelTask (s : State) (t : TaskRef) (x : TaskState) :
    standing (cancelTask s t x).1 = standing s := by
  have leave : standing (leaveBucket s t) = standing s := rfl
  cases x
  case queued | routed | held => simp [cancelTask, leave]
  case running | ending | saved =>
    exact standing_mapCtxs s (fun c => by split <;> rfl) fun c => by split <;> rfl
  all_goals rfl

@[simp] theorem standing_dropTasks (s : State) (p : BitVec 4) : standing (dropTasks s p) = standing s := by
  refine foldl_keeps standing (fun t l => foldl_keeps standing (fun u x => ?_) _ t) _ s
  split
  · exact standing_cancelTask u _ _
  · exact standing_cancelTask u _ _
  · exact standing_cancelTask u _ _
  · rfl

@[simp] theorem standing_parkPolder (s : State) (p : BitVec 4) : standing (parkPolder s p) = standing s := by
  refine foldl_keeps standing (fun t b => foldl_keeps standing (fun u m => ?_) _ t) _ s
  split
  · exact standing_parkMember u _ _ _ _
  · rfl

@[simp] theorem standing_failSub (s : State) (h : HeldSub) : standing (failSub s h) = standing s := by
  unfold failSub
  extract_lets u t held
  have hu : standing u = standing s := rfl
  split
  · exact hu
  · split
    · rw [standing_trapBefore, hu]
    · rw [standing_raiseTrap, standing_modCtx u _ (fun c => (withdrawSaves_keeps c .X held).1)
        fun c => (withdrawSaves_keeps c .X held).2, hu]

@[simp] theorem standing_failSubs (s : State) (p : BitVec 4) : standing (failSubs s p) = standing s :=
  foldl_keeps standing standing_failSub _ s

/-- The state t with the dies, versions and images of s. -/
def vaultsFrom (s t : State) : State := { t with dies := s.dies, versions := s.versions, images := s.images }

/-- Versions that leave the vault touch nothing else (R186). -/
theorem retireVersions_rest (s : State) : vaultsFrom s (retireVersions s) = s :=
  foldl_keeps (vaultsFrom s)
    (g := fun t v => scrubVault { t with versions := t.versions.filter (· != v) } v.home v.page v.pages) (fun _ _ => rfl) _ s

/-- Images that leave the vault touch nothing else (R160). -/
theorem retireImages_rest (s : State) : vaultsFrom s (retireImages s) = s := by
  refine foldl_keeps (vaultsFrom s) (fun t v => ?_) _ s
  exact foldl_keeps (vaultsFrom s) (g := fun u (x : Nat × Nat × Nat) => scrubVault u x.1 x.2.1 x.2.2) (fun _ _ => rfl) _
    { t with images := t.images.filter fun w => w.id != v.id }

/-- A part of the state that does not speak of the vaults stays. -/
theorem keeps_retireVersions {α : Type} (f : State → α) (hf : ∀ s t, f (vaultsFrom s t) = f t) (s : State) :
    f (retireVersions s) = f s := by rw [← hf s, retireVersions_rest]

theorem keeps_retireImages {α : Type} (f : State → α) (hf : ∀ s t, f (vaultsFrom s t) = f t) (s : State) :
    f (retireImages s) = f s := by rw [← hf s, retireImages_rest]

@[simp] theorem standing_retireVersions (s : State) : standing (retireVersions s) = standing s :=
  keeps_retireVersions standing (fun _ _ => rfl) s

@[simp] theorem standing_discardSaved (s : State) (p : BitVec 4) : standing (discardSaved s p) = standing s := by
  unfold discardSaved restoreDone
  split
  · split <;> rfl
  · rfl

/-- A polder whose destruction or quiescing begins: beside its STATE every polder keeps its controls (R288, R294). -/
theorem standing_startDestroy (s : State) (p : BitVec 4) (stop : Bool) :
    standing (startDestroy s p stop) = standing (modPolder s p fun d => { d with state := 3, stopping := stop }) := by
  unfold startDestroy
  extract_lets s1 live s2
  have h2 : standing s2 = standing s1 := foldl_keeps standing (fun t c => standing_endCtx t c.id 0x17) live s1
  have resid : standing (dropResid s2 p) = standing s2 := rfl
  simp [resid, h2, s1]

end Sys2Proof.Proofs

/-! SUPPORT. The registers behind BAR0 and the MSI-X tables (R134, R291, R292): entries read after they are set, a table
entry written byte by byte, and the messages that become due. -/

namespace Sys2Proof.Proofs

open Machine Laws

/-! ### Association lists -/

@[simp] theorem alGet_alSet_same {α : Type} (l : List (Nat × α)) (k : Nat) (v : α) : alGet (alSet l k v) k = some v := by
  induction l with
  | nil => simp [alSet, alGet]
  | cons e l ih =>
    obtain ⟨j, w⟩ := e
    by_cases h : j = k
    · simp [alSet, alGet, h]
    · simpa [alSet, alGet, h] using ih

theorem alGet_alSet_ne {α : Type} (l : List (Nat × α)) {k j : Nat} (v : α) (h : j ≠ k) :
    alGet (alSet l k v) j = alGet l j := by
  induction l with
  | nil => simp [alSet, alGet, h.symm]
  | cons e l ih =>
    obtain ⟨i, w⟩ := e
    by_cases hi : i = k
    · simp [alSet, alGet, hi, h.symm]
    · by_cases hj : i = j
      · simp [alSet, alGet, hj, h]
      · simpa [alSet, alGet, hi, hj] using ih

/-! ### Entries of a function's table -/

/-- Entry n of a function's table becomes e. -/
def setEntry (n : Nat) (e : MsixEntry) (x : HostFn) : HostFn := { x with table := alSet x.table n e }

@[simp] theorem setEntry_enable (n : Nat) (e : MsixEntry) (x : HostFn) : (setEntry n e x).enable = x.enable := rfl
@[simp] theorem setEntry_fmask (n : Nat) (e : MsixEntry) (x : HostFn) : (setEntry n e x).fmask = x.fmask := rfl

@[simp] theorem msixEntry_setEntry_same (n : Nat) (e : MsixEntry) (x : HostFn) : msixEntry (setEntry n e x) n = e := by
  simp [msixEntry, setEntry]

theorem msixEntry_setEntry_ne {n m : Nat} (e : MsixEntry) (x : HostFn) (h : m ≠ n) :
    msixEntry (setEntry n e x) m = msixEntry x m := by
  simp [msixEntry, setEntry, alGet_alSet_ne _ _ h]

theorem getFn_modFn {s : State} {f : Nat} (g : HostFn → HostFn) (h : f < s.fns.length) :
    getFn (modFn s f g) f = g (getFn s f) := by
  simp [getFn, modFn, h]

@[simp] theorem modFn_outbox (s : State) (f : Nat) (g : HostFn → HostFn) : (modFn s f g).outbox = s.outbox := rfl
@[simp] theorem modFn_length (s : State) (f : Nat) (g : HostFn → HostFn) : (modFn s f g).fns.length = s.fns.length := by
  simp [modFn]

/-! ### Pending messages (R134) -/

/-- The message of entry n can leave: it is pending, and neither the entry nor the function is masked. -/
def msiDue (x : HostFn) (n : Nat) : Bool :=
  x.enable && !x.fmask && (msixEntry x n).pend && !(msixEntry x n).mask

/-- The message of entry n sent, and no longer pending. -/
def sendPending (s : State) (f n : Nat) : State :=
  let e := msixEntry (getFn s f) n
  sendMsi (modFn s f (setEntry n { e with pend := false })) f e

theorem unpend_eq (s : State) (f : Nat) :
    unpend s f = (List.range 64).foldl (fun t n => if msiDue (getFn t f) n then sendPending t f n else t) s := rfl

theorem foldl_sendPending_none {s : State} {f : Nat} {l : List Nat} (h : ∀ m ∈ l, msiDue (getFn s f) m = false) :
    l.foldl (fun t n => if msiDue (getFn t f) n then sendPending t f n else t) s = s := by
  induction l with
  | nil => rfl
  | cons m l ih =>
    simp only [List.foldl_cons, h m (by simp), Bool.false_eq_true, if_false]
    exact ih fun k hk => h k (by simp [hk])

/-- No message leaves where none is due. -/
theorem unpend_none {s : State} {f : Nat} (h : ∀ m, m < 64 → msiDue (getFn s f) m = false) : unpend s f = s := by
  rw [unpend_eq]
  exact foldl_sendPending_none fun m hm => h m (List.mem_range.mp hm)

theorem msiDue_of_not_pend {x : HostFn} {n : Nat} (h : (msixEntry x n).pend = false) : msiDue x n = false := by
  simp [msiDue, h]

theorem getFn_sendPending {s : State} {f : Nat} (n : Nat) (h : f < s.fns.length) :
    getFn (sendPending s f n) f = setEntry n { msixEntry (getFn s f) n with pend := false } (getFn s f) :=
  getFn_modFn _ h

theorem foldl_sendPending_one {s : State} {f n : Nat} (hf : f < s.fns.length) (hn : msiDue (getFn s f) n = true)
    (l : List Nat) (h : ∀ m ∈ l, m ≠ n → (msixEntry (getFn s f) m).pend = false) (hl : n ∈ l) :
    l.foldl (fun t n => if msiDue (getFn t f) n then sendPending t f n else t) s = sendPending s f n := by
  induction l with
  | nil => simp at hl
  | cons m l ih =>
    have rest : ∀ k ∈ l, k ≠ n → (msixEntry (getFn s f) k).pend = false := fun k hk => h k (by simp [hk])
    by_cases hm : m = n
    · subst hm
      simp only [List.foldl_cons, hn, if_true]
      refine foldl_sendPending_none fun k hk => msiDue_of_not_pend ?_
      rw [getFn_sendPending m hf]
      by_cases hkm : k = m
      · subst hkm; simp
      · rw [msixEntry_setEntry_ne _ _ hkm]; exact rest k hk hkm
    · simp only [List.foldl_cons, msiDue_of_not_pend (h m (by simp) hm), Bool.false_eq_true, if_false]
      exact ih rest ((List.mem_cons.mp hl).resolve_left fun e => hm e.symm)

/-- Of a function with one due message, that message leaves. -/
theorem unpend_one {s : State} {f n : Nat} (hf : f < s.fns.length) (h64 : n < 64) (hn : msiDue (getFn s f) n = true)
    (h : ∀ m, m < 64 → m ≠ n → (msixEntry (getFn s f) m).pend = false) : unpend s f = sendPending s f n := by
  rw [unpend_eq]
  exact foldl_sendPending_one hf hn _ (fun m hm => h m (List.mem_range.mp hm)) (List.mem_range.mpr h64)

/-! ### A table entry as bytes (R291) -/

theorem leNat_lt (l : List Byte) : leNat l < 256 ^ l.length := by
  induction l with
  | nil => simp [leNat]
  | cons b l ih =>
    have := b.isLt
    simp only [leNat, List.length_cons, Nat.pow_succ]
    omega

theorem leBytes_leNat (l : List Byte) : leBytes (leNat l) l.length = l := by
  induction l with
  | nil => rfl
  | cons b l ih =>
    have hb := b.isLt
    have hd : (b.toNat + 256 * leNat l) / 256 = leNat l := by omega
    have hm : BitVec.ofNat 8 (b.toNat + 256 * leNat l) = b := by
      apply BitVec.eq_of_toNat_eq
      simp only [BitVec.toNat_ofNat]
      omega
    simp only [leNat, List.length_cons, leBytes, hd, hm, ih]

/-- The bytes of the word of w bits that n bytes give. -/
theorem leBytes_word {w n : Nat} (l : List Byte) (h : l.length = n) (hw : w = 8 * n) :
    leBytes (BitVec.ofNat w (leNat l)).toNat n = l := by
  have hlt := leNat_lt l
  have h2 : (2 : Nat) ^ (8 * n) = 256 ^ n := by rw [Nat.pow_mul]
  subst hw h
  rw [BitVec.toNat_ofNat, h2, Nat.mod_eq_of_lt hlt, leBytes_leNat]

theorem leNat_leBytes (n : Nat) : ∀ x, leNat (leBytes x n) = x % 256 ^ n := by
  induction n with
  | zero => exact fun x => (Nat.mod_one x).symm
  | succ n ih =>
    intro x
    have h : x % 256 ^ (n + 1) = x % 256 + 256 * (x / 256 % 256 ^ n) := by
      rw [Nat.pow_succ, Nat.mul_comm, Nat.mod_mul]
    simp only [leBytes, leNat, ih, BitVec.toNat_ofNat, h, Nat.reducePow]

@[simp] theorem leBytes_length (n : Nat) : ∀ x, (leBytes x n).length = n := by
  induction n with
  | zero => exact fun _ => rfl
  | succ n ih => intro x; simp [leBytes, ih]

@[simp] theorem msixBytes_length (e : MsixEntry) : (msixBytes e).length = 16 := by simp [msixBytes]

/-- What an entry's bytes say of it: the twelve of address and data, and bit 0 of the control word. -/
theorem msixOf_congr {l l' : List Byte} {p : Bool} (h : l.take 12 = l'.take 12)
    (h12 : natAt l 12 1 % 2 = natAt l' 12 1 % 2) : msixOf l p = msixOf l' p := by
  have ha : natAt l 0 8 = natAt l' 0 8 := by
    have := congrArg (fun x => leNat (x.take 8)) h
    simpa [natAt, bytesAt, List.take_take] using this
  have hd : natAt l 8 4 = natAt l' 8 4 := by
    have := congrArg (fun x => leNat (x.drop 8)) h
    simpa [natAt, bytesAt, List.drop_take] using this
  simp only [msixOf, ha, hd, h12]

/-- The bytes of an entry that was read from bytes are those, as far as they say anything. -/
theorem msixBytes_msixOf {l : List Byte} (h : l.length = 16) (p : Bool) :
    (msixBytes (msixOf l p)).take 12 = l.take 12 ∧ natAt (msixBytes (msixOf l p)) 12 1 % 2 = natAt l 12 1 % 2 := by
  have ha : leBytes (msixOf l p).addr.toNat 8 = bytesAt l 0 8 :=
    leBytes_word _ (by simp [bytesAt, h]) rfl
  have hd : leBytes (msixOf l p).data.toNat 4 = bytesAt l 8 4 :=
    leBytes_word _ (by simp [bytesAt, h]) rfl
  have h12 : bytesAt l 0 8 ++ bytesAt l 8 4 = l.take 12 := by
    simp [bytesAt, ← List.take_add]
  have hb : msixBytes (msixOf l p) = l.take 12 ++ leBytes (if (msixOf l p).mask then 1 else 0) 4 := by
    rw [msixBytes, ha, hd, h12]
  have hl : (l.take 12).length = 12 := by simp [h]
  rw [hb]
  constructor
  · rw [List.take_left' hl]
  · have : ∀ m : Bool, natAt (l.take 12 ++ leBytes (if m then 1 else 0) 4) 12 1 = if m then 1 else 0 := by
      intro m
      rw [natAt, bytesAt, List.drop_left' hl]
      cases m <;> rfl
    rw [this]
    have hm : (msixOf l p).mask = (natAt l 12 1 % 2 == 1) := rfl
    rw [hm]
    obtain h0 | h1 := Nat.mod_two_eq_zero_or_one (natAt l 12 1)
    · simp [h0]
    · simp [h1]

/-- One byte of an entry written. -/
def putByte (e : MsixEntry) (x : Nat × Byte) : MsixEntry := msixOf ((msixBytes e).set x.1 x.2) e.pend

/-- A byte of an entry that was read from bytes written is that byte of the bytes written. -/
theorem putByte_msixOf {l : List Byte} (h : l.length = 16) (p : Bool) (x : Nat × Byte) :
    putByte (msixOf l p) x = msixOf (l.set x.1 x.2) p := by
  obtain ⟨ht, hc⟩ := msixBytes_msixOf h p
  refine msixOf_congr ?_ ?_
  · rw [List.take_set, List.take_set, ht]
  · have key : ∀ l : List Byte, l.length = 16 →
        natAt (l.set x.1 x.2) 12 1 = if x.1 = 12 then x.2.toNat else natAt l 12 1 := by
      intro l hl
      obtain ⟨y, ys, hy⟩ := List.exists_cons_of_length_pos (show 0 < (l.drop 12).length by simp [hl])
      rw [natAt, natAt, bytesAt, bytesAt, List.drop_set, hy]
      obtain hlt | heq | hgt := Nat.lt_trichotomy x.1 12
      · simp [hlt, Nat.ne_of_lt hlt]
      · simp [heq, leNat]
      · obtain ⟨k, hk⟩ := Nat.exists_eq_add_of_lt hgt
        have hsub : x.1 - 12 = k + 1 := by omega
        rw [if_neg (Nat.lt_asymm hgt), if_neg (Nat.ne_of_gt hgt), hsub, List.set_cons_succ]
        rfl
    rw [key _ h, key _ (msixBytes_length _)]
    split
    · rfl
    · exact hc

/-- An entry is what its bytes say. -/
theorem msixOf_msixBytes (e : MsixEntry) : msixOf (msixBytes e) e.pend = e := by
  have hd : bytesAt (msixBytes e) 8 4 = leBytes e.data.toNat 4 := by
    rw [bytesAt, msixBytes, List.append_assoc, List.drop_left' (by simp), List.take_left' (by simp)]
  have hm : bytesAt (msixBytes e) 12 1 = [if e.mask then 1 else 0] := by
    rw [bytesAt, msixBytes, List.drop_left' (by simp)]
    cases e.mask <;> rfl
  have ha : bytesAt (msixBytes e) 0 8 = leBytes e.addr.toNat 8 := by
    rw [bytesAt, msixBytes, List.drop_zero, List.append_assoc, List.take_left' (by simp)]
  cases e with
  | mk addr data mask pend =>
    have h64 := addr.isLt
    have h32 := data.isLt
    simp only [msixOf, natAt, ha, hd, hm, leNat_leBytes, MsixEntry.mk.injEq]
    refine ⟨?_, ?_, ?_, trivial⟩
    · apply BitVec.eq_of_toNat_eq
      rw [BitVec.toNat_ofNat]
      omega
    · apply BitVec.eq_of_toNat_eq
      rw [BitVec.toNat_ofNat]
      omega
    · cases mask <;> rfl

theorem foldl_putByte {p : Bool} (xs : List (Nat × Byte)) :
    ∀ l : List Byte, l.length = 16 →
      xs.foldl putByte (msixOf l p) = msixOf (xs.foldl (fun l x => l.set x.1 x.2) l) p := by
  induction xs with
  | nil => exact fun _ _ => rfl
  | cons x xs ih =>
    intro l hl
    rw [List.foldl_cons, List.foldl_cons, putByte_msixOf hl, ih _ (by simpa using hl)]

/-- Bytes set one after the other from place k on. -/
theorem foldl_set_range (bs : List Byte) : ∀ (pre l : List Byte), l.length = bs.length →
    ((List.range' pre.length bs.length).zip bs).foldl (fun l x => l.set x.1 x.2) (pre ++ l) = pre ++ bs := by
  induction bs with
  | nil => intro pre l hl; simp_all
  | cons b bs ih =>
    intro pre l hl
    obtain ⟨y, ys, rfl⟩ := List.exists_cons_of_length_pos (show 0 < l.length by simp [hl])
    have := ih (pre ++ [b]) ys (by simpa using hl)
    simpa [List.range'_succ] using this

/-- Sixteen bytes written over an entry are the entry that they give; what is pending stays pending. -/
theorem foldl_putByte_all (e : MsixEntry) {bs : List Byte} (h : bs.length = 16) :
    ((List.range 16).zip bs).foldl putByte e = msixOf bs e.pend := by
  have hs := foldl_set_range bs [] (msixBytes e) (by simp [h])
  rw [h] at hs
  conv => lhs; rw [← msixOf_msixBytes e]
  rw [foldl_putByte _ _ (msixBytes_length e), List.range_eq_range']
  exact congrArg (fun l => msixOf l e.pend) hs

/-! ### Writes of a table entry -/

/-- A byte of entry n written at BAR0 (R291). -/
theorem bar0Put_entry (s : State) (fn : BitVec 4) {n i : Nat} (b : Byte) (hn : n < 64) (hi : i < 16) :
    bar0Put s fn (16 * n + i) b =
      modFn s fn.toNat fun x => setEntry n (putByte (msixEntry x n) (i, b)) x := by
  have h1 : (16 * n + i) / 16 = n := by omega
  have h2 : (16 * n + i) % 16 = i := by omega
  simp only [bar0Put, if_pos (show 16 * n + i < 1024 by omega), h1, h2]
  rfl

/-- Bytes of entry n written at BAR0: only the function's entry n changes, and nothing is sent. -/
theorem foldl_bar0Put {fn : BitVec 4} {n : Nat} (hn : n < 64) (xs : List (Nat × Byte)) :
    ∀ s : State, (∀ x ∈ xs, x.1 < 16) → fn.toNat < s.fns.length →
      let t := xs.foldl (fun t x => bar0Put t fn (16 * n + x.1) x.2) s
      msixEntry (getFn t fn.toNat) n = xs.foldl putByte (msixEntry (getFn s fn.toNat) n)
        ∧ (∀ m, m ≠ n → msixEntry (getFn t fn.toNat) m = msixEntry (getFn s fn.toNat) m)
        ∧ (getFn t fn.toNat).enable = (getFn s fn.toNat).enable ∧ t.outbox = s.outbox := by
  induction xs with
  | nil => exact fun s _ _ => ⟨rfl, fun _ _ => rfl, rfl, rfl⟩
  | cons x xs ih =>
    intro s hx hf
    have hput := bar0Put_entry s fn x.2 hn (hx x (by simp))
    obtain ⟨h1, h2, h3, h4⟩ := ih (bar0Put s fn (16 * n + x.1) x.2) (fun y hy => hx y (by simp [hy]))
      (by simpa [hput] using hf)
    rw [hput] at h1 h2 h3 h4
    rw [getFn_modFn _ hf] at h1 h2 h3
    rw [List.foldl_cons, hput]
    refine ⟨?_, fun m hm => ?_, h3, h4⟩
    · rw [h1, msixEntry_setEntry_same]; rfl
    · rw [h2 m hm, msixEntry_setEntry_ne _ _ hm]

end Sys2Proof.Proofs

/-! The host port: BOOTREC, BAR0 and BAR2, TDISP, IDE and SPDM (R21, R24, R134, R291 to R297). -/

namespace Sys2Proof.Proofs

open Machine Laws

/-! ### BOOTREC (R292) -/

theorem exec_bootrec_waiting {s : State} {v : Word} (h : bootWaits s v = true) :
    exec (.bootrec v) s = .next (stall s (.bootrec v)) := by
  rw [exec_bootrec, execBootrec, if_pos h]

theorem exec_bootrec_ready {s : State} {v : Word} (h : bootWaits s v = false) :
    exec (.bootrec v) s = .next (writeBootrec s v) := by
  rw [exec_bootrec, execBootrec, if_neg (by simp [h])]

theorem bootWaits_early {s : State} (v : Word) (h : s.startup < 5) : bootWaits s v = false := by
  have : (s.startup == 5) = false := by simpa using Nat.ne_of_lt h
  simp [bootWaits, this]

theorem bootWaits_busy {s : State} (v : Word) (h : bootBusy s = true) : bootWaits s v = false := by
  simp [bootWaits, h]

/-! ### Requests at BAR0 and BAR2 (R291 to R293) -/

section requests

variable {s : State} {n : Nat} {data : Option (List Byte)} (hopen : barOpen s n data = true)
include hopen

theorem exec_bar_waiting (fn : BitVec 4) (a : BarPlace) (h : postedWaits s = true) :
    exec (.hostBar2Access fn a n data) s = .next (stall s (.hostBar2Access fn a n data)) := by
  simp [exec_hostBar2Access, execHostBar2Access, hopen, h]

theorem exec_bar0 (fn : BitVec 4) (off : Nat) (h : postedWaits s = false) :
    exec (.hostBar2Access fn ⟨true, off⟩ n data) s = .next (bar0Access s fn off n data) := by
  simp [exec_hostBar2Access, execHostBar2Access, hopen, h]

theorem exec_bar2 {fn : BitVec 4} {off : Nat} {t : State} (h : postedWaits s = false)
    (ht : bar2Access s fn off n data = some t) :
    exec (.hostBar2Access fn ⟨false, off⟩ n data) s = .next t := by
  simp [exec_hostBar2Access, execHostBar2Access, hopen, h, ht]

end requests

theorem length_of_barOpen {s : State} {n : Nat} {bs : List Byte} (h : barOpen s n (some bs) = true) : bs.length = n := by
  simp [barOpen] at h
  exact h.2

section inactive

variable {s : State} {fn : BitVec 4} (h0 : fn ≠ 0) (hq : ∀ q, fnPolder s fn = some q → (getPolder s q).state ≠ 2)
include h0 hq

/-- A function of no ACTIVE polder answers that the request failed (R291). -/
theorem bar0Access_inactive (off n : Nat) (data : Option (List Byte)) :
    bar0Access s fn off n data = barFail s fn data.isSome := by
  have live : (fn == 0 || (fnPolder s fn).any fun p =>
      (getPolder s p).state == 2 && ((getPolder s p).tdi != 2 || s.ide.getD fn.toNat false)) = false := by
    rw [beq_eq_false_iff_ne.mpr h0, Bool.false_or]
    cases hp : fnPolder s fn with
    | none => rfl
    | some q => rw [Option.any_some, beq_eq_false_iff_ne.mpr (hq q hp), Bool.false_and]
  simp only [bar0Access, live, Bool.not_false, Bool.true_or, if_true]

theorem bar2Access_inactive (off n : Nat) (data : Option (List Byte)) :
    bar2Access s fn off n data = some (barFail s fn data.isSome) := by
  simp only [bar2Access, if_neg h0]
  cases hp : fnPolder s fn with
  | none => rfl
  | some q => simp only [decide_eq_true (hq q hp), Bool.true_or, if_true]

theorem exec_bar_inactive {n : Nat} {data : Option (List Byte)} (hopen : barOpen s n data = true)
    (h : postedWaits s = false) (b0 : Bool) (off : Nat) :
    exec (.hostBar2Access fn ⟨b0, off⟩ n data) s = .next (barFail s fn data.isSome) := by
  cases b0 with
  | true => rw [exec_bar0 hopen fn off h, bar0Access_inactive h0 hq]
  | false => exact exec_bar2 hopen h (bar2Access_inactive h0 hq off n data)

end inactive

/-- The request of a function reaches the pieces segs on behalf of polder q: of the physical function through no leaf, of
another through the stage 2 of its ACTIVE polder (R291, R293, R294). -/
def BarReaches (s : State) (fn q : BitVec 4) (wr : Bool) (off n : Nat) (segs : List Seg) : Prop :=
  fn = 0 ∧ q = 0 ∧ segs = pfSegs off n ∧ pfOk s wr off n = true
    ∨ fn ≠ 0 ∧ fnPolder s fn = some q ∧ (getPolder s q).state = 2
      ∧ ((getPolder s q).tdi ≠ 2 ∨ s.ide.getD fn.toNat false = true) ∧ off + n ≤ 2 ^ 36 ∧ gpaSegs s q wr off n = .ok segs

theorem bar2Access_reaches {s : State} {fn q : BitVec 4} {off n : Nat} {data : Option (List Byte)} {segs : List Seg}
    (h : BarReaches s fn q data.isSome off n segs) (hfree : ∀ x ∈ segs, pageHeld s x.pa = false) :
    bar2Access s fn off n data = some (barMove s fn q segs data) := by
  have hany : (segs.any fun x => pageHeld s x.pa) = false := by simpa using hfree
  obtain ⟨rfl, rfl, rfl, hok⟩ | ⟨h0, hp, hst, htdi, hoff, hseg⟩ := h
  · simp [bar2Access, hok, hany]
  · have hrun : ((getPolder s q).tdi == 2 && !s.ide.getD fn.toNat false) = false := by
      obtain h | h := htdi
      · rw [beq_eq_false_iff_ne.mpr h, Bool.false_and]
      · rw [h, Bool.not_true, Bool.and_false]
    have hgo : ¬ ((decide ((getPolder s q).state ≠ 2) || ((getPolder s q).tdi == 2 && !s.ide.getD fn.toNat false)
        || decide (2 ^ 36 < off + n)) = true) := by
      rw [hrun, hst]; simpa using hoff
    simp only [bar2Access, if_neg h0, hp]
    rw [if_neg hgo, hseg]
    simp [hany]

/-! BAR0 of the physical function -/

theorem bar0Access_read {s : State} {off n : Nat} (h : off + n ≤ 65536) :
    bar0Access s 0 off n none = putOut s (.hostData 0 true ((List.range n).map fun i => bar0Byte s 0 (off + i))) := by
  simp [bar0Access, Nat.not_lt.mpr h]

theorem bar0Byte_bootstat (s : State) {i : Nat} (h : i < 8) :
    bar0Byte s 0 (0x1008 + i) = (leBytes s.bootstat.toNat 8).getD i 0 := by
  have h1 : ¬ 0x1008 + i < 1024 := by omega
  have h2 : ¬ (0x800 ≤ 0x1008 + i ∧ 0x1008 + i < 0x808) := by omega
  have h3 : 0x1008 ≤ 0x1008 + i ∧ 0x1008 + i < 0x1010 := by omega
  simp only [bar0Byte, if_neg h1, if_neg h2, true_and, if_pos h3, Nat.add_sub_cancel_left]

theorem bar0Byte_beyond (s : State) {o : Nat} (h : 0x1010 ≤ o) : bar0Byte s 0 o = 0 := by
  have h1 : ¬ o < 1024 := by omega
  have h2 : ¬ (0x800 ≤ o ∧ o < 0x808) := by omega
  have h3 : ¬ (0x1008 ≤ o ∧ o < 0x1010) := by omega
  simp only [bar0Byte, if_neg h1, if_neg h2, true_and, if_neg h3]

theorem bootstat_bytes (s : State) : (List.range 8).map (fun i => bar0Byte s 0 (0x1008 + i)) = leBytes s.bootstat.toNat 8 := by
  refine List.ext_getElem (by simp) fun i h1 h2 => ?_
  have hi : i < 8 := by simpa using h1
  rw [List.getElem_map, List.getElem_range, bar0Byte_bootstat s hi, ← List.getElem_eq_getD]

theorem bar0Access_bootrec {s : State} {bs : List Byte} :
    .next (bar0Access s 0 0x1000 8 (some bs)) = exec (.bootrec (BitVec.ofNat 64 (natAt bs 0 8))) s := by
  rw [exec_bootrec, execBootrec]
  simp [bar0Access]

/-- A write of a whole table entry (R291). -/
theorem bar0Access_entry {s : State} {n : Nat} {bs : List Byte} (hn : n < 64) (hbs : bs.length = 16)
    (hf : 0 < s.fns.length) (he : (getFn s 0).enable = false) :
    let t := bar0Access s 0 (16 * n) 16 (some bs)
    msixEntry (getFn t 0) n = msixOf bs (msixEntry (getFn s 0) n).pend ∧ t.outbox = s.outbox
      ∧ ∀ m, m ≠ n → msixEntry (getFn t 0) m = msixEntry (getFn s 0) m := by
  intro t
  obtain ⟨h1, h2, h3, h4⟩ := foldl_bar0Put (fn := 0) hn ((List.range 16).zip bs) s
    (fun x hx => List.mem_range.mp (List.of_mem_zip hx).1) hf
  generalize hu : ((List.range 16).zip bs).foldl (fun t x => bar0Put t 0 (16 * n + x.1) x.2) s = u at h1 h2 h3 h4
  have hoff : ¬ 65536 < 16 * n + 16 := by omega
  have hquiet : unpend u 0 = u := unpend_none fun m _ => by
    have : (getFn u 0).enable = false := h3.trans he
    simp [msiDue, this]
  have ht : t = unpend u 0 := by
    simp only [t, bar0Access, beq_self_eq_true, Bool.true_or, Bool.not_true, Bool.false_or, decide_eq_true_eq,
      if_neg hoff, Nat.reduceEqDiff, and_false, if_false, hu]
    rfl
  rw [ht, hquiet]
  exact ⟨h1.trans (foldl_putByte_all _ hbs), h4, h2⟩

/-- The host unmasks an entry: its message leaves if it was pending (R134). -/
theorem exec_msixUnmask_entry {s : State} {fn : BitVec 4} {n : Nat} (hn : n < 64) (hf : fn.toNat < s.fns.length)
    (he : (getFn s fn.toNat).enable = true) (hm : (getFn s fn.toNat).fmask = false)
    (hp : ∀ m, m < 64 → m ≠ n → (msixEntry (getFn s fn.toNat) m).pend = false) :
    ∃ t, exec (.msixUnmask fn n) s = .next t ∧ (msixEntry (getFn t fn.toNat) n).mask = false
      ∧ (msixEntry (getFn t fn.toNat) n).pend = false ∧ t.outbox = s.outbox ++
        (if (msixEntry (getFn s fn.toNat) n).pend then
          [.msi fn.toNat (msixEntry (getFn s fn.toNat) n).addr (msixEntry (getFn s fn.toNat) n).data] else []) := by
  generalize hfn : fn.toNat = f at *
  let u := modFn s f fun x => setEntry n { msixEntry x n with mask := false } x
  have hu : getFn u f = setEntry n { msixEntry (getFn s f) n with mask := false } (getFn s f) := getFn_modFn _ hf
  have hfu : f < u.fns.length := by simpa [u] using hf
  have hexec : exec (.msixUnmask fn n) s = .next (unpend u f) := by
    rw [exec_msixUnmask, execMsixUnmask, if_neg (Nat.not_le.mpr hn), hfn]
    rfl
  have hothers : ∀ m, m < 64 → m ≠ n → (msixEntry (getFn u f) m).pend = false := by
    intro m h64 hmn
    rw [hu, msixEntry_setEntry_ne _ _ hmn]
    exact hp m h64 hmn
  refine ⟨_, hexec, ?_⟩
  cases hpend : (msixEntry (getFn s f) n).pend with
  | false =>
    have hnone : unpend u f = u := unpend_none fun m h64 => msiDue_of_not_pend <| by
      by_cases hmn : m = n
      · simp [hmn, hu, hpend]
      · exact hothers m h64 hmn
    rw [hnone, hu]
    simp [hpend, u]
  | true =>
    have hdue : msiDue (getFn u f) n = true := by simp [msiDue, hu, he, hm, hpend]
    rw [unpend_one hfu hn hdue hothers]
    have hget := getFn_sendPending n hfu
    refine ⟨?_, ?_, ?_⟩
    · simp [hget, hu]
    · simp [hget]
    · simp [sendPending, sendMsi, hu, u]

/-! ### TDISP (R294) -/

/-- Within a secured session a request to an interface answers as it says; the physical function has none. -/
theorem tdisp_answers {s : State} (hup : s.startup = 5) (hsess : s.spdm ≠ []) (fn : BitVec 4) (f : State → State) :
    tdisp s fn f = .next (if fn = 0 then tdispAnswer s fn 1 [] else f s) := by
  rw [tdisp, if_pos ⟨hup, hsess⟩]

theorem tdisp_interface {s : State} (hup : s.startup = 5) (hsess : s.spdm ≠ []) {fn : BitVec 4} (h0 : fn ≠ 0)
    (f : State → State) : tdisp s fn f = .next (f s) := by rw [tdisp_answers hup hsess, if_neg h0]

theorem withFn_some {s : State} {fn p : BitVec 4} (h : fnPolder s fn = some p) (f : BitVec 4 → State) :
    withFn s fn f = f p := by simp only [withFn, h]

/-- An interface that is not in RUN changes its state, and nothing else changes. -/
theorem setTdi_of_ne {s : State} {p : BitVec 4} (h : (getPolder s p).tdi ≠ 2) (v : BitVec 2) :
    setTdi s p v = modPolder s p fun d => { d with tdi := v } := by
  rw [setTdi, if_neg (show ¬ ((getPolder s p).tdi = 2 ∧ v ≠ 2) from fun e => h e.1)]

theorem getPolder_modPolder_same {s : State} {p : BitVec 4} (f : Polder → Polder) (h : p.toNat < s.polders.length) :
    getPolder (modPolder s p f) p = f (getPolder s p) := by
  simp [getPolder, modPolder, h]

theorem getPolder_modPolder_ne {s : State} {p q : BitVec 4} (f : Polder → Polder) (h : q ≠ p) :
    getPolder (modPolder s p f) q = getPolder s q := by
  have : ¬ p.toNat = q.toNat := fun e => h (BitVec.eq_of_toNat_eq e).symm
  simp [getPolder, modPolder, this]

theorem setTdi_polders (s : State) (p : BitVec 4) (v : BitVec 2) :
    (setTdi s p v).polders = (modPolder s p fun d => { d with tdi := v }).polders := by
  unfold setTdi
  dsimp only
  split <;> rfl

theorem setTdi_ide (s : State) (p : BitVec 4) (v : BitVec 2) : (setTdi s p v).ide = s.ide := by
  unfold setTdi
  dsimp only
  split <;> rfl

theorem setTdi_length (s : State) (p : BitVec 4) (v : BitVec 2) : (setTdi s p v).polders.length = s.polders.length := by
  simp [setTdi_polders, modPolder]

theorem getPolder_setTdi {s : State} (p : BitVec 4) (v : BitVec 2) (q : BitVec 4) :
    getPolder (setTdi s p v) q = getPolder (modPolder s p fun d => { d with tdi := v }) q := by
  simp only [getPolder, setTdi_polders]

/-- The polder of an interface that is stopped while it is ACTIVE is quiesced, with its interface unlocked (R294). -/
theorem stopFn_quiesces {s : State} {fn p : BitVec 4} (hst : (getPolder s p).state = 2) (hp : p.toNat < s.polders.length) :
    (getPolder (stopFn s fn p) p).state = 3 ∧ (getPolder (stopFn s fn p) p).tdi = 0
      ∧ (getPolder (stopFn s fn p) p).stopping = true := by
  have hrest := polderRest_of_standing (standing_startDestroy (setTdi s p 0) p true) p
  rw [getPolder_modPolder_same _ (by rwa [setTdi_length]), getPolder_setTdi, getPolder_modPolder_same _ hp] at hrest
  rw [stopFn, if_pos hst]
  have hstate := congrArg Polder.state hrest
  have htdi := congrArg Polder.tdi hrest
  have hstop := congrArg Polder.stopping hrest
  simp only [polderRest_state, polderRest_tdi, polderRest_stopping] at hstate htdi hstop
  exact ⟨hstate, htdi, hstop⟩

/-! ### IDE (R295) -/

theorem foldl_setTdi {s : State} (l : List (BitVec 4)) (v : BitVec 2) (h16 : s.polders.length = 16) (q : BitVec 4) :
    (getPolder (l.foldl (fun t p => setTdi t p v) s) q).tdi = if q ∈ l then v else (getPolder s q).tdi := by
  induction l generalizing s with
  | nil => rfl
  | cons p l ih =>
    rw [List.foldl_cons, ih (by rw [setTdi_length, h16]), getPolder_setTdi]
    by_cases hq : q = p
    · subst hq
      rw [getPolder_modPolder_same _ (by rw [h16]; exact q.isLt)]
      simp
    · simp [getPolder_modPolder_ne _ hq, hq]

/-- An integrity failure of a stream puts the interface of every function that uses it into ERROR (R295). -/
theorem failStream_tdi {s : State} (n : Nat) (h16 : s.polders.length = 16) (q : BitVec 4) :
    (getPolder (failStream s n) q).tdi =
      if (getPolder s q).state ≠ 0 ∧ (getPolder s q).vf ≠ 0
        ∧ (n = (getPolder s q).vf.toNat ∨ n = 16 ∧ s.ide.getD (getPolder s q).vf.toNat false = false) then 3
      else (getPolder s q).tdi := by
  have hmem : q ∈ (List.range 16).map (BitVec.ofNat 4) :=
    List.mem_map.mpr ⟨q.toNat, List.mem_range.mpr q.isLt, by simp⟩
  unfold failStream
  dsimp only
  rw [foldl_setTdi _ _ (by exact h16)]
  refine ite_congr (propext ?_) (fun _ => rfl) fun _ => rfl
  simp only [List.mem_filter, hmem, true_and, usesStream]
  simp [and_assoc]

theorem failStream_ide (s : State) (n : Nat) : (failStream s n).ide = s.ide.set n false :=
  foldl_keeps State.ide (fun t p => setTdi_ide t p 3) _ { s with ide := s.ide.set n false }

/-! ### SPDM (R296, R297) -/

/-- A request for one index that a slot owns asks for that one. -/
theorem asked_one {n i : Nat} (hn : n < 5) (hi : i ∈ slotIndices n) : asked n i = [i] :=
  (by decide : ∀ n < 5, ∀ i ∈ slotIndices n, asked n i = [i]) n hn i hi

theorem measureAnswer_one {s : State} {n i : Nat} (hr : s.spdmReady = true) (hn : n < 5) (hp : slotPresent s n = true)
    (hi : i ∈ slotIndices n) (sg : Bool) :
    measureAnswer s n i sg =
      spdmAnswer s 0 (measureBlock s i ++ if sg then Config.slotSignature n (measureBlock s i) else []) := by
  simp [measureAnswer, hr, Nat.not_le.mpr hn, hp, asked_one hn hi]

/-! ### The obligation -/

/-- What BOOTREC answers (R292). -/
theorem bootrec_statuses (s : State) (v : Word) :
    (s.startup < 5 → exec (.bootrec v) s = .next { s with bootstat := 3 })
      ∧ (5 ≤ s.startup → bootBusy s = true → exec (.bootrec v) s = .next { s with bootstat := 1 })
      ∧ (bootWaits s v = true → exec (.bootrec v) s = .next (stall s (.bootrec v)))
      ∧ (∀ n, 5 ≤ s.startup → bootBusy s = false → bootWaits s v = false → bootLaunch s v = .error n →
          exec (.bootrec v) s = .next { s with bootstat := BitVec.ofNat 16 (256 * n + 2) })
      ∧ (∀ t l, 5 ≤ s.startup → bootBusy s = false → bootWaits s v = false → bootLaunch s v = .ok (t, l) →
          exec (.bootrec v) s = .next { (enterQueue t l).1 with bootstat := 0 }) := by
  refine ⟨fun h => ?_, fun h hb => ?_, exec_bootrec_waiting, fun n h hb hw hl => ?_, fun t l h hb hw hl => ?_⟩
  · rw [exec_bootrec_ready (bootWaits_early v h), writeBootrec, if_pos h]
  · rw [exec_bootrec_ready (bootWaits_busy v hb), writeBootrec, if_neg (Nat.not_lt.mpr h), if_pos hb]
  · rw [exec_bootrec_ready hw, writeBootrec, if_neg (Nat.not_lt.mpr h), if_neg (by simp [hb]), hl]
  · rw [exec_bootrec_ready hw, writeBootrec, if_neg (Nat.not_lt.mpr h), if_neg (by simp [hb]), hl]

/-- Bytes read for a function, and bytes written. -/
theorem exec_bar2_moves {s : State} {fn q : BitVec 4} {off n : Nat} {segs : List Seg} (hw : postedWaits s = false)
    (hfree : ∀ x ∈ segs, pageHeld s x.pa = false) :
    (barOpen s n none = true → segsPoisoned s segs = false → BarReaches s fn q false off n segs →
        exec (.hostBar2Access fn ⟨false, off⟩ n none) s =
          .next (putOut (noteAccess s (farAgent q) .read segs) (.hostData fn.toNat true (segsRead s segs))))
      ∧ (∀ bs, barOpen s n (some bs) = true → BarReaches s fn q true off n segs →
        exec (.hostBar2Access fn ⟨false, off⟩ n (some bs)) s =
          .next (segsWrite (noteAccess s (farAgent q) .write segs) (farAgent q) segs bs)) := by
  constructor
  · intro hopen hpois hreach
    rw [exec_bar2 hopen hw (bar2Access_reaches (data := none) hreach hfree)]
    simp [barMove, hpois]
  · intro bs hopen hreach
    rw [exec_bar2 hopen hw (bar2Access_reaches (data := some bs) hreach hfree)]
    rfl

/-- The physical function has no TDISP interface (R294). -/
theorem tdisp_of_physical {s : State} (hup : s.startup = 5) (hsess : s.spdm ≠ []) (i : Instr)
    (hi : i ∈ [Instr.getTdispVersion 0, .getTdispCapabilities 0, .lockInterfaceRequest 0, .getDeviceInterfaceReport 0,
      .getDeviceInterfaceState 0, .startInterfaceRequest 0, .stopInterfaceRequest 0]) :
    exec i s = .next (putOut s (.tdisp 0 1 [])) := by
  have answer : ∀ f, tdisp s 0 f = .next (putOut s (.tdisp 0 1 [])) := fun f => tdisp_answers hup hsess 0 f
  simp only [List.mem_cons, List.not_mem_nil, or_false] at hi
  rcases hi with rfl | rfl | rfl | rfl | rfl | rfl | rfl
  · rw [exec_getTdispVersion, execGetTdispVersion, answer]
  · rw [exec_getTdispCapabilities, execGetTdispCapabilities, answer]
  · rw [exec_lockInterfaceRequest, execLockInterfaceRequest, answer]
  · rw [exec_getDeviceInterfaceReport, execGetDeviceInterfaceReport, answer]
  · rw [exec_getDeviceInterfaceState, execGetDeviceInterfaceState, answer]
  · rw [exec_startInterfaceRequest, execStartInterfaceRequest, answer]
  · rw [exec_stopInterfaceRequest, execStopInterfaceRequest, answer]

section interface

variable {s : State} (hup : s.startup = 5) (hsess : s.spdm ≠ []) {fn : BitVec 4} (h0 : fn ≠ 0)
include hup hsess h0

/-- The requests that only ask an interface (R294). -/
theorem tdisp_queries :
    exec (.getTdispVersion fn) s = .next (tdispAnswer s fn 0 [0x10])
      ∧ exec (.getTdispCapabilities fn) s = .next (tdispAnswer s fn 0 [0x7F])
      ∧ exec (.getDeviceInterfaceState fn) s = .next (tdispAnswer s fn 0 [(fnTdi s fn).setWidth 64]) := by
  refine ⟨?_, ?_, ?_⟩
  · rw [exec_getTdispVersion, execGetTdispVersion, tdisp_interface hup hsess h0]
  · rw [exec_getTdispCapabilities, execGetTdispCapabilities, tdisp_interface hup hsess h0]
  · rw [exec_getDeviceInterfaceState, execGetDeviceInterfaceState, tdisp_interface hup hsess h0]

/-- The requests to the interface of a polder's function (R294). -/
theorem tdisp_commands {p : BitVec 4} (hp : fnPolder s fn = some p) :
    exec (.getDeviceInterfaceReport fn) s = .next (tdispAnswer s fn 0 (reportWords s p))
      ∧ exec (.lockInterfaceRequest fn) s = .next (lockFn s fn p)
      ∧ exec (.startInterfaceRequest fn) s = .next (startFn s fn p)
      ∧ exec (.stopInterfaceRequest fn) s = .next (stopFn s fn p) := by
  refine ⟨?_, ?_, ?_, ?_⟩
  · rw [exec_getDeviceInterfaceReport, execGetDeviceInterfaceReport, tdisp_interface hup hsess h0, withFn_some hp]
  · rw [exec_lockInterfaceRequest, execLockInterfaceRequest, tdisp_interface hup hsess h0, withFn_some hp]
  · rw [exec_startInterfaceRequest, execStartInterfaceRequest, tdisp_interface hup hsess h0, withFn_some hp]
  · rw [exec_stopInterfaceRequest, execStopInterfaceRequest, tdisp_interface hup hsess h0, withFn_some hp]

end interface

/-- From unlocked to locked to RUN, and back (R294). -/
theorem interface_moves (s : State) (fn p : BitVec 4) :
    let d := getPolder s p
    let tdi (n : BitVec 2) := modPolder s p fun d => { d with tdi := n }
    (d.state = 2 → d.tdi = 0 → lockFn s fn p = tdispAnswer (tdi 1) fn 0 [])
      ∧ (d.tdi ≠ 0 → lockFn s fn p = tdispAnswer s fn 1 [])
      ∧ (d.tdi = 1 → startFn s fn p = tdispAnswer (tdi 2) fn 0 [])
      ∧ (d.tdi ≠ 1 → startFn s fn p = tdispAnswer s fn 1 [])
      ∧ (d.state = 1 → d.tdi ≠ 2 → stopFn s fn p = tdispAnswer (tdi 0) fn 0 [])
      ∧ (d.state = 3 → stopFn s fn p = tdispAnswer s fn 1 []) := by
  refine ⟨fun h1 h2 => ?_, fun h => ?_, fun h => ?_, fun h => ?_, fun h1 h2 => ?_, fun h => ?_⟩
  · rw [lockFn, if_pos ⟨h1, h2⟩, setTdi_of_ne (by rw [h2]; decide)]
  · rw [lockFn, if_neg fun e => h e.2]
  · rw [startFn, if_pos h, setTdi_of_ne (by rw [h]; decide)]
  · rw [startFn, if_neg h]
  · rw [stopFn, if_neg (by rw [h1]; decide), if_pos h1, setTdi_of_ne h2]
  · rw [stopFn, if_neg (by rw [h]; decide), if_neg (by rw [h]; decide)]

/-- A session with a slot (R296). -/
theorem session_answers {s : State} (hup : s.startup = 5) (n : Nat) :
    let answers (u : State) (code : Nat) (body : List Word) := exec (.spdmSecuredSession n) s = .next (spdmAnswer u code body)
    (s.spdmReady = false → answers s 4 []) ∧ (s.spdmReady = true → 5 ≤ n → answers s 1 [])
      ∧ (s.spdmReady = true → n < 5 → slotPresent s n = false → answers s 5 [])
      ∧ (s.spdmReady = true → n < 5 → slotPresent s n = true → answers { s with spdm := n :: s.spdm.filter (· != n) } 0
          (BitVec.ofNat 64 n :: (certChain n).flatMap fun b => b.map fun x => x.setWidth 64)) := by
  simp only [exec_spdmSecuredSession, execSpdmSecuredSession, if_neg (not_not_intro hup)]
  refine ⟨fun h => ?_, fun h h5 => ?_, fun h h5 hp => ?_, fun h h5 hp => ?_⟩
  · simp [h]
  · simp [h, h5]
  · simp [h, Nat.not_le.mpr h5, hp]
  · simp [h, Nat.not_le.mpr h5, hp]

/-- Settles O60: each request is answered by the branch of its operation that its hypotheses name; a stopped interface's
polder keeps its controls through the quiescing, and a table entry is rebuilt from its sixteen bytes. -/
theorem hostRequests : Obligations.HostRequests := by
  intro s fn v p sends tdi bar secured
  obtain ⟨hearly, hbusy, hwait, herr, hlaunch⟩ := bootrec_statuses s v
  refine ⟨hearly, hbusy, hwait, herr, hlaunch, fun a n data ho hw => exec_bar_waiting ho fn a hw, ?inactive, ?moves,
    ?bar0, ?bootrec, ?entry, rfl, ?unmask, ?physical, ?tdisp, ?ideKey, ?ideFail, ?algorithms, ?session, ?measure⟩
  case inactive =>
    intro b0 off n data ⟨ho, hw⟩ h0 hq
    have h := exec_bar_inactive h0 hq ho hw b0 off
    refine ⟨?_, fun hd => ?_⟩
    · rintro rfl; exact h
    · rw [h, hd]; rfl
  case moves =>
    intro off n segs q hq hfree
    have reaches : ∀ wr, (fn = 0 → pfOk s wr off n = true) → (fn ≠ 0 → gpaSegs s q wr off n = .ok segs) →
        BarReaches s fn q wr off n segs := by
      intro wr hpf hgpa
      obtain ⟨h0, h1, h2⟩ | ⟨h0, h1, h2, h3, h4⟩ := hq
      · exact .inl ⟨h0, h1, h2, hpf h0⟩
      · exact .inr ⟨h0, h1, h2, h3, h4, hgpa h0⟩
    exact ⟨fun ho hp hpf hgpa => (exec_bar2_moves ho.2 hfree).1 ho.1 hp (reaches false hpf hgpa),
      fun bs ho hpf hgpa => (exec_bar2_moves ho.2 hfree).2 bs ho.1 (reaches true hpf hgpa)⟩
  case bar0 =>
    rintro off n ⟨ho, hw⟩ rfl
    refine ⟨?_, fun hlo hhi => ?_⟩
    · rintro rfl rfl
      show exec _ s = _
      rw [exec_bar0 ho 0 _ hw, bar0Access_read (by omega), bootstat_bytes]
      rfl
    · have hzero : ((List.range n).map fun i => bar0Byte s 0 (off + i)) = List.replicate n 0 :=
        List.eq_replicate_iff.mpr ⟨by simp, fun b hb => by
          obtain ⟨i, _, rfl⟩ := List.mem_map.mp hb
          exact bar0Byte_beyond s (by omega)⟩
      show exec _ s = _
      rw [exec_bar0 ho 0 _ hw, bar0Access_read hhi, hzero]
      rfl
  case bootrec =>
    intro bs ⟨ho, hw⟩
    rw [exec_bar0 ho 0 _ hw, bar0Access_bootrec]
  case entry =>
    rintro n bs ⟨ho, hw⟩ hn rfl hf he
    exact ⟨_, exec_bar0 ho 0 _ hw, bar0Access_entry hn (length_of_barOpen ho) hf he⟩
  case unmask => exact fun n hn hf he hm hp => exec_msixUnmask_entry hn hf he hm hp
  case physical =>
    rintro hup hsess rfl i hi
    exact tdisp_of_physical hup hsess i hi
  case tdisp =>
    intro ⟨hup, hsess, h0⟩
    obtain ⟨hversion, hcaps, hstate⟩ := tdisp_queries hup hsess h0
    refine ⟨hversion, hcaps, hstate, fun hp => ?_⟩
    obtain ⟨hreport, hlock, hstart, hstop⟩ := tdisp_commands hup hsess h0 hp
    obtain ⟨lock1, lock2, start1, start2, stop1, stop3⟩ := interface_moves s fn p
    refine ⟨hreport, fun h1 h2 => ?_, fun h => ?_, fun h => ?_, fun h => ?_, fun h1 h2 => ?_, fun h => ?_,
      fun h hlen => ⟨_, hstop, stopFn_quiesces h hlen⟩⟩
    · exact hlock.trans (congrArg _ (lock1 h1 h2))
    · exact hlock.trans (congrArg _ (lock2 h))
    · exact hstart.trans (congrArg _ (start1 h))
    · exact hstart.trans (congrArg _ (start2 h))
    · exact hstop.trans (congrArg _ (stop1 h1 h2))
    · exact hstop.trans (congrArg _ (stop3 h))
  case ideKey =>
    intro n hup hsess hn
    rw [exec_ideKm, execIdeKm, if_pos ⟨hup, hsess, hn⟩]
  case ideFail =>
    intro n _ hn h16
    have hexec : exec (.ideIntegrityFailure n) s = .next (failStream s n) := by
      rw [exec_ideIntegrityFailure, execIdeIntegrityFailure, if_pos hn]
    exact ⟨_, hexec, failStream_ide s n, failStream_tdi n h16⟩
  case algorithms =>
    intro l hup hl
    have hexec := execNegotiateAlgorithms.eq_1 l s
    rw [if_pos ⟨hup, hl⟩] at hexec
    exact ⟨fun h => hexec.trans (by rw [if_pos h]; rfl), fun h => hexec.trans (by rw [if_neg (by simp [h])]; rfl)⟩
  case session => exact fun n hup => session_answers hup n
  case measure =>
    intro n i sg hup
    have hexec : exec (.getMeasurements n i sg) s = .next (measureAnswer s n i sg) := by
      rw [exec_getMeasurements, execGetMeasurements, if_pos hup]
    refine ⟨fun h => hexec.trans ?_, fun h hn hp hi => hexec.trans ?_⟩
    · rw [measureAnswer, if_pos (by simp [h])]
      rfl
    · rw [measureAnswer_one h hn hp hi]
      rfl

end Sys2Proof.Proofs

/-! SUPPORT. The auditor: what raises a score, how an audit ends, and how a replay starts (R276 to R280). -/

namespace Sys2Proof.Proofs

open Machine Laws

/-! ### Versions and images that leave the vault -/

@[simp] theorem retireVersions_cores (s : State) : (retireVersions s).cores = s.cores :=
  keeps_retireVersions State.cores (fun _ _ => rfl) s
@[simp] theorem retireVersions_audlog (s : State) : (retireVersions s).audlog = s.audlog :=
  keeps_retireVersions State.audlog (fun _ _ => rfl) s
@[simp] theorem retireVersions_audits (s : State) : (retireVersions s).audits = s.audits :=
  keeps_retireVersions State.audits (fun _ _ => rfl) s
@[simp] theorem retireImages_cores (s : State) : (retireImages s).cores = s.cores :=
  keeps_retireImages State.cores (fun _ _ => rfl) s
@[simp] theorem retireImages_audlog (s : State) : (retireImages s).audlog = s.audlog :=
  keeps_retireImages State.audlog (fun _ _ => rfl) s
@[simp] theorem retireImages_audits (s : State) : (retireImages s).audits = s.audits :=
  keeps_retireImages State.audits (fun _ _ => rfl) s

/-! ### Cores -/

theorem getCore_modCore_same {s : State} {k : Nat} (f : CoreState → CoreState) (h : k < s.cores.length) :
    getCore (modCore s k f) k = f (getCore s k) := by
  simp [getCore, modCore, h]

theorem getCore_modCore_ne {s : State} {k j : Nat} (f : CoreState → CoreState) (h : j ≠ k) :
    getCore (modCore s k f) j = getCore s j := by
  simp [getCore, modCore, h.symm]

theorem onlyCore_modCore (s : State) (k : Nat) (f : CoreState → CoreState) : OnlyCore s (modCore s k f) k :=
  ⟨rfl, fun _ h => getCore_modCore_ne f h⟩

/-- The score of a core once it has risen by one (R280). -/
def risen (s : State) (k : Nat) : BitVec 8 := BitVec.ofNat 8 (min 255 ((getCore s k).score.toNat + 1))

/-- A score that rises changes no other, and beyond scores, recommendations and reports nothing. -/
theorem raiseScore_rest (s : State) (core : Nat) :
    (∀ k, k < s.cores.length → (getCore (raiseScore s core) k).score = if k = core then risen s k else (getCore s k).score)
      ∧ (raiseScore s core).cores.length = s.cores.length ∧ (raiseScore s core).audlog = s.audlog
      ∧ (raiseScore s core).audits = s.audits := by
  unfold raiseScore
  extract_lets k n s1
  have h1 : ∀ j, j < s.cores.length → (getCore s1 j).score = if j = core then risen s j else (getCore s j).score := by
    intro j hj
    by_cases h : j = core
    · subst h
      simp only [s1, getCore_modCore_same _ hj, if_true]
      rfl
    · simp only [s1, getCore_modCore_ne _ h, if_neg h]
  have hlen : s1.cores.length = s.cores.length := by simp [s1, modCore]
  split
  · refine ⟨fun j hj => ?_, by simpa [reportReeve, optisLog, modCore] using hlen, rfl, rfl⟩
    rw [← h1 j hj]
    show (getCore (modCore s1 core fun k => { k with recomm := true }) j).score = _
    by_cases h : j = core
    · subst h
      rw [getCore_modCore_same _ (by rwa [hlen])]
    · rw [getCore_modCore_ne _ h]
  · exact ⟨h1, hlen, rfl, rfl⟩

theorem foldl_raiseScore (l : List Nat) (hl : l.Nodup) : ∀ s : State,
    (∀ k, k < s.cores.length → (getCore (l.foldl raiseScore s) k).score = if k ∈ l then risen s k else (getCore s k).score)
      ∧ (l.foldl raiseScore s).audlog = s.audlog ∧ (l.foldl raiseScore s).audits = s.audits := by
  induction l with
  | nil => exact fun s => ⟨fun _ _ => rfl, rfl, rfl⟩
  | cons c l ih =>
    intro s
    obtain ⟨hc, hl'⟩ := List.nodup_cons.mp hl
    obtain ⟨h1, h2, h3⟩ := ih hl' (raiseScore s c)
    obtain ⟨r1, rlen, r2, r3⟩ := raiseScore_rest s c
    refine ⟨fun k hk => ?_, h2.trans r2, h3.trans r3⟩
    have hrisen : k ≠ c → risen (raiseScore s c) k = risen s k := fun hkc => by
      simp only [risen, r1 k hk, if_neg hkc]
    rw [List.foldl_cons, h1 k (by rwa [rlen])]
    by_cases hkc : k = c
    · subst hkc
      simp [hc, r1 k hk]
    · by_cases hkl : k ∈ l
      · simp [hkl, hrisen hkc]
      · simp [hkl, hkc, r1 k hk]

/-! ### The end of an audit (R278 to R280) -/

/-- The audit of a sample has ended with a verdict: its scores have risen, and those alone; its entry is in the log, and its
sample is gone. -/
def AuditLogged (s t : State) (a : AuditSample) (v : Verdict) : Prop :=
  (∀ k, k < s.cores.length → (getCore t k).score = if k ∈ v.raised then risen s k else (getCore s k).score)
    ∧ t.audlog = s.audlog.push 64 (audlogWord v.result a.core v.second v.third v.blamed a.index, 0)
    ∧ ∀ y ∈ t.audits, y.index ≠ a.index

theorem endAudit_logged (s : State) (a : AuditSample) (second third : Option (Nat × Option Word))
    (h : (verdict a second third).raised.Nodup) :
    AuditLogged s (endAudit s a second third) a (verdict a second third) := by
  obtain ⟨h1, h2, h3⟩ := foldl_raiseScore _ h s
  unfold endAudit
  extract_lets v s1 w
  refine ⟨fun k hk => ?_, ?_, ?_⟩
  · simp only [getCore, retireImages_cores, retireVersions_cores]
    exact h1 k hk
  · rw [retireImages_audlog, retireVersions_audlog]
    show s1.audlog.push 64 (w, 0) = _
    rw [h2]
  · rw [retireImages_audits, retireVersions_audits]
    intro y hy
    simpa using (List.mem_filter.mp hy).2

/-- A replay that has ended is compared (R277, R278). -/
theorem exec_auditReplay_compares {s : State} {a : AuditSample} {core : Nat} {wrong : Word} {r : Option Word}
    (ha : (s.audits.find? fun y => y.index == a.index) = some a) (hrun : auditRunning s a.index = false)
    (hend : a.ended = some (core, r)) :
    exec (.auditReplay a.index core wrong) s = .next (compareRun s a core (r.map (· ^^^ wrong))) := by
  simp [exec_auditReplay, execAuditReplay, ha, hrun, hend]

/-- The next replay of a sample starts (R277). -/
theorem exec_auditReplay_starts {s : State} {a : AuditSample} {core : Nat} {wrong : Word}
    (ha : (s.audits.find? fun y => y.index == a.index) = some a) (hrun : auditRunning s a.index = false)
    (hend : a.ended = none) : exec (.auditReplay a.index core wrong) s = .next (nextAuditRun s a core) := by
  simp [exec_auditReplay, execAuditReplay, ha, hrun, hend]

/-- The samples after a first replay has differed: this one waits for its second (R278). -/
theorem compareRun_differs {s : State} {a : AuditSample} {core : Nat} {w : Word} (h2 : a.second = none)
    (hw : w ≠ a.signature) (ha : (s.audits.find? fun y => y.index == a.index) = some a) :
    (compareRun s a core (some w)).audlog = s.audlog ∧ (∀ k, getCore (compareRun s a core (some w)) k = getCore s k)
      ∧ ((compareRun s a core (some w)).audits.find? fun y => y.index == a.index) =
        some { a with second := some (core, w), ended := none } := by
  have heq : compareRun s a core (some w) = { s with audits := s.audits.map fun y =>
      if y.index = a.index then { y with second := some (core, w), ended := none } else y } := by
    unfold compareRun
    rw [h2]
    exact if_neg hw
  rw [heq]
  refine ⟨rfl, fun _ => rfl, ?_⟩
  have hkey : ((fun y : AuditSample => y.index == a.index) ∘ fun y : AuditSample =>
      if y.index = a.index then { y with second := some (core, w), ended := none } else y) = fun y => y.index == a.index := by
    funext y
    by_cases h : y.index = a.index <;> simp [h]
  simp only [List.find?_map, hkey, ha, Option.map_some, if_true]

/-! ### The start of a replay (R277) -/

theorem slotFor_free {s : State} {core u k : Nat} {p : Option (BitVec 4)} (h : slotFor s core u p = some k) :
    getCtx s { core := core, slot := k } = none := by
  have hfree : freeSlot s core = some k := by
    unfold slotFor at h
    dsimp only at h
    split at h
    · cases h
    · cases p with
      | none => exact h
      | some p =>
        dsimp only at h
        split at h
        · cases h
        · exact h
  have hused := List.find?_some hfree
  simpa [slotUsed, getCtx] using hused

theorem candidates_place {s : State} {cores : List Nat} {u : Nat} {p : Option (BitVec 4)} {spans : List (Nat × Nat)}
    {x : Place} (h : x ∈ candidates s cores u p spans) :
    x.core ∈ cores ∧ getCtx s { core := x.core, slot := x.slot } = none := by
  obtain ⟨k, hk, hx⟩ := List.mem_filterMap.mp h
  obtain ⟨y, hy, rfl⟩ := Option.map_eq_some_iff.mp hx
  exact ⟨hk, slotFor_free hy⟩

/-- A core that runs a replay may, and ran none of the sample before (R277, R278). -/
theorem auditPlaces_place {s : State} {a : AuditSample} {core : Nat} {x : Place}
    (h : ((auditPlaces s a).find? fun y => y.core == core) = some x) :
    x.core = core ∧ auditCore s a core = true ∧ (∀ y, a.second = some y → y.1 ≠ core)
      ∧ getCtx s { core := core, slot := x.slot } = none := by
  have hcore : x.core = core := by simpa using List.find?_some h
  obtain ⟨hmem, hfree⟩ := candidates_place (List.mem_of_find?_eq_some h)
  rw [hcore] at hmem hfree
  have hok := (List.mem_filter.mp hmem).2
  rw [Bool.and_eq_true] at hok
  refine ⟨hcore, hok.1, fun y hy => ?_, hfree⟩
  simpa [hy] using hok.2

theorem getCtx_addCtx {s : State} {c : Ctx} (h : getCtx s c.id = none) : getCtx (addCtx s c) c.id = some c := by
  have h' : (s.ctxs.find? fun d => d.id == c.id) = none := h
  show ((s.ctxs ++ [c]).find? fun d => d.id == c.id) = some c
  rw [List.find?_append, h']
  simp

@[simp] theorem standing_headerCheck (s : State) (id : CtxId) : standing (headerCheck s id) = standing s := by
  unfold headerCheck
  split
  · rfl
  · rename_i c _
    extract_lets t
    have ht : standing t = standing s := by
      simp only [t]
      split
      · rfl
      · exact standing_of_onlyMemory (noteImage_only s _ _)
    split
    · rfl
    · rename_i len ents _
      exact (standing_modCtx t id (f := fun c => c.begin len ents) (fun _ => rfl) fun _ => rfl).trans ht
    · rw [standing_takeTrap, ht]

/-- Past the check of its header a context still serves its bunting, and every bunting stands. -/
theorem headerCheck_keeps {s : State} {id : CtxId} {b : Bunting} {c : Ctx} (hb : b ∈ s.buntings)
    (hc : getCtx s id = some c) :
    (∃ b' ∈ (headerCheck s id).buntings, buntingRest b' = buntingRest b)
      ∧ ∃ d, getCtx (headerCheck s id) id = some d ∧ d.neutral = c.neutral := by
  have hkeep := standing_headerCheck s id
  have hn := neutral_of_standing hkeep id
  rw [hc] at hn
  exact ⟨bunting_of_standing hkeep hb, Option.map_eq_some_iff.mp hn⟩

/-- The neutral context of a bunting as it takes its slot (R168, R424). -/
def neutralCtx (s : State) (b : Bunting) (id : CtxId) : Ctx :=
  { Ctx.fresh id with
    neutral := some b.id, vault := some b.image
    units := ((s.images.find? fun v => v.id == b.image).map fun v => v.carve).getD 0 }

/-- The state in which it has taken its slot and its header is still to be checked. -/
def neutralPlaced (s : State) (b : Bunting) (id : CtxId) : State :=
  addCtx { s with buntings := s.buntings.map fun y => if y.id = b.id then { y with running := some id } else y }
    (neutralCtx s b id)

theorem startNeutral_eq (s : State) (b : Bunting) (x : Place) : startNeutral s b x =
    headerCheck (neutralPlaced s b { core := x.core, slot := x.slot }) { core := x.core, slot := x.slot } := rfl

/-- A neutral context starts: it serves its bunting, which runs there (R168). -/
theorem startNeutral_runs {s : State} {b : Bunting} {x : Place} (hb : b ∈ s.buntings)
    (hfree : getCtx s { core := x.core, slot := x.slot } = none) :
    (∃ b' ∈ (startNeutral s b x).buntings,
        buntingRest b' = buntingRest { b with running := some { core := x.core, slot := x.slot } })
      ∧ ∃ c, getCtx (startNeutral s b x) { core := x.core, slot := x.slot } = some c ∧ c.neutral = some b.id := by
  generalize hid : CtxId.mk x.core x.slot = id at hfree
  have hmem : { b with running := some id } ∈ (neutralPlaced s b id).buntings :=
    List.mem_map.mpr ⟨b, hb, if_pos rfl⟩
  have hget : getCtx (neutralPlaced s b id) id = some (neutralCtx s b id) := getCtx_addCtx (c := neutralCtx s b id) hfree
  rw [startNeutral_eq, hid]
  exact headerCheck_keeps hmem hget

end Sys2Proof.Proofs

/-! Errors, links, audits, scores, heat, firmware, module reset and loss of power (R23 to R25, R192, R270, R274 to R280,
R310, R311). -/

namespace Sys2Proof.Proofs

open Machine Laws

/-! ### Errors and die links (R192, R270, R274, R275, R310) -/

theorem optisLog_getLast (s : State) (code arg : Nat) :
    (optisLog s code arg).optis.getLast? = some { code := code, arg := arg } := by simp [optisLog]

/-- An error that is consumed where it occurs. -/
theorem exec_error {s t : State} {site : ErrSite} (h : errorAt s site = some t) :
    exec (.uncorrectableError site) s = .next t := by
  simp only [exec_uncorrectableError, execUncorrectableError, h]

theorem errorAt_line {s : State} {a : Nat} (h : canPoison s a = true) : errorAt s (.line a) =
    some (optisLog { s with poison := lineOf a :: s.poison.filter (· != lineOf a) } 7 a) := by
  simp only [errorAt, h, if_true]

theorem mem_poison_cons (l : List Nat) (a : Nat) : ∀ x ∈ l, x ∈ a :: l.filter (· != a) := by
  intro x hx
  by_cases h : x = a
  · simp [h]
  · simp [hx, h]

theorem errorAt_core {s : State} {q : SeqId} {c : Ctx} (hc : getCtx s (ctxOf q) = some c) (hi : c.canIssue q.seq = true)
    (hw : (c.seq q.seq).waited = none) : errorAt s (.core q) =
      some (trapBefore (optisLog s 7 q.core) (ctxOf q) q.seq { mkTrap q.seq 0x12 0 0 with imprec := true }) := by
  simp [errorAt, hc, hi, hw, getCtx_id hc]

/-- An error in a tile whose window is retained whole calls for a replay (R270). -/
theorem errorAt_matrix {s : State} {c : Ctx} {m : MatCmd} {l : List MatCmd} (hc : getCtx s c.id = some c)
    (hm : c.matrix = m :: l) (hz : ∀ w32 n, m.kind ≠ .mzero w32 n) (hr : c.replay = none)
    (ht : (c.tile m.trec).retained = true) : errorAt s (.matrix c.id m.trec) =
      some (modCtx s c.id fun c => { c with replay := some m.trec }) := by
  have hmat : matrixError s c m = modCtx s c.id fun c => { c with replay := some m.trec } := by
    simp [matrixError, hr, ht]
  cases hk : m.kind with
  | mzero w32 n => exact absurd hk (hz w32 n)
  | mma | mmag => simp [errorAt, hc, hm, hk, hmat]

theorem onlyContext_modCtx (s : State) (id : CtxId) {f : Ctx → Ctx} (hf : ∀ c, (f c).id = c.id) :
    OnlyContext s (modCtx s id f) id := ⟨rfl, fun _ hj => getCtx_modCtx_ne hf hj⟩

theorem linkUp_append (s : State) {a b : Nat} (h : a ≠ b) :
    linkUp { s with linksDown := s.linksDown ++ [(a, b)] } a b = false
      ∧ linkUp { s with linksDown := s.linksDown ++ [(a, b)] } b a = false := by
  simp [linkUp, h, h.symm]

/-! ### Audits (R276 to R280) -/

/-- What the event answers where the audit ends with what its runs say. -/
theorem auditReplay_logs {s u : State} {a : AuditSample} {core : Nat} {wrong : Word}
    {second third : Option (Nat × Option Word)} (hexec : exec (.auditReplay a.index core wrong) s = .next u)
    (hu : u = endAudit s a second third) {v : Verdict} (hv : verdict a second third = v) (hnd : v.raised.Nodup) :
    ∃ t, exec (.auditReplay a.index core wrong) s = .next t ∧ AuditLogged s t a v := by
  subst hv hu
  exact ⟨_, hexec, endAudit_logged s a second third hnd⟩

/-- The bunting in which a sample's unit runs again: with the members and the rows that were logged (R277). -/
def replayBunting (s : State) (a : AuditSample) : Bunting :=
  { id := s.nextBunting, die := a.die, slot := 0, released := s.cycle, key := a.key, image := a.image, running := none
    members := a.members.map fun m => { m with parked := none, firstRow := 0, written := 0 }
    sample := none, gathered := a.gathered, scattered := [], replay := some a.index }

theorem startAuditRun_eq (s : State) (a : AuditSample) (x : Place) : startAuditRun s a x =
    startNeutral { s with buntings := s.buntings ++ [replayBunting s a], nextBunting := s.nextBunting + 1 }
      (replayBunting s a) x := rfl

section audit

variable {s : State} {a : AuditSample} {core : Nat} {wrong : Word}
  (ha : (s.audits.find? fun y => y.index == a.index) = some a) (hrun : auditRunning s a.index = false)
include ha hrun

/-- A first replay: with the original's signature the audit ends (R278). -/
theorem auditReplay_agrees {w : Word} (h2 : a.second = none) (hend : a.ended = some (core, some w))
    (hw : w ^^^ wrong = a.signature) :
    ∃ t, exec (.auditReplay a.index core wrong) s = .next t ∧ AuditLogged s t a ⟨0, core, 0xFF, 0xFF, []⟩ := by
  refine auditReplay_logs (exec_auditReplay_compares ha hrun hend) (second := some (core, some (w ^^^ wrong)))
    (third := none) ?_ ?_ List.nodup_nil
  · unfold compareRun
    rw [h2]
    exact if_pos hw
  · exact if_pos hw

/-- A second replay is compared with the original and with the first (R278, R279). -/
theorem auditReplay_third {c2 : Nat} {w2 : Word} {r : Option Word} (h2 : a.second = some (c2, w2))
    (hend : a.ended = some (core, r)) {v : Verdict}
    (hv : verdict a (some (c2, some w2)) (some (core, r.map (· ^^^ wrong))) = v) (hnd : v.raised.Nodup) :
    ∃ t, exec (.auditReplay a.index core wrong) s = .next t ∧ AuditLogged s t a v := by
  refine auditReplay_logs (exec_auditReplay_compares ha hrun hend) ?_ hv hnd
  unfold compareRun
  rw [h2]

/-- A first replay that did not end as it should drops the audit (R278). -/
theorem auditReplay_cut (h2 : a.second = none) (hend : a.ended = some (core, none)) :
    ∃ t, exec (.auditReplay a.index core wrong) s = .next t ∧ AuditLogged s t a ⟨3, core, 0xFF, 0xFF, []⟩ := by
  refine auditReplay_logs (exec_auditReplay_compares ha hrun hend) (second := some (core, none)) (third := none) ?_ rfl
    List.nodup_nil
  unfold compareRun
  rw [h2]
  rfl

/-- Where no core can run the first replay, the audit is dropped (R277, R278). -/
theorem auditReplay_noCore (h2 : a.second = none) (hend : a.ended = none) (hp : auditPlaces s a = []) :
    ∃ t, exec (.auditReplay a.index core wrong) s = .next t ∧ AuditLogged s t a ⟨3, 0xFF, 0xFF, 0xFF, []⟩ := by
  refine auditReplay_logs (exec_auditReplay_starts ha hrun hend) (second := none) (third := none) ?_ rfl List.nodup_nil
  rw [nextAuditRun, if_pos hp, h2]
  rfl

/-- The unit runs again in a neutral context on the core (R277). -/
theorem auditReplay_runs {x : Place} (hend : a.ended = none)
    (hx : ((auditPlaces s a).find? fun y => y.core == core) = some x) :
    ∃ t, exec (.auditReplay a.index core wrong) s = .next t ∧ ∃ b ∈ t.buntings,
      b.replay = some a.index ∧ b.running = some { core := core, slot := x.slot } ∧ b.image = a.image
        ∧ b.gathered = a.gathered ∧ b.members.length = a.members.length
        ∧ ∃ c, getCtx t { core := core, slot := x.slot } = some c ∧ c.neutral = some b.id := by
  obtain ⟨hcore, -, -, hfree⟩ := auditPlaces_place hx
  have hne : auditPlaces s a ≠ [] := by rintro h; simp [h] at hx
  have hnext : nextAuditRun s a core = startAuditRun s a x := by
    rw [nextAuditRun, if_neg hne, hx]
  refine ⟨_, (exec_auditReplay_starts ha hrun hend).trans (congrArg _ hnext), ?_⟩
  rw [startAuditRun_eq]
  have hmem : replayBunting s a ∈ s.buntings ++ [replayBunting s a] := by simp
  obtain ⟨⟨b, hb, hrest⟩, c, hc, hcn⟩ := startNeutral_runs (x := x)
    (s := { s with buntings := s.buntings ++ [replayBunting s a], nextBunting := s.nextBunting + 1 }) hmem
    (by rw [hcore]; exact hfree)
  rw [hcore] at hrest hc
  have hid := congrArg Bunting.id hrest
  have hreplay := congrArg Bunting.replay hrest
  have hrunning := congrArg Bunting.running hrest
  have himage := congrArg Bunting.image hrest
  have hgathered := congrArg Bunting.gathered hrest
  have hlength := congrArg (fun b => b.members.length) hrest
  simp only [buntingRest_id, buntingRest_replay, buntingRest_running, buntingRest_image, buntingRest_gathered,
    buntingRest_members_length] at hid hreplay hrunning himage hgathered hlength
  exact ⟨b, hb, hreplay, hrunning, himage, hgathered, by simpa [replayBunting] using hlength, c, hc, by rw [hcn, hid]⟩

end audit

theorem verdict_third {a : AuditSample} {c2 c3 : Nat} {w2 w3 : Word} (h : w2 ≠ a.signature) :
    verdict a (some (c2, some w2)) (some (c3, some w3)) =
      if w3 = a.signature then ⟨1, c2, c3, c2, [c2]⟩
      else if w3 = w2 then ⟨1, c2, c3, a.core, [a.core]⟩ else ⟨2, c2, c3, 0xFF, [a.core, c2, c3]⟩ := if_neg h

theorem verdict_third_dropped {a : AuditSample} {c2 c3 : Nat} {w2 : Word} (h : w2 ≠ a.signature) :
    verdict a (some (c2, some w2)) (some (c3, none)) = ⟨3, c2, c3, 0xFF, []⟩ := if_neg h

/-! ### Reset and loss of power (R23, R24, R290) -/

theorem cellGet_filter_none {m : List Host.Cell} {f : Host.Cell → Bool} {a : Nat} (h : ∀ b, f (a, b) = false) :
    cellGet (m.filter f) a = 0 := by
  induction m with
  | nil => rfl
  | cons e m ih =>
    obtain ⟨k, b⟩ := e
    by_cases hk : k = a
    · subst hk; simpa [h b] using ih
    · by_cases hf : f (k, b) = true
      · simpa [hf, cellGet, hk] using ih
      · simpa [hf] using ih

/-- HBM reads 0 where no line is marked, no area saved and only host memory listed (log entry 1). -/
theorem physByte_hbm_cleared {s t : State} (hmem : t.mem = s.mem.filter fun x => physKind x.1 == .host)
    (hmarks : t.marks = []) (hareas : t.areas = []) (k a : Nat) (ha : ∃ d, physKind a = .hbm d) :
    physByte t k a = 0 := by
  obtain ⟨d, hd⟩ := ha
  have hnone : cellGet t.mem a = 0 := by
    rw [hmem]
    exact cellGet_filter_none fun _ => by rw [hd]; rfl
  simp [physByte, hd, hbmByte, hmarks, alGet, unmarkedByte, hareas, hnone]

/-! ### The obligation -/

/-- What an error does, by where it occurs (R192, R270, R274, R310). -/
theorem errors_act (s : State) :
    (∀ a, canPoison s a = true → ∃ t, exec (.uncorrectableError (.line a)) s = .next t ∧ lineOf a ∈ t.poison
        ∧ (∀ l ∈ s.poison, l ∈ t.poison) ∧ t.mem = s.mem ∧ t.pool = s.pool ∧ t.ctxs = s.ctxs)
      ∧ (∀ q c, getCtx s (ctxOf q) = some c → c.canIssue q.seq = true → (c.seq q.seq).waited = none →
          exec (.uncorrectableError (.core q)) s = .next (trapBefore (optisLog s 7 q.core) (ctxOf q) q.seq
            { mkTrap q.seq 0x12 0 0 with imprec := true }))
      ∧ (∃ t, exec (.uncorrectableError .corrected) s = .next t ∧ t.corrected = s.corrected + 1
          ∧ t.optis.getLast? = some { code := 13, arg := s.corrected + 1 } ∧ t.mem = s.mem ∧ t.ctxs = s.ctxs)
      ∧ (∀ c m l, getCtx s c.id = some c → c.matrix = m :: l → (∀ w32 n, m.kind ≠ .mzero w32 n) → c.replay = none →
          (c.tile m.trec).retained = true → ∃ t, exec (.uncorrectableError (.matrix c.id m.trec)) s = .next t
            ∧ OnlyContext s t c.id ∧ getCtx t c.id = some { c with replay := some m.trec }) := by
  refine ⟨fun a h => ?_, fun q c hc hi hw => exec_error (errorAt_core hc hi hw), ?_, fun c m l hc hm hz hr ht => ?_⟩
  · exact ⟨_, exec_error (errorAt_line h), List.mem_cons_self, mem_poison_cons s.poison (lineOf a), rfl, rfl, rfl⟩
  · exact ⟨_, exec_error rfl, rfl, optisLog_getLast _ _ _, rfl, rfl⟩
  · exact ⟨_, exec_error (errorAt_matrix hc hm hz hr ht), onlyContext_modCtx s c.id fun _ => rfl,
      getCtx_modCtx (fun _ => rfl) hc⟩

/-- A die link that fails is down from both sides (R275). -/
theorem dieLinkFailure_downs {s : State} {a b : Nat} (ha : a < 5) (hb : b < 5) (hab : a ≠ b) (hup : linkUp s a b = true) :
    ∃ t, exec (.dieLinkFailure a b) s = .next t ∧ linkUp t a b = false ∧ linkUp t b a = false ∧ t.mem = s.mem
      ∧ t.ctxs = s.ctxs := by
  obtain ⟨hab', hba'⟩ := linkUp_append s hab
  have hexec : exec (.dieLinkFailure a b) s = .next (reportReeve
      (optisLog { s with linksDown := s.linksDown ++ [(a, b)] } 2 (8 * a + b)) 2 (8 * a + b)) := by
    rw [exec_dieLinkFailure, execDieLinkFailure, if_pos ⟨ha, hb, hab, hup⟩]
  exact ⟨_, hexec, hab', hba', rfl, rfl⟩

/-- A score is cleared and a core quarantined by SYS.SUSPECT (R280). -/
theorem suspect_acts {s : State} {k : Nat} (on : Bool) (h : k < 160) (hk : k < s.cores.length) :
    (∃ t, exec (.suspectClr k) s = .next t ∧ OnlyCore s t k
        ∧ getCore t k = { getCore s k with score := 0, recomm := false })
      ∧ ∃ t, exec (.suspectQuar k on) s = .next t ∧ OnlyCore s t k ∧ getCore t k = { getCore s k with quar := on } := by
  have hclr : exec (.suspectClr k) s = .next (modCore s k fun x => { x with score := 0, recomm := false }) := by
    rw [exec_suspectClr, execSuspectClr, if_pos h, clearScore]
  have hquar : exec (.suspectQuar k on) s = .next (modCore s k fun x => { x with quar := on }) := by
    rw [exec_suspectQuar, execSuspectQuar, if_pos h, setQuar]
  exact ⟨⟨_, hclr, onlyCore_modCore s k _, getCore_modCore_same _ hk⟩,
    ⟨_, hquar, onlyCore_modCore s k _, getCore_modCore_same _ hk⟩⟩

/-- Heat is logged and reported, and a trip stops the device (R25, R310). -/
theorem thermal_acts {s : State} {d : Nat} (h : d < 5) :
    (∃ t, exec (.thermalWarning d) s = .next t ∧ { t with optis := s.optis, outbox := s.outbox } = s
        ∧ t.optis.getLast? = some { code := 8, arg := d })
      ∧ ∃ t, exec (.thermalTrip d) s = .next t ∧ t.halted = true ∧ { t with halted := s.halted, optis := s.optis } = s := by
  have hwarn : exec (.thermalWarning d) s = .next (reportReeve (optisLog s 8 d) 8 d) := by
    rw [exec_thermalWarning, execThermalWarning, if_pos h]
  have htrip : exec (.thermalTrip d) s = .next { optisLog s 9 d with halted := true } := by
    rw [exec_thermalTrip, execThermalTrip, if_pos h]
  exact ⟨⟨_, hwarn, rfl, optisLog_getLast s 8 d⟩, ⟨_, htrip, rfl, rfl⟩⟩

/-- Firmware waits for the next reset, or is discarded and logged (R311). -/
theorem firmwareUpdate_acts (s : State) (v : Nat) (img sig : List Byte) :
    (Config.ed448Verifies Config.tolurikKey (shake256 img 64) sig = true → s.fwVersion ≤ v →
        exec (.firmwareUpdate v img sig) s = .next { s with fwPending := some (v, img) })
      ∧ ((Config.ed448Verifies Config.tolurikKey (shake256 img 64) sig = false ∨ v < s.fwVersion) →
        ∃ t, exec (.firmwareUpdate v img sig) s = .next t ∧ { t with optis := s.optis } = s
          ∧ t.optis.getLast? = some { code := 11, arg := v }) := by
  rw [exec_firmwareUpdate, execFirmwareUpdate]
  generalize Config.ed448Verifies Config.tolurikKey (shake256 img 64) sig = ok
  constructor
  · intro hok hv
    rw [if_pos (by simp [hok, hv])]
  · intro hbad
    refine ⟨optisLog s 11 v, ?_, rfl, optisLog_getLast s 11 v⟩
    rw [if_neg ?_]
    obtain h | h := hbad
    · simp [h]
    · simp [Nat.not_le.mpr h]

/-- Settles O57: each event takes the branch that its hypotheses name; an audit's verdict is read off its runs, and a replay's
bunting and neutral context stand through the check of its header. -/
theorem deviceEvents : Obligations.DeviceEvents := by
  intro s
  obtain ⟨hline, hcore, hcorrected, hmatrix⟩ := errors_act s
  refine ⟨hline, hcore, hcorrected, hmatrix, fun a b ha hb hab hup => dieLinkFailure_downs ha hb hab hup, ?audit,
    fun k on h hk => suspect_acts on h hk, fun d h => thermal_acts h, firmwareUpdate_acts s, ?reset⟩
  case audit =>
    intro a core wrong ha hrun answers score more logs
    refine ⟨fun w h2 hend => ⟨fun hw => auditReplay_agrees ha hrun h2 hend hw, fun hw => ?_⟩,
      fun c2 w2 w h2 hw2 hend => ⟨fun hw => ?_, fun hw => ?_, fun hw hne h12 h13 h23 => ?_⟩,
      fun hend => ⟨fun h2 => auditReplay_cut ha hrun h2 hend, fun c2 w2 h2 hw2 =>
        auditReplay_third ha hrun h2 hend (verdict_third_dropped hw2) List.nodup_nil⟩,
      fun hend h2 hp => auditReplay_noCore ha hrun h2 hend hp, fun x hend hx => ?_⟩
    · obtain ⟨hlog, hcores, hfind⟩ := compareRun_differs h2 hw ha
      exact ⟨_, exec_auditReplay_compares ha hrun hend, hlog, fun k => congrArg CoreState.score (hcores k), hfind⟩
    · exact auditReplay_third ha hrun h2 hend ((verdict_third hw2).trans (if_pos hw)) (by simp)
    · have hne : w ^^^ wrong ≠ a.signature := by rwa [hw]
      exact auditReplay_third ha hrun h2 hend ((verdict_third hw2).trans ((if_neg hne).trans (if_pos hw)))
        (by simp)
    · exact auditReplay_third ha hrun h2 hend ((verdict_third hw2).trans ((if_neg hw).trans (if_neg hne)))
        (by simp [h12, h13, h23])
    · obtain ⟨-, hok, hother, -⟩ := auditPlaces_place hx
      exact ⟨hok, hother, auditReplay_runs ha hrun hend hx⟩
  case reset =>
    refine ⟨fun h => ⟨moduleReset s, ?_, ?_, rfl, rfl, rfl⟩,
      fun h => ⟨{ retained s with powered := false }, ?_, ?_, rfl, rfl, rfl⟩⟩
    · rw [exec_moduleReset, execModuleReset, if_neg]
      obtain h | h := h <;> simp [h]
    · exact ⟨rfl, rfl, rfl, rfl, rfl, rfl, rfl, rfl, rfl, rfl, physByte_hbm_cleared (s := s) rfl rfl rfl⟩
    · rw [exec_powerLoss, execPowerLoss, if_pos h]
    · exact ⟨rfl, rfl, rfl, rfl, rfl, rfl, rfl, rfl, rfl, rfl, physByte_hbm_cleared (s := s) rfl rfl rfl⟩

end Sys2Proof.Proofs
